-- ==== Sys2Proof/Word.lean ====
section
/-!
DEFINITION. The word types of the Fjarry and its register numbers: x registers of 64 bits (spec 00, R1), vector,
mask, tile and accumulator registers as whole bit strings (R164, R303, R305), and the operand numbers of
Table 10.2 and Table 10.3.
-/

namespace Sys2Proof

/-- A 64-bit word: an x register, an instruction word, a system register, an address. -/
abbrev Word := BitVec 64

/-- One byte of memory. -/
abbrev Byte := BitVec 8

/-- A vector register: 512 bytes, lane i of a type of z bits at bits z × i (R164). -/
abbrev VecVal := BitVec 4096

/-- A mask register: 1024 bits (R1). -/
abbrev MaskVal := BitVec 1024

/-- A tile register: 2,048 bytes, row r at bytes 64r to 64r + 63 (R303). -/
abbrev TileVal := BitVec 16384

/-- An accumulator: 32 × 32 elements of 32 bits, element (i, j) at bytes 128i + 4j (R305). -/
abbrev AccVal := BitVec 32768

/-- The 192 bytes of a line (R83). -/
abbrev LineVal := BitVec 1536

/-- Number of an x register (codes 0 to 31 of Table 10.2). -/
abbrev XReg := BitVec 5

/-- Number of a vector register (codes 32 to 47 of Table 10.2). -/
abbrev VReg := BitVec 4

/-- Number of a mask register (codes 56 to 63 of Table 10.2). -/
abbrev KReg := BitVec 3

/-- Number of a ring handle (codes 48 to 55 of Table 10.2). -/
abbrev HReg := BitVec 3

/-- Number of a predicate (R193). -/
abbrev PReg := BitVec 3

/-- Number of a tile register (codes 0 to 3 of Table 10.3). -/
abbrev TReg := BitVec 2

/-- Number of an accumulator (codes 4 and 5 of Table 10.3). -/
abbrev AReg := BitVec 1

end Sys2Proof
end

