-- ==== Sys2Proof/Syntax.lean ====
section
/-!
DEFINITION. The instructions and device steps of the Fjarry: one constructor per row of the opcode table. Rows 0 to
184 of the table are instructions of the 64-bit word (spec 10 to 17); their operands carry the register classes of the
encoding tables. Rows 185 to 306 are steps of other agents of the device (spec 02 to 08, 18 to 21, 26 to 28), which
have no instruction word; their arguments name the agent and the operands of the step.
-/

namespace Sys2Proof

/-- Element formats (Table 9.1, ty 0 to 12). -/
inductive Ty where
  | i8 | u8 | i16 | u16 | i32 | u32 | f16 | bf16 | f32 | e4m3 | e5m2 | i4 | gq4
  deriving DecidableEq, Repr

/-- Conditions (Table 10.4, md 0 to 11). -/
inductive Cond where
  | eq | ne | lt | ge | ltu | geu | le | gt | leu | gtu | uo | ord
  deriving DecidableEq, Repr

/-- Rounding modes (Table 9.3). -/
inductive RMode where
  | rn | rz | ru | rd | di
  deriving DecidableEq, Repr

/-- A rounding modifier: mode in md[2:0], saturation flag in md[3] (R167). -/
structure Rnd where
  mode : RMode
  sat : Bool
  deriving DecidableEq, Repr

/-- The fields every instruction carries (R190): guards, cache hint, issue delay, yield. -/
structure Hdr where
  g0 : BitVec 4
  g1 : BitVec 4
  ch : BitVec 3
  sd : BitVec 4
  y : BitVec 1
  deriving DecidableEq, Repr

/-- A source that is a vector register or a broadcast x register (R279). -/
inductive VX where
  | v (r : VReg)
  | x (r : XReg)
  deriving DecidableEq, Repr

/-- Special functions (Table 9.7). -/
inductive Fn where
  | exp2 | log2 | rcp | rsq | sqrt | tanh | sig | sinpi | cospi
  deriving DecidableEq, Repr

/-- System registers (Table 13.6). -/
inductive SysReg where
  | coreId | ctxId | membership | launchRect | blocks | time | cycle | seedTop | tdtBase | pinQuota | shadowQuota
  | sidelogStat | mqWeight | trapVec | trapCause | trapPc | trapAddr | timerCmp | cntBase | trapBlk
  | tshape (n : BitVec 2)
  deriving DecidableEq, Repr

/-- Lane shuffles (Table 14.5); each form carries the operand its b field takes. -/
inductive Shuf where
  | zlo (b : VReg) | zhi (b : VReg) | evn (b : VReg) | odd (b : VReg) | rev | rot (b : XReg)
  deriving DecidableEq, Repr

/-- Scale source of VGQE (R301). -/
inductive GqeOp where
  | given
  | fit (e : Option XReg)
  deriving DecidableEq, Repr

/-- Field that TDSET changes (R312). -/
inductive TdField where
  | base | sbase | dph
  deriving DecidableEq, Repr

/-- Size of a scalar access: an element type of codes 0 to 8, or .D for 8 bytes (R330). -/
inductive MemSz where
  | ty (t : Ty)
  | d
  deriving DecidableEq, Repr

/-- Operations of ATOM (Table 16.2). -/
inductive AtomOp where
  | add | and | or | xor | min | max | xchg
  deriving DecidableEq, Repr

/-- Ordering of an atomic with its scope register (R334). -/
inductive AtomOrd where
  | none
  | acq (s : XReg)
  | rel (s : XReg)
  | ar (s : XReg)
  deriving DecidableEq, Repr

/-- Forms of FENCE with their scope register (R340). -/
inductive FenceOp where
  | acq (s : XReg) | rel (s : XReg) | ar (s : XReg) | all
  deriving DecidableEq, Repr

/-- Forms of HCFG (R348). -/
inductive HcfgOp where
  | rx (a b : XReg) | tx (a b : XReg) | off (a b : XReg)
  deriving DecidableEq, Repr

/-- Forms of HADV (R353). -/
inductive HadvOp where
  | next (d : XReg) | done
  deriving DecidableEq, Repr

/-- Line class of a CFILL (R371). -/
inductive FillCls where
  | deflt | keep | evf | pin
  deriving DecidableEq, Repr

/-- Forms of CWIN (R373). -/
inductive CwinOp where
  | set (b c : XReg) | clr
  deriving DecidableEq, Repr

/-- Where an uncorrectable error is found (Table 28.1). -/
inductive ErrSite where
  | localMem (core off : Nat)
  | l1 (core : Nat)
  | xReg (core : Nat) (mt : Bool) (r : XReg)
  | vReg (core : Nat) (r : VReg)
  | kReg (core : Nat) (r : KReg)
  | pReg (core : Nat) (mt : Bool) (r : PReg)
  | tile (core : Nat) (r : TReg)
  | acc (core : Nat) (r : AReg)
  | matrixQueue (core : Nat)
  | sliceData (blk pa : Nat)
  | sliceTag (blk pa : Nat)
  | tcache (blk : Nat)
  | wcache (blk : Nat)
  | blockStore (blk off : Nat)
  | sideLog (blk idx : Nat)
  | heldMessage (blk idx : Nat)
  | xa (blk idx : Nat)
  | maskBuffer (blk seq : Nat)
  | hbm (pa : Nat)
  deriving DecidableEq, Repr

/-- A message to a core that its debug module has halted (R429). -/
inductive Msg where
  | store (off : Nat) (bytes : List Byte)
  | send (h : HReg) (slot cur : Nat) (bytes : List Byte)
  | commit (h : HReg) (slot : Nat)
  | wake
  deriving DecidableEq, Repr

/-- The header of a command packet: its queue, sequence number and completion request (R388). -/
structure Pkt where
  q : Nat
  seq : BitVec 32
  cmp : Bool
  deriving DecidableEq, Repr

/-- One constructor per row of the opcode table. -/
inductive Instr where
  -- integer arithmetic and logic (R256 to R258)
  | add (h : Hdr) (d a b : XReg)
  | sub (h : Hdr) (d a b : XReg)
  | mul (h : Hdr) (d a b : XReg)
  | mulh (h : Hdr) (d a b : XReg)
  | mulhu (h : Hdr) (d a b : XReg)
  | div (h : Hdr) (d a b : XReg)
  | divu (h : Hdr) (d a b : XReg)
  | rem (h : Hdr) (d a b : XReg)
  | remu (h : Hdr) (d a b : XReg)
  | and (h : Hdr) (d a b : XReg)
  | or (h : Hdr) (d a b : XReg)
  | xor (h : Hdr) (d a b : XReg)
  | andn (h : Hdr) (d a b : XReg)
  | shl (h : Hdr) (d a b : XReg)
  | shr (h : Hdr) (d a b : XReg)
  | sar (h : Hdr) (d a b : XReg)
  | rotr (h : Hdr) (d a b : XReg)
  | min (h : Hdr) (d a b : XReg)
  | max (h : Hdr) (d a b : XReg)
  | minu (h : Hdr) (d a b : XReg)
  | maxu (h : Hdr) (d a b : XReg)
  | clz (h : Hdr) (d a : XReg)
  | ctz (h : Hdr) (d a : XReg)
  | popc (h : Hdr) (d a : XReg)
  | brev (h : Hdr) (d a : XReg)
  -- bit fields, selection, addresses (R259 to R261)
  | bfx (h : Hdr) (signed : Bool) (d a b c : XReg)
  | bfi (h : Hdr) (d a b c e : XReg)
  | sel (h : Hdr) (d a b : XReg) (c : PReg)
  | lea (h : Hdr) (sc : BitVec 3) (d a b : XReg)
  | cmp (h : Hdr) (cond : Cond) (d : PReg) (a b : XReg)
  | mov (h : Hdr) (d a : XReg)
  -- immediate forms (R191, R256, R257)
  | addi (h : Hdr) (d a : XReg) (imm : BitVec 18)
  | muli (h : Hdr) (d a : XReg) (imm : BitVec 18)
  | andi (h : Hdr) (d a : XReg) (imm : BitVec 18)
  | ori (h : Hdr) (d a : XReg) (imm : BitVec 18)
  | xori (h : Hdr) (d a : XReg) (imm : BitVec 18)
  | shli (h : Hdr) (d a : XReg) (n : BitVec 6)
  | shri (h : Hdr) (d a : XReg) (n : BitVec 6)
  | sari (h : Hdr) (d a : XReg) (n : BitVec 6)
  | rotri (h : Hdr) (d a : XReg) (n : BitVec 6)
  | mini (h : Hdr) (d a : XReg) (imm : BitVec 18)
  | maxi (h : Hdr) (d a : XReg) (imm : BitVec 18)
  | minui (h : Hdr) (d a : XReg) (imm : BitVec 18)
  | maxui (h : Hdr) (d a : XReg) (imm : BitVec 18)
  | cmpi (h : Hdr) (cond : Cond) (d : PReg) (a : XReg) (imm : BitVec 18)
  | li (h : Hdr) (d : XReg) (imm : BitVec 18)
  | liw (h : Hdr) (d : XReg) (lit : Word)
  -- predicates (R262, R263)
  | plog (h : Hdr) (d a b c : PReg) (tt : BitVec 8)
  | pset (h : Hdr) (vals en : BitVec 7)
  -- control transfer (R264, R265)
  | br (h : Hdr) (imm : BitVec 18)
  | brx (h : Hdr) (a : XReg)
  | call (h : Hdr) (d : XReg) (imm : BitVec 18)
  | callx (h : Hdr) (d a : XReg)
  | ret (h : Hdr) (a : XReg)
  | loop (h : Hdr) (d : XReg) (imm : BitVec 18)
  | endTask (h : Hdr)
  | nop (h : Hdr)
  -- gangs and sleep (R267 to R269)
  | fuse (h : Hdr) (mask : BitVec 8)
  | split (h : Hdr)
  | sleep (h : Hdr) (d a : XReg)
  -- traps and system registers (R270 to R273)
  | trap (h : Hdr) (imm : BitVec 18)
  | tret (h : Hdr)
  | srd (h : Hdr) (d : XReg) (sr : SysReg)
  | swr (h : Hdr) (a : XReg) (sr : SysReg)
  | sxch (h : Hdr) (d a : XReg) (sr : SysReg)
  | bkpt (h : Hdr) (imm : BitVec 18)
  | time (h : Hdr) (d : XReg)
  | cyc (h : Hdr) (d : XReg)
  -- element-wise vector arithmetic (R283, R284)
  | vadd (h : Hdr) (ty : Ty) (r : Rnd) (d a : VReg) (b : VX) (e : Option KReg)
  | vsub (h : Hdr) (ty : Ty) (r : Rnd) (d a : VReg) (b : VX) (e : Option KReg)
  | vmul (h : Hdr) (ty : Ty) (r : Rnd) (d a : VReg) (b : VX) (e : Option KReg)
  | vfma (h : Hdr) (ty : Ty) (r : Rnd) (d a : VReg) (b : VX) (c : VReg) (e : Option KReg)
  | vfms (h : Hdr) (ty : Ty) (r : Rnd) (d a : VReg) (b : VX) (c : VReg) (e : Option KReg)
  | vfnma (h : Hdr) (ty : Ty) (r : Rnd) (d a : VReg) (b : VX) (c : VReg) (e : Option KReg)
  | vmin (h : Hdr) (ty : Ty) (d a : VReg) (b : VX) (e : Option KReg)
  | vmax (h : Hdr) (ty : Ty) (d a : VReg) (b : VX) (e : Option KReg)
  | vabs (h : Hdr) (ty : Ty) (sat : Bool) (d a : VReg) (e : Option KReg)
  | vneg (h : Hdr) (ty : Ty) (sat : Bool) (d a : VReg) (e : Option KReg)
  | vcpys (h : Hdr) (ty : Ty) (d a : VReg) (b : VX) (e : Option KReg)
  | vand (h : Hdr) (ty : Ty) (d a : VReg) (b : VX) (e : Option KReg)
  | vor (h : Hdr) (ty : Ty) (d a : VReg) (b : VX) (e : Option KReg)
  | vxor (h : Hdr) (ty : Ty) (d a : VReg) (b : VX) (e : Option KReg)
  | vnot (h : Hdr) (ty : Ty) (d a : VReg) (e : Option KReg)
  | vshl (h : Hdr) (ty : Ty) (d a : VReg) (b : VX) (e : Option KReg)
  | vshr (h : Hdr) (ty : Ty) (d a : VReg) (b : VX) (e : Option KReg)
  | vsar (h : Hdr) (ty : Ty) (d a : VReg) (b : VX) (e : Option KReg)
  -- compare, select, convert, widen, narrow (R285 to R290)
  | vcmp (h : Hdr) (ty : Ty) (cond : Cond) (d : KReg) (a : VReg) (b : VX) (e : Option KReg)
  | vsel (h : Hdr) (ty : Ty) (d a b : VReg) (c : KReg)
  | vcvt (h : Hdr) (ty src : Ty) (r : Rnd) (d a : VReg) (e : Option KReg)
  | vwadd (h : Hdr) (ty : Ty) (q : Bool) (d a : VReg) (b : VX)
  | vwmul (h : Hdr) (ty : Ty) (q : Bool) (d a : VReg) (b : VX)
  | vwfma (h : Hdr) (ty : Ty) (q : Bool) (d a : VReg) (b : VX)
  | vnrw (h : Hdr) (ty src : Ty) (r : Rnd) (d a : VReg)
  -- expressions, functions, reductions (R291 to R297)
  | vexpr (h : Hdr) (ty : Ty) (r : Rnd) (d : VReg) (a b c e : Option VReg) (lit : Word)
  | vsfu (h : Hdr) (ty : Ty) (r : Rnd) (fn : Fn) (d a : VReg) (e : Option KReg)
  | vrsum (h : Hdr) (ty src : Ty) (r : Rnd) (d a : VReg) (c : Option VReg) (e : Option KReg)
  | vrmax (h : Hdr) (ty : Ty) (d a : VReg) (e : Option KReg)
  | vrmin (h : Hdr) (ty : Ty) (d a : VReg) (e : Option KReg)
  | vscan (h : Hdr) (ty : Ty) (r : Rnd) (d a : VReg) (e : Option KReg)
  -- moving lanes (R298)
  | vperm (h : Hdr) (ty : Ty) (d a b : VReg)
  | vshuf (h : Hdr) (ty : Ty) (op : Shuf) (d a : VReg)
  | vsplat (h : Hdr) (ty : Ty) (d : VReg) (a : XReg) (e : Option KReg)
  | viota (h : Hdr) (ty : Ty) (d : VReg) (a : XReg) (e : Option KReg)
  | vextr (h : Hdr) (ty : Ty) (d : XReg) (a : VReg) (b : XReg)
  | vinsr (h : Hdr) (ty : Ty) (d : VReg) (a b : XReg)
  | vmov (h : Hdr) (ty : Ty) (d a : VReg) (e : Option KReg)
  | vcprs (h : Hdr) (ty : Ty) (d a : VReg) (b : KReg)
  | vexpd (h : Hdr) (ty : Ty) (d a : VReg) (b : KReg)
  -- masks, GQ4, random numbers, dot products, classes (R287, R297, R299 to R302)
  | klog (h : Hdr) (d a b c : KReg) (tt : BitVec 8)
  | kpop (h : Hdr) (d : XReg) (a : KReg)
  | kfirst (h : Hdr) (d : XReg) (a : KReg)
  | vgqd (h : Hdr) (ty : Ty) (r : Rnd) (d a : VReg) (b c : XReg) (e : Option KReg)
  | vgqe (h : Hdr) (ty : Ty) (op : GqeOp) (d a : VReg) (b c : XReg)
  | vrng (h : Hdr) (ty : Ty) (d : VReg) (a b : XReg) (e : Option KReg)
  | vdot4 (h : Hdr) (ty : Ty) (r : Rnd) (d a b : VReg) (c : Option VReg)
  | vclass (h : Hdr) (ty : Ty) (d : KReg) (a : VReg) (imm : BitVec 9)
  -- descriptors, tiles, matrix, accumulators (R312 to R326)
  | tdld (h : Hdr) (id : BitVec 8)
  | tdst (h : Hdr) (a : XReg) (id : BitVec 8)
  | tdset (h : Hdr) (fld : TdField) (a : XReg) (id : BitVec 8)
  | tdinv (h : Hdr) (id : BitVec 8)
  | tld (h : Hdr) (d : TReg) (a : XReg) (id : BitVec 8)
  | tst (h : Hdr) (d : TReg) (a : XReg) (id : BitVec 8)
  | tzero (h : Hdr) (d : TReg)
  | ttrn (h : Hdr) (d a : TReg)
  | tcmp (h : Hdr) (d a b : TReg)
  | mma (h : Hdr) (z : Bool) (d : AReg) (a b : TReg)
  | mmas (h : Hdr) (z : Bool) (d : AReg) (a b c : TReg)
  | mmag (h : Hdr) (z : Bool) (d : AReg) (a b : TReg) (c : XReg)
  | azero (h : Hdr) (d : AReg)
  | ald (h : Hdr) (d : AReg) (a : XReg) (id : BitVec 8)
  | ast (h : Hdr) (r : Rnd) (d : AReg) (a : XReg) (id : BitVec 8)
  | acvt (h : Hdr) (ty : Ty) (r : Rnd) (d : TReg) (a : AReg)
  | aadd (h : Hdr) (int : Bool) (d a b : AReg)
  | mqry (h : Hdr) (d : XReg)
  -- loads, stores, atomics, reductions (R330 to R339)
  | ld (h : Hdr) (sz : MemSz) (d a : XReg) (imm : BitVec 18)
  | st (h : Hdr) (sz : MemSz) (d a : XReg) (imm : BitVec 18)
  | ldv (h : Hdr) (d : VReg) (a b : XReg)
  | stv (h : Hdr) (d : VReg) (a b : XReg)
  | ldx (h : Hdr) (ty : Ty) (d : VReg) (a : XReg) (b : VReg) (e : Option KReg)
  | stx (h : Hdr) (ty : Ty) (d : VReg) (a : XReg) (b : VReg) (e : Option KReg)
  | lda (h : Hdr) (sz : MemSz) (d a b : XReg)
  | stl (h : Hdr) (sz : MemSz) (d a b : XReg)
  | atom (h : Hdr) (ty : Ty) (op : AtomOp) (dbl : Bool) (ord : AtomOrd) (d a b : XReg)
  | cas (h : Hdr) (ty : Ty) (dbl : Bool) (ord : AtomOrd) (d a b : XReg)
  | red (h : Hdr) (ty : Ty) (a b : XReg) (sid : BitVec 4)
  | redo (h : Hdr) (ty : Ty) (a b : XReg) (sid : BitVec 4)
  | redc (h : Hdr) (mode : RMode) (sid : BitVec 4)
  -- fences, L1, prefetch, barriers, timelines (R340 to R346)
  | fence (h : Hdr) (op : FenceOp)
  | l1inv (h : Hdr) (s : Option XReg)
  | prf (h : Hdr) (a b : XReg)
  | wait (h : Hdr)
  | gbar (h : Hdr)
  | tlw (h : Hdr) (n : BitVec 3) (a b : XReg) (c : Option XReg)
  | tlr (h : Hdr) (n : BitVec 3) (issued : Bool) (d : XReg) (c : Option XReg)
  | tls (h : Hdr) (d a : XReg)
  -- ring handles (R347 to R356)
  | hcfg (h : Hdr) (op : HcfgOp) (d : HReg)
  | hrsv (h : Hdr) (a : HReg)
  | hcmt (h : Hdr) (a : HReg)
  | hadv (h : Hdr) (op : HadvOp) (a : HReg)
  | hqry (h : Hdr) (d : XReg) (a : HReg)
  | send (h : Hdr) (a : HReg) (b : VReg) (c : XReg)
  | wake (h : Hdr) (a : XReg)
  -- movement, cache, walker, snapshot, launch (R361 to R383)
  | mvcall (h : Hdr) (d a : XReg) (imm : BitVec 18)
  | mvret (h : Hdr)
  | cpy (h : Hdr) (s1 : Bool) (d a b c : XReg) (e : Option XReg)
  | cpyg (h : Hdr) (s1 : Bool) (d a b c : XReg) (e : Option XReg)
  | cpyw (h : Hdr) (s1 : Bool) (d a b c : XReg) (e : Option XReg)
  | cpyp (h : Hdr) (d a b c e : XReg)
  | cfill (h : Hdr) (cls : FillCls) (s1 : Bool) (d : XReg) (a : Option XReg) (id : BitVec 8)
  | cpin (h : Hdr) (s1 : Bool) (d a : XReg) (b : Option XReg)
  | cunpin (h : Hdr) (s1 : Bool) (d a : XReg) (b : Option XReg)
  | cwin (h : Hdr) (op : CwinOp) (s1 : Bool) (d a : XReg) (e : Option XReg)
  | wvopen (h : Hdr) (d a b : XReg) (wid : BitVec 4)
  | wvclose (h : Hdr) (d : XReg) (wid : BitVec 4)
  | wvqry (h : Hdr) (d a b : XReg) (wid : BitVec 4)
  | wvdone (h : Hdr) (d : XReg) (wid : BitVec 4)
  | snopen (h : Hdr) (d a b : XReg)
  | snacc (h : Hdr) (d : XReg)
  | snrej (h : Hdr) (d : XReg)
  | snqry (h : Hdr) (a b : XReg)
  | lrpatch (h : Hdr) (d a b c : XReg)
  | lrarm (h : Hdr) (d a : XReg)
  | lrqry (h : Hdr) (d a : XReg)
  | seedrd (h : Hdr) (hi : Bool) (d : XReg)
  | collp (h : Hdr) (ty : Ty) (d a b c e : XReg)
  -- steps of a core's units (R36, R38, R43, R129, R255, R269, R356, R361)
  | timerTrap (core : Nat)
  | taskStart (core : Nat)
  | endRetire (core : Nat)
  | routineStart (core : Nat)
  | gangFusion (core : Nat)
  | sleepDeadline (core : Nat)
  | wakeArrival (core : Nat)
  | tlwSatisfied (core : Nat)
  -- steps of a Cicada sequencer and of the combining tree (R52 to R61, R70)
  | seqProgramFetch (blk seq : Nat)
  | mask (blk seq : Nat) (m : BitVec 32)
  | maskb (blk seq : Nat) (tag : BitVec 4) (cnt : BitVec 24) (m : BitVec 32)
  | loopEntry (blk seq : Nat) (n : BitVec 16)
  | endl (blk seq : Nat)
  | jump (blk seq : Nat) (target : BitVec 16)
  | note (blk seq : Nat) (value : BitVec 32)
  | halt (blk seq : Nat)
  | fire (blk seq : Nat) (sq : BitVec 32)
  | memberRelease (blk seq : Nat) (sq : BitVec 32)
  | gbarCountComplete (ldom : Nat)
  | gbarRelease (ldom : Nat)
  -- steps of engines and of the matrix unit (R127, R307, R308, R363, R397)
  | copySectorPerformed (core op : Nat)
  | timelineComplete (core tl n : Nat)
  | matrixArbitration (blk octet : Nat)
  | matrixCommandComplete (core : Nat)
  | rampWindow (blk : Nat)
  -- steps of memory (R79, R94, R102, R445, R449, R450, R453)
  | homeAccess (aid : Nat)
  | hbmFillComplete (blk pa aid : Nat)
  | remoteScratchpadAccess (aid : Nat)
  | translationWalk (blk asid vpage : Nat)
  | pendingLoadFault (aid : Nat) (cause : BitVec 16)
  | sideLogEntry (aid : Nat) (cause : BitVec 16)
  | replayPass (core : Nat) (mt : Bool)
  | engineFault (core op : Nat) (cause : BitVec 16) (va : Word)
  -- steps of reduction units and snapshot agents (R142, R179, R337, R339)
  | redUpdateApply (aid : Nat)
  | redoOpenApply (blk asid : Nat) (sid : BitVec 4)
  | redcCloseApply (blk asid : Nat) (sid : BitVec 4)
  | snapshotOpApply (blk asid g : Nat)
  -- steps of rings (R349, R352)
  | ringReservationRequest (tx : Nat) (th : HReg)
  | ringGrant (tx : Nat) (th : HReg) (grant : Option (Nat × Nat))
  | commitComplete (tx : Nat) (th : HReg)
  -- steps of the Weevil (R150 to R159, R466)
  | weevilBatchTake (blk asid wid : Nat)
  | prefetchComplete (blk asid wid p tile : Nat)
  | pointIssue (core : Nat)
  | ageBoundExpiry (blk asid wid p : Nat)
  | forcedFillComplete (core : Nat) (line : Nat)
  | forcedFillRetry (core : Nat) (line : Nat)
  | walkStall (core : Nat)
  | leaseExpiry (blk pa core : Nat)
  | endOfWork (asid wid : Nat)
  | epilogueStart (core : Nat)
  -- queues and packets of the Hive (R386 to R390)
  | notifyWrite (q : Nat) (value : Word)
  | launch (k : Pkt) (index : BitVec 12)
  | tlwait (k : Pkt) (va n : Word)
  | tlwaitSatisfied (k : Pkt) (va n : Word)
  | tlsignal (k : Pkt) (va n : Word)
  | seedpush (k : Pkt) (lo hi : Word)
  | seedpop (k : Pkt)
  | seedfork (k : Pkt) (n : Word)
  | copy (k : Pkt) (dst src : Word) (bytes : BitVec 32) (dir : BitVec 2)
  | copyPacketComplete (k : Pkt) (status : BitVec 16)
  | window (k : Pkt) (base size : Word) (blocks : BitVec 32) (pin clear : Bool)
  | windowChangeComplete (asid : Nat) (base : Word)
  | fencePacket (k : Pkt)
  | marker (k : Pkt) (value : Word)
  | queueQuantum
  -- placer (R392 to R395, R468), stop and restore (R48, R50)
  | placement
  | reservation (asid index : Nat)
  | placementStarved (asid index : Nat)
  | launchEnd (serial : Nat)
  | coreStop (core : Nat)
  | restore (asid : Nat) (rect : Word)
  -- shoot-down (R105 to R107)
  | shootdown (value : Word)
  | shootdownFlush (value : Word)
  | shootdownSliceAck (blk : Nat)
  | shootdownStatusRead
  -- supervisor commands (Table 19.4)
  | ctxload (arg0 : Word)
  | ctxupd (arg0 : Word)
  | ctxevict (arg0 : Word)
  | preempt (arg0 arg1 : Word)
  | qresync (arg0 arg1 : Word)
  | bssplit (arg0 arg1 : Word)
  | signrun (arg0 : Word)
  | attest (arg0 arg1 : Word)
  | svnadv (arg0 : Word)
  | seqreset (arg0 arg1 : Word)
  | contain (arg0 : Word)
  | uncontain (arg0 : Word)
  | unknownCommand (cmd : BitVec 8)
  | svcStatusRead
  -- debug, trace, waits, registers (R69, R426 to R434, R458, R3)
  | seqSnapshotLatch (blk seq : Nat)
  | hreq (core : Nat)
  | rreq (core : Nat)
  | sreq (core : Nat)
  | debugStatusRead (core : Nat)
  | breakpointMatch (core : Nat) (mt : Bool)
  | heldMessage (core : Nat) (m : Msg)
  | traceRecordDrain (blk : Nat)
  | tracePortWrite (blk : Nat) (t : BitVec 7) (slot : BitVec 6) (core : BitVec 20) (mt : Bool) (lo hi : Word)
  | waitcfgWrite (value : Word)
  | longWait (core : Nat) (mt : Bool)
  | registerWrite (addr : Nat) (value : Word)
  | hostRegAccess (port : BitVec 1) (write : Bool) (off : Nat) (value : Word)
  | hostMemAccess (port : BitVec 1) (write : Bool) (off : Nat) (bytes : List Byte)
  | peerOperationReceive (dev pasid asid : Nat) (va : Word) (red : Option (BitVec 4 × Ty)) (bytes : List Byte)
  -- power and clocks (R413 to R423, R481)
  | powerWindow (watts : BitVec 32)
  | oppChange
  | monitorTrip (blk : Nat) (factor cycles : Nat)
  | gateBlock (blk : Nat)
  | traceDrainTimeout (blk : Nat)
  | wakeBlock (blk : Nat) (req : Option Nat)
  | blockWakeComplete (blk : Nat)
  -- reliability, links, boot (R411, R469 to R483, R121, R423)
  | correctedError (n : Nat)
  | uncorrectableError (site : ErrSite)
  | checkerMismatch (core : Nat) (matrix again : Bool)
  | columnRetirement (core : Nat)
  | blockWithdrawal (blk : Nat)
  | hiveMemoryError (event : Nat)
  | flitCrcFail (port : Nat) (replays : Nat) (down : Bool)
  | hbmScrub (stack row : Nat)
  | boot
  | accessResponse (aid : Nat)
  | rimIslandGating (island : Nat)
  deriving DecidableEq, Repr

end Sys2Proof
end

