-- ==== Sys2Proof/Machine/Literal.lean ====
section
/-!
DEFINITION. Static facts of types and literals that the well-formedness of an instruction and its decoding share: the
type codes and widths of Table 9.1, the type sets of R277, the widening pairs of Table 14.3, and the token program of a
VEXPR literal (R291, R292).
-/

namespace Sys2Proof

/-- The type code (Table 9.1). -/
def Ty.code : Ty → BitVec 4
  | .i8 => 0 | .u8 => 1 | .i16 => 2 | .u16 => 3 | .i32 => 4 | .u32 => 5 | .f16 => 6 | .bf16 => 7 | .f32 => 8
  | .e4m3 => 9 | .e5m2 => 10 | .i4 => 11 | .gq4 => 12

/-- The type of a code; 13 to 15 are reserved (R163). -/
def Ty.ofCode (c : BitVec 4) : Option Ty :=
  match c.toNat with
  | 0 => some .i8 | 1 => some .u8 | 2 => some .i16 | 3 => some .u16 | 4 => some .i32 | 5 => some .u32 | 6 => some .f16
  | 7 => some .bf16 | 8 => some .f32 | 9 => some .e4m3 | 10 => some .e5m2 | 11 => some .i4 | 12 => some .gq4
  | _ => none

/-- Element size in bits (Table 9.1, Width of Table 10.12). -/
def Ty.width : Ty → Nat
  | .i8 => 8 | .u8 => 8 | .i16 => 16 | .u16 => 16 | .i32 => 32 | .u32 => 32 | .f16 => 16 | .bf16 => 16 | .f32 => 32
  | .e4m3 => 8 | .e5m2 => 8 | .i4 => 4 | .gq4 => 4

/-- L(ty): lanes of a vector register (R277). -/
def Ty.lanes (t : Ty) : Nat := 4096 / t.width

/-- The integer types (R163). -/
def Ty.isInt : Ty → Bool
  | .i8 | .u8 | .i16 | .u16 | .i32 | .u32 | .i4 => true
  | _ => false

/-- The two's complement types. -/
def Ty.isSigned : Ty → Bool
  | .i8 | .i16 | .i32 | .i4 => true
  | _ => false

/-- FA of R277. -/
def Ty.inFA : Ty → Bool
  | .f16 | .bf16 | .f32 => true
  | _ => false

/-- IA of R277. -/
def Ty.inIA : Ty → Bool
  | .i8 | .u8 | .i16 | .u16 | .i32 | .u32 => true
  | _ => false

/-- W8 of R277: width 8, 16 or 32. -/
def Ty.inW8 : Ty → Bool
  | .i4 | .gq4 => false
  | _ => true

/-- The integer types of VABS and VNEG (Table 14.1). -/
def Ty.inAbs (t : Ty) : Bool := t.inFA || t == .i8 || t == .i16 || t == .i32

/-- The types of VAND to VNOT (Table 14.1). -/
def Ty.inLogic (t : Ty) : Bool := t.inIA || t == .i4

/-- The types of VDOT4 (Table 14.1). -/
def Ty.inDot (t : Ty) : Bool := t == .i8 || t == .u8 || t == .e4m3 || t == .e5m2

/-- The types of VCLASS (Table 14.1). -/
def Ty.inClass (t : Ty) : Bool := t.inFA || t == .e4m3 || t == .e5m2

/-- The types of a scalar access (Table 16.1: 0 to 8). -/
def Ty.inLd (t : Ty) : Bool := t.inFA || t.inIA

/-- The types of ACVT (Table 15.6). -/
def Ty.inAcvt (t : Ty) : Bool :=
  t == .f16 || t == .bf16 || t == .e4m3 || t == .e5m2 || t == .i8 || t == .u8 || t == .i16 || t == .u16 || t == .i4

/-- The wide type of a widening instruction, .P (factor 2) or .Q (factor 4) (Table 14.3). -/
def Ty.widen (t : Ty) (q : Bool) : Option Ty :=
  match t, q with
  | .i8, false => some .i16 | .u8, false => some .u16 | .i16, false => some .i32 | .u16, false => some .u32
  | .f16, false => some .f32 | .bf16, false => some .f32
  | .i8, true => some .i32 | .u8, true => some .u32 | .e4m3, true => some .f32 | .e5m2, true => some .f32
  | _, _ => none

/-- The source and destination pairs VRSUM accepts (R294). -/
def vrsumPair (ty src : Ty) : Bool :=
  (src.inFA && ty.inFA && decide (ty.width ≥ src.width)) ||
  (src.inIA && (ty == .i32 || ty == .u32))

/-- The factor by which VNRW narrows (R290): 2 or 4, else none. -/
def narrowFactor (ty src : Ty) : Option Nat :=
  if ty == .gq4 || src == .gq4 then none
  else if src.width == 2 * ty.width then some 2
  else if src.width == 4 * ty.width then some 4
  else none

/-- Token j of a VEXPR literal (R291). -/
def vexprToken (lit : Word) (j : Nat) : Nat := (lit.toNat / 2 ^ (5 * j)) % 32

/-- The twelve tokens of a literal in order (R291). -/
def vexprTokens (lit : Word) : List Nat := (List.range 12).map (vexprToken lit)

/-- The tokens before the first END, and whether only zero tokens follow it (R291, R292). -/
def vexprBody : List Nat → List Nat × Bool
  | [] => ([], true)
  | t :: ts =>
    if t = 0 then ([], ts.all (· == 0))
    else
      let r := vexprBody ts
      (t :: r.1, r.2)

/-- What the static check of a VEXPR has found so far (R292). -/
structure VexprScan where
  ok : Bool
  depth : Nat
  ops : Nat
  ins : List Nat
  lastIsFn : Bool
  arith : Bool
  deriving DecidableEq, Repr

/-- Entries a token needs on the stack and the entries it leaves in their place; none for a reserved token
(Table 14.4). -/
def vexprArity (t : Nat) : Option (Nat × Nat) :=
  if 1 ≤ t ∧ t ≤ 4 then some (0, 1)
  else if t = 5 then some (1, 2)
  else if t = 6 then some (2, 2)
  else if 8 ≤ t ∧ t ≤ 12 then some (2, 1)
  else if t = 13 then some (3, 1)
  else if 14 ≤ t ∧ t ≤ 24 then some (1, 1)
  else none

/-- One token of the static check (R292). -/
def vexprScanTok (s : VexprScan) (t : Nat) : VexprScan :=
  match vexprArity t with
  | none => { s with ok := false }
  | some (need, leave) =>
    let depth := s.depth - need + leave
    { ok := s.ok && decide (need ≤ s.depth) && decide (depth ≤ 4)
      depth := depth
      ops := if t ≤ 4 then s.ops else s.ops + 1
      ins := if t ≤ 4 then s.ins ++ [t - 1] else s.ins
      lastIsFn := if 8 ≤ t then decide (16 ≤ t) else s.lastIsFn
      arith := s.arith || decide (8 ≤ t) }

/-- The static check of a whole literal (R292). -/
def vexprScan (lit : Word) : VexprScan :=
  (vexprBody (vexprTokens lit)).1.foldl vexprScanTok
    { ok := true, depth := 0, ops := 0, ins := [], lastIsFn := false, arith := false }

/-- The entries a VEXPR leaves, 1 or 2, or none where R292 gives the reserved-field fault. The list tells which of the
fields a, b, c, e is non-zero. -/
def vexprDepth (lit : Word) (r : Rnd) (fields : List Bool) : Option Nat :=
  let b := vexprBody (vexprTokens lit)
  let s := vexprScan lit
  if lit.toNat / 2 ^ 60 = 0 ∧ b.2 = true ∧ s.ok = true ∧ s.ops ≤ 7 ∧ s.ins.length ≤ 4 ∧
      (s.depth = 1 ∨ s.depth = 2) ∧
      (List.range 4).all (fun k => fields.getD k false == s.ins.contains k) = true ∧
      ¬(s.lastIsFn = true ∧ r.mode = .di)
  then some s.depth else none

/-- The conditions an integer comparison has (Table 10.4). -/
def Cond.forInt : Cond → Bool
  | .uo | .ord => false
  | _ => true

/-- The conditions a floating comparison has (Table 10.4). -/
def Cond.forFloat : Cond → Bool
  | .ltu | .geu | .leu | .gtu => false
  | _ => true

/-- Registers that some state may write; the others are RO in both states (Table 13.6). -/
def SysReg.writable : SysReg → Bool
  | .tdtBase | .mqWeight | .trapVec | .trapCause | .trapPc | .trapAddr | .timerCmp | .cntBase | .trapBlk | .tshape _ => true
  | _ => false

/-- Registers whose read by a task is a privilege fault (Table 13.6). -/
def SysReg.readPriv : SysReg → Bool
  | .trapVec | .trapCause | .trapPc | .trapAddr | .timerCmp | .cntBase | .trapBlk => true
  | _ => false

/-- Registers whose write by a task is a privilege fault (Table 13.6). -/
def SysReg.writePriv : SysReg → Bool
  | .tdtBase | .trapVec | .trapCause | .trapPc | .trapAddr | .timerCmp | .cntBase | .trapBlk => true
  | _ => false

/-- The types and the source VNRW accepts (R290). -/
def vnrwOk (ty src : Ty) (a : VReg) : Bool :=
  match narrowFactor ty src with
  | some k => decide (a.toNat % k = 0)
  | none => false

/-- The rounding of an arithmetic instruction of a type: RN with or without SAT alone for integers (R282). -/
def rndArithOk (t : Ty) (r : Rnd) : Bool := !t.isInt || r.mode == .rn

end Sys2Proof
end

