-- ==== Sys2Proof/Machine/Map.lean ====
section
/-!
DEFINITION. Finite maps from numbers, as lists of pairs in rising order of the key. The state holds cores, blocks,
contexts and cache entries in this form, so that equal contents are equal data.
-/

namespace Sys2Proof.Machine

/-- A finite map with keys in rising order. -/
abbrev Map (α : Type) := List (Nat × α)

/-- The value at a key. -/
def mapGet {α : Type} : Map α → Nat → Option α
  | [], _ => none
  | (k, v) :: m, a => if a = k then some v else if a < k then none else mapGet m a

/-- The map with a value at a key. -/
def mapSet {α : Type} : Map α → Nat → α → Map α
  | [], a, x => [(a, x)]
  | (k, v) :: m, a, x =>
    if a = k then (a, x) :: m else if a < k then (a, x) :: (k, v) :: m else (k, v) :: mapSet m a x

/-- The map without a key. -/
def mapErase {α : Type} : Map α → Nat → Map α
  | [], _ => []
  | (k, v) :: m, a => if a = k then m else if a < k then (k, v) :: m else (k, v) :: mapErase m a

/-- The keys rise strictly. -/
def mapSorted {α : Type} : Map α → Bool
  | [] => true
  | [_] => true
  | (k, _) :: (k', v') :: m => decide (k < k') && mapSorted ((k', v') :: m)

/-- The index of the first element that satisfies a test. -/
def listFind {α : Type} (p : α → Bool) : List α → Nat → Option (Nat × α)
  | [], _ => none
  | a :: l, n => if p a then some (n, a) else listFind p l (n + 1)

/-- The list with its n-th element changed. -/
def listSet {α : Type} : List α → Nat → α → List α
  | [], _, _ => []
  | _ :: l, 0, x => x :: l
  | a :: l, n + 1, x => a :: listSet l n x

end Sys2Proof.Machine
end

