-- ==== Sys2Proof/Machine/Numbers.lean ====
section
/-!
DEFINITION. Number formats and exact arithmetic (spec 09): the exact real values of the element formats, exact sums and
products, the one rounding of R168 to R170 with its dither, and the GQ4 code (R171 to R173).
-/

namespace Sys2Proof.Machine

/-! ## Exact values -/

/-- An exact value: (−1)^neg × m × 2^e, an infinity, or NaN (R165, R166). -/
inductive Real where
  | nan
  | inf (neg : Bool)
  | fin (neg : Bool) (m : Nat) (e : Int)
  deriving DecidableEq, Repr

/-- Is the value NaN? -/
def Real.isNan : Real → Bool
  | .nan => true
  | _ => false

/-- Is the value an infinity? -/
def Real.isInf : Real → Bool
  | .inf _ => true
  | _ => false

/-- +0. -/
def Real.zero : Real := .fin false 0 0

/-- An integer as an exact value. -/
def Real.ofInt (n : Int) : Real := .fin (decide (n < 0)) n.natAbs 0

/-- The negated value. -/
def Real.neg : Real → Real
  | .nan => .nan
  | .inf s => .inf (!s)
  | .fin s m e => .fin (!s) m e

/-- The magnitude. -/
def Real.abs : Real → Real
  | .nan => .nan
  | .inf _ => .inf false
  | .fin _ m e => .fin false m e

/-- The sign bit. -/
def Real.sign : Real → Bool
  | .nan => false
  | .inf s => s
  | .fin s _ _ => s

/-- The product; the sign of a zero product is that of IEEE 754 (R166). -/
def Real.mul : Real → Real → Real
  | .nan, _ => .nan
  | _, .nan => .nan
  | .inf s, .inf t => .inf (s != t)
  | .inf s, .fin t m _ => if m = 0 then .nan else .inf (s != t)
  | .fin s m _, .inf t => if m = 0 then .nan else .inf (s != t)
  | .fin s m e, .fin t n f => .fin (s != t) (m * n) (e + f)

/-- The signed mantissa of a finite value at exponent q, where q is at most its exponent. -/
def Real.at (x : Real) (q : Int) : Int :=
  match x with
  | .fin s m e =>
    let v : Int := (m <<< (e - q).toNat : Nat)
    if s then -v else v
  | _ => 0

/-- The least exponent of the finite terms. -/
def minExp : List Real → Int → Int
  | [], q => q
  | .fin _ m e :: xs, q => minExp xs (if m ≠ 0 ∧ e < q then e else q)
  | _ :: xs, q => minExp xs q

/-- The exact sum of terms (R166, R175): NaN for a NaN term or infinities of both signs; an infinite term otherwise
prevails; an exact zero is −0 only when every term is −0. -/
def Real.sum (xs : List Real) : Real :=
  if xs.any Real.isNan then .nan
  else
    let pos := xs.any (fun x => x.isInf && !x.sign)
    let neg := xs.any (fun x => x.isInf && x.sign)
    if pos && neg then .nan
    else if pos then .inf false
    else if neg then .inf true
    else
      let nz := xs.filter (fun x => match x with | .fin _ m _ => m != 0 | _ => false)
      match nz with
      | [] => .fin (!xs.isEmpty && xs.all Real.sign) 0 0
      | .fin _ _ e0 :: _ =>
        let q := minExp nz e0
        let v : Int := nz.foldl (fun (acc : Int) (x : Real) => acc + x.at q) 0
        .fin (decide (v < 0)) v.natAbs q
      | _ :: _ => .nan

/-- Strictly less, for values that are not NaN; the two zeros are equal. -/
def Real.lt (a b : Real) : Bool :=
  match a, b with
  | .nan, _ => false
  | _, .nan => false
  | .inf s, .inf t => s && !t
  | .inf s, .fin _ _ _ => s
  | .fin _ _ _, .inf t => !t
  | .fin s m e, .fin t n f =>
    let q := min e f
    decide ((Real.fin s m e).at q < (Real.fin t n f).at q)

/-- Strictly less with −0 below +0 (R284). -/
def Real.ltZ (a b : Real) : Bool :=
  Real.lt a b || (!Real.lt b a && a.sign && !b.sign)

/-- Is the value an exact zero? -/
def Real.isZero : Real → Bool
  | .fin _ m _ => m == 0
  | _ => false

/-- Round toward −∞ to an integer. -/
def floorInt : Real → Int
  | .fin s m e =>
    if 0 ≤ e then (if s then -(m <<< e.toNat : Nat) else (m <<< e.toNat : Nat))
    else
      let d := (-e).toNat
      if s then -(((m + 2 ^ d - 1) / 2 ^ d : Nat) : Int) else ((m / 2 ^ d : Nat) : Int)
  | _ => 0

/-! ## Formats (Table 9.2) -/

/-- Parameters of a floating-point format. -/
structure Fmt where
  ew : Nat
  fw : Nat
  bias : Nat
  ieee : Bool        -- an exponent field of all ones is special; E4M3 alone is not so
  canon : Nat
  deriving DecidableEq, Repr

/-- The format of a floating-point type; F32 for a type that is none. -/
def fmtOf : Ty → Fmt
  | .f16 => ⟨5, 10, 15, true, 0x7E00⟩
  | .bf16 => ⟨8, 7, 127, true, 0x7FC0⟩
  | .e5m2 => ⟨5, 2, 15, true, 0x7E⟩
  | .e4m3 => ⟨4, 3, 7, false, 0x7F⟩
  | _ => ⟨8, 23, 127, true, 0x7FC0_0000⟩

/-- The exact value of a floating-point bit pattern (R165). -/
def decodeReal (t : Ty) (x : Nat) : Real :=
  let f := fmtOf t
  let s := x / 2 ^ (f.ew + f.fw) % 2 == 1
  let e := x / 2 ^ f.fw % 2 ^ f.ew
  let m := x % 2 ^ f.fw
  if f.ieee && e == 2 ^ f.ew - 1 then (if m = 0 then .inf s else .nan)
  else if !f.ieee && e == 2 ^ f.ew - 1 && m == 2 ^ f.fw - 1 then .nan
  else if e = 0 then .fin s m (1 - (f.bias : Int) - f.fw)
  else .fin s (m + 2 ^ f.fw) ((e : Int) - f.bias - f.fw)

/-- Is the bit pattern a subnormal value (R165)? -/
def isSubnormal (t : Ty) (x : Nat) : Bool :=
  let f := fmtOf t
  x / 2 ^ f.fw % 2 ^ f.ew == 0 && x % 2 ^ f.fw != 0

/-- The integer of a bit pattern of an integer type. -/
def intOf (t : Ty) (x : Nat) : Int :=
  if t.isSigned && decide (2 ^ (t.width - 1) ≤ x) then (x : Int) - 2 ^ t.width else (x : Int)

/-- Exact(x, ty) for every type but GQ4 (Table 10.12). -/
def exactOf (t : Ty) (x : Nat) : Real :=
  if t.isInt then Real.ofInt (intOf t x) else decodeReal t x

/-- The bit pattern of an integer reduced into a width. -/
def wrapInt (w : Nat) (n : Int) : Nat := (n % (2 ^ w : Nat)).toNat

/-- The least and the greatest value of an integer type. -/
def intRange (t : Ty) : Int × Int :=
  if t.isSigned then (-(2 ^ (t.width - 1) : Nat), (2 ^ (t.width - 1) : Nat) - 1) else (0, (2 ^ t.width : Nat) - 1)

/-- An integer clamped to the range of a type. -/
def clampInt (t : Ty) (n : Int) : Int :=
  let r := intRange t
  if n < r.1 then r.1 else if n > r.2 then r.2 else n

/-! ## Rounding (R168 to R170) -/

/-- bitreverse6 (R169). -/
def bitRev6 (n : Nat) : Nat :=
  (n % 2) * 32 + (n / 2 % 2) * 16 + (n / 4 % 2) * 8 + (n / 8 % 2) * 4 + (n / 16 % 2) * 2 + (n / 32 % 2)

/-- Does the mode pick the upper neighbour in magnitude? `rem / den` is the fraction above the lower neighbour `n`, and
`pos` the dither position (R168, R169). -/
def picksUp (mode : RMode) (neg : Bool) (n rem den pos : Nat) : Bool :=
  if rem = 0 then false
  else match mode with
    | .rn => decide (2 * rem > den) || (decide (2 * rem = den) && n % 2 == 1)
    | .rz => false
    | .ru => !neg
    | .rd => neg
    | .di => decide (rem * 64 > bitRev6 (pos % 64) * den)

/-- The largest finite bit pattern of a format, without its sign. -/
def maxFinite (f : Fmt) : Nat :=
  if f.ieee then (2 ^ f.ew - 2) * 2 ^ f.fw + (2 ^ f.fw - 1) else (2 ^ f.ew - 1) * 2 ^ f.fw + (2 ^ f.fw - 2)

/-- The pattern of infinity, without its sign, in a format that has one. -/
def infPattern (f : Fmt) : Nat := (2 ^ f.ew - 1) * 2 ^ f.fw

/-- A pattern with its sign bit. -/
def withSign (f : Fmt) (neg : Bool) (x : Nat) : Nat := if neg then x + 2 ^ (f.ew + f.fw) else x

/-- The overflow result (Table 9.4), under SAT the largest finite value (R168). -/
def overflow (f : Fmt) (r : Rnd) (neg : Bool) : Nat :=
  let big := withSign f neg (maxFinite f)
  let special := if f.ieee then withSign f neg (infPattern f) else f.canon
  if r.sat then big
  else match r.mode with
    | .rn => special
    | .di => special
    | .rz => big
    | .ru => if neg then big else special
    | .rd => if neg then special else big

/-- A finite non-zero magnitude m × 2^e rounded into a format (R168, R169). -/
def roundMag (f : Fmt) (r : Rnd) (pos : Nat) (neg : Bool) (m : Nat) (e : Int) : Nat :=
  let top : Int := (Nat.log2 m : Int) + e
  let emin : Int := 1 - (f.bias : Int)
  let q : Int := max (top - f.fw) (emin - f.fw)
  let d := (q - e).toNat
  let n0 := if e ≥ q then m <<< (e - q).toNat else m >>> d
  let rem := if e ≥ q then 0 else m % 2 ^ d
  let n1 := if picksUp r.mode neg n0 rem (2 ^ d) pos then n0 + 1 else n0
  let n := if n1 = 2 ^ (f.fw + 1) then 2 ^ f.fw else n1
  let qq : Int := if n1 = 2 ^ (f.fw + 1) then q + 1 else q
  if n < 2 ^ f.fw then withSign f neg n
  else
    let ef := (qq + f.fw + f.bias).toNat
    let pat := ef * 2 ^ f.fw + (n - 2 ^ f.fw)
    if pat > maxFinite f then overflow f r neg else withSign f neg pat

/-- Encode(Round(x, F, md, i, phase), F); `pos` is i + phase (Table 10.12). -/
def roundReal (t : Ty) (r : Rnd) (pos : Nat) (x : Real) : Nat :=
  let f := fmtOf t
  match x with
  | .nan => f.canon
  | .inf neg =>
    if !f.ieee then overflow f r neg
    else if r.sat then withSign f neg (maxFinite f) else withSign f neg (infPattern f)
  | .fin neg m e => if m = 0 then withSign f neg 0 else roundMag f r pos neg m e

/-- A real value rounded to an integer under a mode (R170). -/
def roundInt (mode : RMode) (pos : Nat) (neg : Bool) (m : Nat) (e : Int) : Int :=
  let n0 := if 0 ≤ e then m <<< e.toNat else m >>> (-e).toNat
  let den := 2 ^ (-e).toNat
  let rem := if 0 ≤ e then 0 else m % den
  let n := if picksUp mode neg n0 rem den pos then n0 + 1 else n0
  if neg then -(n : Int) else (n : Int)

/-- Conversion into an integer type: it always saturates, NaN gives 0 (R170). -/
def convInt (t : Ty) (r : Rnd) (pos : Nat) (x : Real) : Nat :=
  match x with
  | .nan => 0
  | .inf neg => wrapInt t.width (if neg then (intRange t).1 else (intRange t).2)
  | .fin neg m e => wrapInt t.width (clampInt t (roundInt r.mode pos neg m e))

/-- A real value rounded and encoded into an element type (R168, R170). (DEDUCED: log 16.) -/
def roundTo (t : Ty) (r : Rnd) (pos : Nat) (x : Real) : Nat :=
  if t.isInt then convInt t r pos x else roundReal t r pos x

/-- RN without saturation. -/
def rne : Rnd := ⟨.rn, false⟩

/-! ## GQ4 (R171 to R173) -/

/-- Magnitude of an index in 1/1024 (Table 9.5). -/
def gqMag : Nat → Nat
  | 0 => 0 | 1 => 51 | 2 => 154 | 3 => 262 | 4 => 382 | 5 => 524 | 6 => 708 | _ => 1024

/-- Upper bound of |q| for an index in 1/2048 (Table 9.5). -/
def gqBound : Nat → Nat
  | 0 => 51 | 1 => 205 | 2 => 416 | 3 => 644 | 4 => 906 | 5 => 1232 | _ => 1732

/-- B = S × (s + 1) / 256 (R172). -/
def gqScale (sup : Real) (s : Nat) : Real := Real.mul sup (.fin false (s + 1) (-8))

/-- The value of a code under a superscale and a block scale (R172). -/
def gqDecode (sup : Real) (s code : Nat) : Real :=
  if sup.isNan then .nan
  else if code % 8 = 0 then Real.zero
  else Real.mul (gqScale sup s) (.fin (decide (8 ≤ code % 16)) (gqMag (code % 8)) (-10))

/-- |x| ≤ bound / 2048 × |B|. -/
def gqFits (x b : Real) (bound : Nat) : Bool :=
  !Real.lt (Real.mul b.abs (.fin false bound (-11))) x.abs

/-- The index of a magnitude: the smallest whose bound is at least |x| / |B| (R173). -/
def gqIndex (x b : Real) : Nat :=
  match listFind (fun i => gqFits x b (gqBound i)) [0, 1, 2, 3, 4, 5, 6] 0 with
  | some (i, _) => i
  | none => 7

/-- The code of a real value under S and s (R173). -/
def gqEncode (sup : Real) (s : Nat) (x : Real) : Nat :=
  let b := gqScale sup s
  match x with
  | .nan => 0
  | _ =>
    if b.isNan || b.isInf || b.isZero then 0
    else
      let i := if x.isInf then 7 else gqIndex x b
      if i = 0 then 0 else if x.sign != b.sign then i + 8 else i

/-! ## The generator of R183 -/

/-- Rng(c, k_lo, k_hi). -/
def rng (c klo khi : BitVec 32) : BitVec 32 :=
  let x1 := (c ^^^ klo) * 0x2C1B_3C6D
  let x2 := x1 ^^^ (x1 >>> 16)
  let x3 := (x2 ^^^ khi) * 0x297A_2D39
  x3 ^^^ (x3 >>> 16)

end Sys2Proof.Machine
end

