-- ==== Sys2Proof/Machine/Flags.lean ====
section
/-!
DEFINITION. Every condition the spec computes into predicates and masks: the integer and floating conditions of Table
10.4, truth tables (R262, R299), and the classes of VCLASS (R287).
-/

namespace Sys2Proof.Machine

/-- An integer condition on two bit patterns; signed conditions read them as two's complement (Table 10.4). -/
def condBits {w : Nat} (c : Cond) (a b : BitVec w) : Bool :=
  match c with
  | .eq => a == b
  | .ne => a != b
  | .lt => a.slt b
  | .ge => !a.slt b
  | .ltu => a.ult b
  | .geu => !a.ult b
  | .le => !b.slt a
  | .gt => b.slt a
  | .leu => !b.ult a
  | .gtu => b.ult a
  | .uo => false
  | .ord => false

/-- An integer condition on lanes of a type: .EQ to .GT compare the values as the type states, the others compare the raw
bits (R285). -/
def condLane (t : Ty) (c : Cond) (a b : Nat) : Bool :=
  let x := intOf t a
  let y := intOf t b
  match c with
  | .eq => decide (x = y)
  | .ne => decide (x ≠ y)
  | .lt => decide (x < y)
  | .ge => decide (x ≥ y)
  | .le => decide (x ≤ y)
  | .gt => decide (x > y)
  | .ltu => decide (a < b)
  | .geu => decide (a ≥ b)
  | .leu => decide (a ≤ b)
  | .gtu => decide (a > b)
  | .uo => false
  | .ord => false

/-- A floating condition (Table 10.4): unordered when either operand is NaN; the two zeros are equal. -/
def condReal (c : Cond) (a b : Real) : Bool :=
  let un := a.isNan || b.isNan
  match c with
  | .eq => !un && !Real.lt a b && !Real.lt b a
  | .ne => un || Real.lt a b || Real.lt b a
  | .lt => !un && Real.lt a b
  | .ge => !un && !Real.lt a b
  | .le => !un && !Real.lt b a
  | .gt => !un && Real.lt b a
  | .uo => un
  | .ord => !un
  | .ltu => false
  | .geu => false
  | .leu => false
  | .gtu => false

/-- tt[4a + 2b + c] (R262, R299). -/
def truth (tt : BitVec 8) (a b c : Bool) : Bool :=
  tt.getLsbD (4 * a.toNat + 2 * b.toNat + c.toNat)

/-- The class of a floating-point bit pattern (R287). -/
def classOf (t : Ty) (x : Nat) : Nat :=
  match decodeReal t x with
  | .nan => 8
  | .inf neg => if neg then 0 else 7
  | .fin neg m _ =>
    if m = 0 then (if neg then 3 else 4)
    else if isSubnormal t x then (if neg then 2 else 5)
    else (if neg then 1 else 6)

end Sys2Proof.Machine
end

