-- ==== Sys2Proof/Config.lean ====
section
/-!
DEFINITION. What an implementation of the Fjarry fixes and the spec does not state, and the free values of the model.
Every constant here is opaque: nothing in Lean can evaluate it, so a statement holds for every value of it
(notes/assumptions/3.md, 4.md, 6.md, 11.md, 12.md, 103.md).
-/

namespace Sys2Proof

/-- A free 64-bit value drawn for the n-th time (R9 Choose, and every value the spec does not state). (DESIGN CHOICE: log 3.) -/
opaque Config.freeWord : Nat → BitVec 64

/-- Which of the device's enabled agents performs its step next, at the n-th draw (R134, R142). (DESIGN CHOICE: log 4.) -/
opaque Config.choice : Nat → Nat

/-- How many fifths of a block cycle at 1.0 GHz pass during the n-th step (R4, R414). (DESIGN CHOICE: log 6.) -/
opaque Config.elapsed : Nat → Nat

/-- The set of a line within its slice's 24 to 4 MiB of cache: block and line base (R88). (DESIGN CHOICE: log 12.) -/
opaque Config.sliceSet : Nat → Nat → Nat

/-- The fused secret that the device's identity key comes from (R412). (DESIGN CHOICE: log 11.) -/
opaque Config.deviceSecret : Nat

/-- The secret number of the device's signature of a digest (R412). (DESIGN CHOICE: log 11.) -/
opaque Config.signNonce : List Byte → Nat

/-- Measured module power in watts for the n-th power window (R419). (DESIGN CHOICE: log 11.) -/
opaque Config.measuredPower : Nat → BitVec 32

/-- What the Hive reads of a byte that a memory controller's access table denies it (R409). (DESIGN CHOICE: log 103.) -/
opaque Config.deniedByte : Nat → BitVec 8

/-- Lanes of a link port that has not retrained (R482). (DESIGN CHOICE: log 11.) -/
opaque Config.portLanes : Nat → Nat

/-- Bank of a row of an HBM stack (R483). (DESIGN CHOICE: log 11.) -/
opaque Config.hbmBank : Nat → Nat

/-- Does the boot-source strap select the host (R411)? (DESIGN CHOICE: log 11.) -/
opaque Config.bootFromHost : Bool

/-- The further images that the Hive loads after its own (R411). (DESIGN CHOICE: log 11.) -/
opaque Config.furtherImages : List (List Byte)

/-- Bytes of the boot flash (R411). (DESIGN CHOICE: log 11.) -/
opaque Config.flash : Nat → BitVec 8

/-- The fused hash of the root key, as the bytes of SHA-384 (R411). (DESIGN CHOICE: log 11.) -/
opaque Config.rootKeyHash : List Byte

/-- Retired columns of a block in fuses, two codes; a code from 66 on names none (R17). (DESIGN CHOICE: log 11.) -/
opaque Config.fuseColumn : Nat → Nat → Nat

/-- The number of this device on the fabric (R410). (DESIGN CHOICE: log 11.) -/
opaque Config.fabricNumber : BitVec 12

/-- The scope entry of a device that is reachable at boot; bit 63 clear where there is none (R410). (DESIGN CHOICE: log 11.) -/
opaque Config.fabricEntry : Nat → BitVec 64

end Sys2Proof
end

