-- ==== Sys2Proof/WellFormed.lean ====
section
/-!
DEFINITION. Which terms of `Instr` are instructions of the spec: the guards of R194, the hints of R195, the type sets
and register conditions of Tables 14.1, 14.3, 15.4, 15.6, 16.1 and 17.1, and the agents that exist (R5, R10, R52).
-/

namespace Sys2Proof

/-- The guard value 1000 is reserved (R194). -/
def Hdr.wf (h : Hdr) : Bool := h.g0 != 8 && h.g1 != 8

/-- A header of an instruction whose hint acts: ch = 7 is reserved (R195). -/
def Hdr.wfCh (h : Hdr) : Bool := h.wf && h.ch != 7

/-- An X/0 operand cannot name x0 (R327). -/
def regNZ : Option XReg → Bool
  | none => true
  | some r => r != 0

/-- The size of a scalar access is a type of codes 0 to 8 or .D (R330). -/
def MemSz.wf : MemSz → Bool
  | .ty t => t.inLd
  | .d => true

/-- The scope register of an ordering is never x0 (R327, R334). -/
def AtomOrd.wf : AtomOrd → Bool
  | .none => true
  | .acq s => s != 0
  | .rel s => s != 0
  | .ar s => s != 0

/-- The scope register of a fence is never x0 (R327). -/
def FenceOp.wf : FenceOp → Bool
  | .acq s => s != 0
  | .rel s => s != 0
  | .ar s => s != 0
  | .all => true

/-- The literal and the destination of a VEXPR (R291, R292). -/
def vexprWf (lit : Word) (r : Rnd) (d : VReg) (a b c e : Option VReg) : Bool :=
  match vexprDepth lit r [a.isSome, b.isSome, c.isSome, e.isSome] with
  | none => false
  | some depth => depth == 1 || !d.getLsbD 0

/-- A core of the field (R5). -/
def coreOk (core : Nat) : Bool := decide (core < 1048576)

/-- A block of the field (R10). -/
def blkOk (blk : Nat) : Bool := decide (blk < 256)

/-- An address-space identifier (R30). -/
def asidOk (asid : Nat) : Bool := decide (asid < 65536)

/-- Well-formed instructions and device steps. -/
def Instr.wf (i : Instr) : Bool :=
  match i with
  | .add h _ _ _ => h.wf
  | .sub h _ _ _ => h.wf
  | .mul h _ _ _ => h.wf
  | .mulh h _ _ _ => h.wf
  | .mulhu h _ _ _ => h.wf
  | .div h _ _ _ => h.wf
  | .divu h _ _ _ => h.wf
  | .rem h _ _ _ => h.wf
  | .remu h _ _ _ => h.wf
  | .and h _ _ _ => h.wf
  | .or h _ _ _ => h.wf
  | .xor h _ _ _ => h.wf
  | .andn h _ _ _ => h.wf
  | .shl h _ _ _ => h.wf
  | .shr h _ _ _ => h.wf
  | .sar h _ _ _ => h.wf
  | .rotr h _ _ _ => h.wf
  | .min h _ _ _ => h.wf
  | .max h _ _ _ => h.wf
  | .minu h _ _ _ => h.wf
  | .maxu h _ _ _ => h.wf
  | .clz h _ _ => h.wf
  | .ctz h _ _ => h.wf
  | .popc h _ _ => h.wf
  | .brev h _ _ => h.wf
  | .bfx h _ _ _ _ _ => h.wf
  | .bfi h _ _ _ _ _ => h.wf
  | .sel h _ _ _ _ => h.wf
  | .lea h _ _ _ _ => h.wf
  | .cmp h cond _ _ _ => h.wf && (cond.forInt)
  | .mov h _ _ => h.wf
  | .addi h _ _ _ => h.wf
  | .muli h _ _ _ => h.wf
  | .andi h _ _ _ => h.wf
  | .ori h _ _ _ => h.wf
  | .xori h _ _ _ => h.wf
  | .shli h _ _ _ => h.wf
  | .shri h _ _ _ => h.wf
  | .sari h _ _ _ => h.wf
  | .rotri h _ _ _ => h.wf
  | .mini h _ _ _ => h.wf
  | .maxi h _ _ _ => h.wf
  | .minui h _ _ _ => h.wf
  | .maxui h _ _ _ => h.wf
  | .cmpi h cond _ _ _ => h.wf && (cond.forInt)
  | .li h _ _ => h.wf
  | .liw h _ _ => h.wf
  | .plog h _ _ _ _ _ => h.wf
  | .pset h _ _ => h.wf
  | .br h _ => h.wf
  | .brx h _ => h.wf
  | .call h _ _ => h.wf
  | .callx h _ _ => h.wf
  | .ret h _ => h.wf
  | .loop h _ _ => h.wf
  | .endTask h => h.wf
  | .nop h => h.wf
  | .fuse h _ => h.wf
  | .split h => h.wf
  | .sleep h _ _ => h.wf
  | .trap h _ => h.wf
  | .tret h => h.wf
  | .srd h _ _ => h.wf
  | .swr h _ sr => h.wf && (sr.writable)
  | .sxch h _ _ sr => h.wf && (sr.writable)
  | .bkpt h _ => h.wf
  | .time h _ => h.wf
  | .cyc h _ => h.wf
  | .vadd h ty r _ _ _ _ => h.wf && ((ty.inFA || ty.inIA) && rndArithOk ty r)
  | .vsub h ty r _ _ _ _ => h.wf && ((ty.inFA || ty.inIA) && rndArithOk ty r)
  | .vmul h ty r _ _ _ _ => h.wf && ((ty.inFA || ty.inIA) && rndArithOk ty r)
  | .vfma h ty _ _ _ _ _ _ => h.wf && (ty.inFA)
  | .vfms h ty _ _ _ _ _ _ => h.wf && (ty.inFA)
  | .vfnma h ty _ _ _ _ _ _ => h.wf && (ty.inFA)
  | .vmin h ty _ _ _ _ => h.wf && (ty.inFA || ty.inIA)
  | .vmax h ty _ _ _ _ => h.wf && (ty.inFA || ty.inIA)
  | .vabs h ty sat _ _ _ => h.wf && (ty.inAbs && !(sat && ty.inFA))
  | .vneg h ty sat _ _ _ => h.wf && (ty.inAbs && !(sat && ty.inFA))
  | .vcpys h ty _ _ _ _ => h.wf && (ty.inFA)
  | .vand h ty _ _ _ _ => h.wf && (ty.inLogic)
  | .vor h ty _ _ _ _ => h.wf && (ty.inLogic)
  | .vxor h ty _ _ _ _ => h.wf && (ty.inLogic)
  | .vnot h ty _ _ _ => h.wf && (ty.inLogic)
  | .vshl h ty _ _ _ _ => h.wf && (ty.inIA)
  | .vshr h ty _ _ _ _ => h.wf && (ty.inIA)
  | .vsar h ty _ _ _ _ => h.wf && (ty.inIA)
  | .vcmp h ty cond _ _ _ _ => h.wf && ((ty.inFA && cond.forFloat) || (ty.inIA && cond.forInt))
  | .vsel h _ _ _ _ _ => h.wf
  | .vcvt h ty src _ _ _ _ => h.wf && (ty != .gq4 && src != .gq4)
  | .vwadd h ty q d _ _ => h.wf && ((ty.widen q).isSome && decide (d.toNat % (if q then 4 else 2) = 0))
  | .vwmul h ty q d _ _ => h.wf && ((ty.widen q).isSome && decide (d.toNat % (if q then 4 else 2) = 0))
  | .vwfma h ty q d _ _ => h.wf && ((ty.widen q).isSome && decide (d.toNat % (if q then 4 else 2) = 0))
  | .vnrw h ty src _ _ a => h.wf && (vnrwOk ty src a)
  | .vexpr h ty r d a b c e lit => h.wf && (ty.inFA && vexprWf lit r d a b c e)
  | .vsfu h ty r _ _ _ _ => h.wf && (ty.inFA && r.mode != .di && !r.sat)
  | .vrsum h ty src r _ _ _ _ => h.wf && (vrsumPair ty src && (if ty.isInt then r == ⟨.rn, false⟩ else r.mode != .di))
  | .vrmax h ty _ _ _ => h.wf && (ty.inFA || ty.inIA)
  | .vrmin h ty _ _ _ => h.wf && (ty.inFA || ty.inIA)
  | .vscan h ty r _ _ _ => h.wf && ((ty.inFA || ty.inIA) && rndArithOk ty r)
  | .vperm h ty _ _ _ => h.wf && (ty.inW8)
  | .vshuf h ty _ _ _ => h.wf && (ty.inW8)
  | .vsplat h _ _ _ _ => h.wf
  | .viota h ty _ _ _ => h.wf && (ty.inIA)
  | .vextr h _ _ _ _ => h.wf
  | .vinsr h _ _ _ _ => h.wf
  | .vmov h _ _ _ _ => h.wf
  | .vcprs h ty _ _ _ => h.wf && (ty.inW8)
  | .vexpd h ty _ _ _ => h.wf && (ty.inW8)
  | .klog h _ _ _ _ _ => h.wf
  | .kpop h _ _ => h.wf
  | .kfirst h _ _ => h.wf
  | .vgqd h ty _ _ _ _ _ _ => h.wf && (ty.inFA)
  | .vgqe h ty op _ _ _ _ => h.wf && (ty.inFA && (match op with | .fit (some e) => e != 0 | _ => true))
  | .vrng h ty _ _ _ _ => h.wf && (ty == .u32 || ty == .f32)
  | .vdot4 h ty r _ _ _ _ => h.wf && (ty.inDot && (!ty.isInt || r == ⟨.rn, false⟩))
  | .vclass h ty _ _ _ => h.wf && (ty.inClass)
  | .tdld h _ => h.wfCh
  | .tdst h _ _ => h.wfCh
  | .tdset h _ _ _ => h.wf
  | .tdinv h _ => h.wf
  | .tld h _ _ _ => h.wfCh
  | .tst h _ _ _ => h.wfCh
  | .tzero h _ => h.wf
  | .ttrn h _ _ => h.wf
  | .tcmp h d _ b => h.wf && (d != b)
  | .mma h _ _ _ _ => h.wf
  | .mmas h _ _ _ _ _ => h.wf
  | .mmag h _ _ _ _ _ => h.wf
  | .azero h _ => h.wf
  | .ald h _ _ _ => h.wfCh
  | .ast h _ _ _ _ => h.wfCh
  | .acvt h ty _ _ _ => h.wf && (ty.inAcvt)
  | .aadd h _ _ _ _ => h.wf
  | .mqry h _ => h.wf
  | .ld h sz _ _ _ => h.wfCh && (sz.wf)
  | .st h sz _ _ _ => h.wfCh && (sz.wf)
  | .ldv h _ _ _ => h.wfCh
  | .stv h _ _ _ => h.wfCh
  | .ldx h ty _ _ _ _ => h.wfCh && (ty.inW8)
  | .stx h ty _ _ _ _ => h.wfCh && (ty.inW8)
  | .lda h sz _ _ _ => h.wfCh && (sz.wf)
  | .stl h sz _ _ _ => h.wfCh && (sz.wf)
  | .atom h ty _ _ ord _ _ _ => h.wfCh && ((ty == .i32 || ty == .u32) && ord.wf)
  | .cas h ty _ ord _ _ _ => h.wfCh && ((ty == .i32 || ty == .u32) && ord.wf)
  | .red h ty _ _ _ => h.wfCh && (ty.inFA)
  | .redo h ty _ _ _ => h.wfCh && (ty.inFA)
  | .redc h mode _ => h.wfCh && (mode != .di)
  | .fence h op => h.wf && (op.wf)
  | .l1inv h s => h.wf && (regNZ s)
  | .prf h _ _ => h.wfCh
  | .wait h => h.wf
  | .gbar h => h.wf
  | .tlw h _ _ _ c => h.wf && (regNZ c)
  | .tlr h _ _ _ c => h.wf && (regNZ c)
  | .tls h _ _ => h.wf
  | .hcfg h _ _ => h.wf
  | .hrsv h _ => h.wf
  | .hcmt h _ => h.wf
  | .hadv h _ _ => h.wf
  | .hqry h _ _ => h.wf
  | .send h _ _ _ => h.wf
  | .wake h _ => h.wf
  | .mvcall h _ _ _ => h.wf
  | .mvret h => h.wf
  | .cpy h _ _ _ _ _ e => h.wfCh && (regNZ e)
  | .cpyg h _ _ _ _ _ e => h.wfCh && (regNZ e)
  | .cpyw h _ _ _ _ _ e => h.wfCh && (regNZ e)
  | .cpyp h _ _ _ _ _ => h.wfCh
  | .cfill h _ _ _ a _ => h.wfCh && (regNZ a)
  | .cpin h _ _ _ b => h.wfCh && (regNZ b)
  | .cunpin h _ _ _ b => h.wfCh && (regNZ b)
  | .cwin h _ _ _ _ e => h.wfCh && (regNZ e)
  | .wvopen h _ _ _ _ => h.wf
  | .wvclose h _ _ => h.wf
  | .wvqry h _ _ _ _ => h.wf
  | .wvdone h _ _ => h.wf
  | .snopen h _ _ _ => h.wf
  | .snacc h _ => h.wf
  | .snrej h _ => h.wf
  | .snqry h _ _ => h.wf
  | .lrpatch h _ _ _ _ => h.wf
  | .lrarm h _ _ => h.wf
  | .lrqry h _ _ => h.wf
  | .seedrd h _ _ => h.wf
  | .collp h ty _ _ _ _ _ => h.wfCh && (ty.inFA)
  | .timerTrap core => coreOk core
  | .taskStart core => coreOk core
  | .endRetire core => coreOk core
  | .routineStart core => coreOk core
  | .gangFusion core => coreOk core
  | .sleepDeadline core => coreOk core
  | .wakeArrival core => coreOk core
  | .tlwSatisfied core => coreOk core
  | .seqProgramFetch blk seq => blkOk blk && decide (seq < 128)
  | .mask blk seq _ => blkOk blk && decide (seq < 128)
  | .maskb blk seq _ _ _ => blkOk blk && decide (seq < 128)
  | .loopEntry blk seq _ => blkOk blk && decide (seq < 128)
  | .endl blk seq => blkOk blk && decide (seq < 128)
  | .jump blk seq _ => blkOk blk && decide (seq < 128)
  | .note blk seq _ => blkOk blk && decide (seq < 128)
  | .halt blk seq => blkOk blk && decide (seq < 128)
  | .fire blk seq _ => blkOk blk && decide (seq < 128)
  | .memberRelease blk seq _ => blkOk blk && decide (seq < 128)
  | .gbarCountComplete ldom => decide (ldom < 65536)
  | .gbarRelease ldom => decide (ldom < 65536)
  | .copySectorPerformed core _ => coreOk core
  | .timelineComplete core tl _ => coreOk core && decide (tl < 8)
  | .matrixArbitration blk octet => blkOk blk && decide (octet < 512)
  | .matrixCommandComplete core => coreOk core
  | .rampWindow blk => blkOk blk
  | .homeAccess _ => true
  | .hbmFillComplete blk pa _ => blkOk blk && decide (pa < 2 ^ 48)
  | .remoteScratchpadAccess _ => true
  | .translationWalk blk asid _ => blkOk blk && asidOk asid
  | .pendingLoadFault _ _ => true
  | .sideLogEntry _ _ => true
  | .replayPass core _ => coreOk core
  | .engineFault core _ _ _ => coreOk core
  | .redUpdateApply _ => true
  | .redoOpenApply blk asid _ => blkOk blk && asidOk asid
  | .redcCloseApply blk asid _ => blkOk blk && asidOk asid
  | .snapshotOpApply blk asid _ => blkOk blk && asidOk asid
  | .ringReservationRequest tx _ => coreOk tx
  | .ringGrant tx _ _ => coreOk tx
  | .commitComplete tx _ => coreOk tx
  | .weevilBatchTake blk asid wid => blkOk blk && asidOk asid && decide (wid < 16)
  | .prefetchComplete blk asid wid _ _ => blkOk blk && asidOk asid && decide (wid < 16)
  | .pointIssue core => coreOk core
  | .ageBoundExpiry blk asid wid _ => blkOk blk && asidOk asid && decide (wid < 16)
  | .forcedFillComplete core _ => coreOk core
  | .forcedFillRetry core _ => coreOk core
  | .walkStall core => coreOk core
  | .leaseExpiry blk pa core => blkOk blk && decide (pa < 2 ^ 48) && coreOk core
  | .endOfWork asid wid => asidOk asid && decide (wid < 16)
  | .epilogueStart core => coreOk core
  | .notifyWrite q _ => decide (q < 4096)
  | .launch k _ => decide (k.q < 4096)
  | .tlwait k _ _ => decide (k.q < 4096)
  | .tlwaitSatisfied k _ _ => decide (k.q < 4096)
  | .tlsignal k _ _ => decide (k.q < 4096)
  | .seedpush k _ _ => decide (k.q < 4096)
  | .seedpop k => decide (k.q < 4096)
  | .seedfork k _ => decide (k.q < 4096)
  | .copy k _ _ _ _ => decide (k.q < 4096)
  | .copyPacketComplete k _ => decide (k.q < 4096)
  | .window k _ _ _ _ _ => decide (k.q < 4096)
  | .windowChangeComplete asid _ => asidOk asid
  | .fencePacket k => decide (k.q < 4096)
  | .marker k _ => decide (k.q < 4096)
  | .queueQuantum => true
  | .placement => true
  | .reservation asid _ => asidOk asid
  | .placementStarved asid _ => asidOk asid
  | .launchEnd _ => true
  | .coreStop core => coreOk core
  | .restore asid _ => asidOk asid
  | .shootdown _ => true
  | .shootdownFlush _ => true
  | .shootdownSliceAck blk => blkOk blk
  | .shootdownStatusRead => true
  | .ctxload _ => true
  | .ctxupd _ => true
  | .ctxevict _ => true
  | .preempt _ _ => true
  | .qresync _ _ => true
  | .bssplit _ _ => true
  | .signrun _ => true
  | .attest _ _ => true
  | .svnadv _ => true
  | .seqreset _ _ => true
  | .contain _ => true
  | .uncontain _ => true
  | .unknownCommand _ => true
  | .svcStatusRead => true
  | .seqSnapshotLatch blk seq => blkOk blk && decide (seq < 128)
  | .hreq core => coreOk core
  | .rreq core => coreOk core
  | .sreq core => coreOk core
  | .debugStatusRead core => coreOk core
  | .breakpointMatch core _ => coreOk core
  | .heldMessage core _ => coreOk core
  | .traceRecordDrain blk => blkOk blk
  | .tracePortWrite blk _ _ _ _ _ _ => blkOk blk
  | .waitcfgWrite _ => true
  | .longWait core _ => coreOk core
  | .registerWrite _ _ => true
  | .hostRegAccess _ _ _ _ => true
  | .hostMemAccess _ _ _ _ => true
  | .peerOperationReceive _ _ asid _ _ _ => asidOk asid
  | .powerWindow _ => true
  | .oppChange => true
  | .monitorTrip blk _ _ => blkOk blk
  | .gateBlock blk => blkOk blk
  | .traceDrainTimeout blk => blkOk blk
  | .wakeBlock blk _ => blkOk blk
  | .blockWakeComplete blk => blkOk blk
  | .correctedError _ => true
  | .uncorrectableError _ => true
  | .checkerMismatch core _ _ => coreOk core
  | .columnRetirement core => coreOk core
  | .blockWithdrawal blk => blkOk blk
  | .hiveMemoryError _ => true
  | .flitCrcFail port _ _ => decide (port < 38)
  | .hbmScrub stack _ => decide (stack < 32)
  | .boot => true
  | .accessResponse _ => true
  | .rimIslandGating island => decide (island < 4)

end Sys2Proof
end

