-- ==== Sys2Proof/Decode.lean ====
section
/-!
DEFINITION. The decoder and the encoder of instruction words (spec 10, Tables 10.1 to 10.10, and the field tables of 13
to 17), the block header (Table 10.5), and the threads of Table 10.10. Decoding is total on bytes and answers the decode
checks of Table 10.9 that depend on the word alone: 1 (illegal instruction), 4 (reserved field), 5 (illegal operand).
-/

namespace Sys2Proof

/-- Why a word is no instruction: checks 1, 4 and 5 of Table 10.9, and bytes or a literal that are missing. -/
inductive DecErr where
  | illegalInstruction
  | reservedField
  | illegalOperand
  | truncated
  deriving DecidableEq, Repr

/-- The result of decoding. -/
abbrev Dec (α : Type) := Except DecErr α

/-- The fields of a word (Table 10.1). -/
structure Fields where
  op : BitVec 10
  ty : BitVec 4
  d : BitVec 6
  a : BitVec 6
  b : BitVec 6
  c : BitVec 6
  e : BitVec 6
  g0 : BitVec 4
  g1 : BitVec 4
  ch : BitVec 3
  sd : BitVec 4
  y : BitVec 1
  md : BitVec 4
  deriving DecidableEq, Repr

/-- The fields of a word (R189). -/
def Fields.ofWord (w : Word) : Fields :=
  { op := w.extractLsb' 54 10, ty := w.extractLsb' 50 4, d := w.extractLsb' 44 6, a := w.extractLsb' 38 6
    b := w.extractLsb' 32 6, c := w.extractLsb' 26 6, e := w.extractLsb' 20 6, g0 := w.extractLsb' 16 4
    g1 := w.extractLsb' 12 4, ch := w.extractLsb' 9 3, sd := w.extractLsb' 5 4, y := w.extractLsb' 4 1
    md := w.extractLsb' 0 4 }

/-- The word of the fields (R189). -/
def Fields.toWord (f : Fields) : Word :=
  f.op ++ f.ty ++ f.d ++ f.a ++ f.b ++ f.c ++ f.e ++ f.g0 ++ f.g1 ++ f.ch ++ f.sd ++ f.y ++ f.md

/-- word[37:20] (R191). -/
def Fields.imm (f : Fields) : BitVec 18 := f.b ++ f.c ++ f.e

/-! ## Field checks -/

/-- A condition whose breach is the reserved-field fault (check 4). -/
def need (b : Bool) : Dec Unit := if b then .ok () else .error .reservedField

/-- A condition whose breach is the illegal-operand fault (check 5). -/
def accept (b : Bool) : Dec Unit := if b then .ok () else .error .illegalOperand

/-- Guards are never 1000 (R194). -/
def hdrOf (f : Fields) : Dec Hdr :=
  if f.g0 = 8 ∨ f.g1 = 8 then .error .reservedField
  else .ok { g0 := f.g0, g1 := f.g1, ch := f.ch, sd := f.sd, y := f.y }

/-- As `hdrOf`, for the instructions of R195, whose ch acts. -/
def hdrChOf (f : Fields) : Dec Hdr :=
  if f.ch = 7 then .error .reservedField else hdrOf f

/-- The type field of an instruction that uses it (R163). -/
def tyOf (f : Fields) : Dec Ty :=
  match Ty.ofCode f.ty with
  | some t => .ok t
  | none => .error .reservedField

/-- A raw type code in an operand field (R282). -/
def typeField (x : BitVec 6) : Dec Ty :=
  if x.toNat < 16 then
    match Ty.ofCode (x.setWidth 4) with
    | some t => .ok t
    | none => .error .reservedField
  else .error .reservedField

/-- An X operand (Table 10.2). -/
def xOf (x : BitVec 6) : Dec XReg := if x.toNat < 32 then .ok (x.setWidth 5) else .error .illegalOperand

/-- A V operand. -/
def vOf (x : BitVec 6) : Dec VReg :=
  if 32 ≤ x.toNat ∧ x.toNat < 48 then .ok (x.setWidth 4) else .error .illegalOperand

/-- An H operand. -/
def hOf (x : BitVec 6) : Dec HReg :=
  if 48 ≤ x.toNat ∧ x.toNat < 56 then .ok (x.setWidth 3) else .error .illegalOperand

/-- A K operand. -/
def kOf (x : BitVec 6) : Dec KReg := if 56 ≤ x.toNat then .ok (x.setWidth 3) else .error .illegalOperand

/-- A V/X operand (R279). -/
def vxOf (x : BitVec 6) : Dec VX :=
  if x.toNat < 32 then .ok (.x (x.setWidth 5))
  else if x.toNat < 48 then .ok (.v (x.setWidth 4)) else .error .illegalOperand

/-- A K/0 operand (R278). -/
def k0Of (x : BitVec 6) : Dec (Option KReg) :=
  if x = 0 then .ok none else if 56 ≤ x.toNat then .ok (some (x.setWidth 3)) else .error .illegalOperand

/-- A V/0 operand. -/
def v0Of (x : BitVec 6) : Dec (Option VReg) :=
  if x = 0 then .ok none
  else if 32 ≤ x.toNat ∧ x.toNat < 48 then .ok (some (x.setWidth 4)) else .error .illegalOperand

/-- An X/0 operand (R327, R359). -/
def x0Of (x : BitVec 6) : Dec (Option XReg) :=
  if x = 0 then .ok none else if x.toNat < 32 then .ok (some (x.setWidth 5)) else .error .illegalOperand

/-- An X/0 operand that the form requires: 0 is the illegal-operand fault (R327). -/
def x1Of (x : BitVec 6) : Dec XReg :=
  if x = 0 then .error .illegalOperand else if x.toNat < 32 then .ok (x.setWidth 5) else .error .illegalOperand

/-- A predicate code of CMP, CMPI and SEL (R193, R260, R261). -/
def pOf (x : BitVec 6) : Dec PReg := if x.toNat < 8 then .ok (x.setWidth 3) else .error .illegalOperand

/-- A T operand (Table 10.3). -/
def tOf (x : BitVec 6) : Dec TReg := if x.toNat < 4 then .ok (x.setWidth 2) else .error .illegalOperand

/-- An A operand (Table 10.3). -/
def aOf (x : BitVec 6) : Dec AReg :=
  if x = 4 then .ok 0 else if x = 5 then .ok 1 else .error .illegalOperand

/-- A raw number 0 to 15 with bits 5:4 zero: sid and wid (R327, R359). -/
def rawOf (x : BitVec 6) : Dec (BitVec 4) := if x.toNat < 16 then .ok (x.setWidth 4) else .error .reservedField

/-- An unsigned immediate of 8 bits with imm[17:8] zero (R267, R312, R359). -/
def imm8Of (f : Fields) : Dec (BitVec 8) :=
  if f.imm.toNat < 256 then .ok (f.imm.setWidth 8) else .error .reservedField

/-- The rounding form (R198, Table 9.3). -/
def rndOf (md : BitVec 4) : Dec Rnd :=
  let sat := md.getLsbD 3
  match (md.setWidth 3).toNat with
  | 0 => .ok ⟨.rn, sat⟩ | 1 => .ok ⟨.rz, sat⟩ | 2 => .ok ⟨.ru, sat⟩ | 3 => .ok ⟨.rd, sat⟩ | 4 => .ok ⟨.di, sat⟩
  | _ => .error .reservedField

/-- The code of a rounding form. -/
def RMode.code : RMode → BitVec 3
  | .rn => 0 | .rz => 1 | .ru => 2 | .rd => 3 | .di => 4

/-- The modifier field of a rounding form (R167). -/
def rndCode (r : Rnd) : BitVec 4 := BitVec.ofBool r.sat ++ r.mode.code

/-- The rounding form of an arithmetic instruction: md 0 and 8 alone for integer types (R282). -/
def rndArith (t : Ty) (md : BitVec 4) : Dec Rnd :=
  if t.isInt = true then (if md = 0 ∨ md = 8 then rndOf md else .error .reservedField) else rndOf md

/-- A rounding form without DI and without SAT (R293, R339). -/
def rnd4Of (md : BitVec 4) : Dec Rnd := if md.toNat < 4 then rndOf md else .error .reservedField

/-- The conditions (Table 10.4). -/
def condOf (c : BitVec 4) : Dec Cond :=
  match c.toNat with
  | 0 => .ok .eq | 1 => .ok .ne | 2 => .ok .lt | 3 => .ok .ge | 4 => .ok .ltu | 5 => .ok .geu | 6 => .ok .le
  | 7 => .ok .gt | 8 => .ok .leu | 9 => .ok .gtu | 10 => .ok .uo | 11 => .ok .ord
  | _ => .error .reservedField

/-- The code of a condition. -/
def Cond.code : Cond → BitVec 4
  | .eq => 0 | .ne => 1 | .lt => 2 | .ge => 3 | .ltu => 4 | .geu => 5 | .le => 6 | .gt => 7 | .leu => 8 | .gtu => 9
  | .uo => 10 | .ord => 11

/-- The condition of an integer or a floating comparison; the other column is reserved (Table 10.4). -/
def condFor (isInt : Bool) (md : BitVec 4) : Dec Cond := do
  let c ← condOf md
  need (if isInt then c.forInt else c.forFloat)
  return c

/-- A flag in md, 0 or 1. -/
def flagOf (md : BitVec 4) : Dec Bool :=
  match md.toNat with
  | 0 => .ok false | 1 => .ok true
  | _ => .error .reservedField

/-- A function number (Table 9.7). -/
def fnOf (x : BitVec 6) : Dec Fn :=
  match x.toNat with
  | 0 => .ok .exp2 | 1 => .ok .log2 | 2 => .ok .rcp | 3 => .ok .rsq | 4 => .ok .sqrt | 5 => .ok .tanh | 6 => .ok .sig
  | 7 => .ok .sinpi | 8 => .ok .cospi
  | _ => .error .reservedField

/-- The number of a function. -/
def Fn.code : Fn → BitVec 6
  | .exp2 => 0 | .log2 => 1 | .rcp => 2 | .rsq => 3 | .sqrt => 4 | .tanh => 5 | .sig => 6 | .sinpi => 7 | .cospi => 8

/-- The system registers (Table 13.6). -/
def sysRegOf (n : BitVec 18) : Option SysReg :=
  match n.toNat with
  | 0x000 => some .coreId | 0x001 => some .ctxId | 0x002 => some .membership | 0x003 => some .launchRect
  | 0x004 => some .blocks | 0x005 => some .time | 0x006 => some .cycle | 0x007 => some .seedTop | 0x008 => some .tdtBase
  | 0x009 => some .pinQuota | 0x00A => some .shadowQuota | 0x00B => some .sidelogStat | 0x00C => some .mqWeight
  | 0x010 => some .trapVec | 0x011 => some .trapCause | 0x012 => some .trapPc | 0x013 => some .trapAddr
  | 0x014 => some .timerCmp | 0x015 => some .cntBase | 0x016 => some .trapBlk | 0x020 => some (.tshape 0)
  | 0x021 => some (.tshape 1) | 0x022 => some (.tshape 2) | 0x023 => some (.tshape 3)
  | _ => none

/-- The number of a system register (Table 13.6). -/
def SysReg.code : SysReg → BitVec 18
  | .coreId => 0x000 | .ctxId => 0x001 | .membership => 0x002 | .launchRect => 0x003 | .blocks => 0x004 | .time => 0x005
  | .cycle => 0x006 | .seedTop => 0x007 | .tdtBase => 0x008 | .pinQuota => 0x009 | .shadowQuota => 0x00A
  | .sidelogStat => 0x00B | .mqWeight => 0x00C | .trapVec => 0x010 | .trapCause => 0x011 | .trapPc => 0x012
  | .trapAddr => 0x013 | .timerCmp => 0x014 | .cntBase => 0x015 | .trapBlk => 0x016
  | .tshape n => 0x020 + n.setWidth 18

/-- Number of a system register that exists (R272). -/
def srOf (f : Fields) : Dec SysReg :=
  match sysRegOf f.imm with
  | some r => .ok r
  | none => .error .illegalOperand

/-! ## Shapes shared by several opcodes -/

/-- Three X operands (R256). -/
def dXXX (f : Fields) (k : Hdr → XReg → XReg → XReg → Instr) : Dec Instr := do
  let h ← hdrOf f
  need (f.ty == 0 && f.c == 0 && f.e == 0 && f.md == 0)
  return k h (← xOf f.d) (← xOf f.a) (← xOf f.b)

/-- Two X operands. -/
def dXX (f : Fields) (k : Hdr → XReg → XReg → Instr) : Dec Instr := do
  let h ← hdrOf f
  need (f.ty == 0 && f.b == 0 && f.c == 0 && f.e == 0 && f.md == 0)
  return k h (← xOf f.d) (← xOf f.a)

/-- One X destination. -/
def dX (f : Fields) (k : Hdr → XReg → Instr) : Dec Instr := do
  let h ← hdrOf f
  need (f.ty == 0 && f.a == 0 && f.b == 0 && f.c == 0 && f.e == 0 && f.md == 0)
  return k h (← xOf f.d)

/-- No operand. -/
def dNone (f : Fields) (k : Hdr → Instr) : Dec Instr := do
  let h ← hdrOf f
  need (f.ty == 0 && f.d == 0 && f.a == 0 && f.b == 0 && f.c == 0 && f.e == 0 && f.md == 0)
  return k h

/-- Two X operands and an 18-bit immediate (R191). -/
def dXXI (f : Fields) (k : Hdr → XReg → XReg → BitVec 18 → Instr) : Dec Instr := do
  let h ← hdrOf f
  need (f.ty == 0 && f.md == 0)
  return k h (← xOf f.d) (← xOf f.a) f.imm

/-- Two X operands and a shift amount (R257). -/
def dXXS (f : Fields) (k : Hdr → XReg → XReg → BitVec 6 → Instr) : Dec Instr := do
  let h ← hdrOf f
  need (f.ty == 0 && f.md == 0 && decide (f.imm.toNat < 64))
  return k h (← xOf f.d) (← xOf f.a) (f.imm.setWidth 6)

/-- One X destination and an immediate. -/
def dXI (f : Fields) (k : Hdr → XReg → BitVec 18 → Instr) : Dec Instr := do
  let h ← hdrOf f
  need (f.ty == 0 && f.a == 0 && f.md == 0)
  return k h (← xOf f.d) f.imm

/-- An immediate alone. -/
def dI (f : Fields) (k : Hdr → BitVec 18 → Instr) : Dec Instr := do
  let h ← hdrOf f
  need (f.ty == 0 && f.d == 0 && f.a == 0 && f.md == 0)
  return k h f.imm

/-- VADD, VSUB, VMUL. -/
def dVArith (f : Fields) (k : Hdr → Ty → Rnd → VReg → VReg → VX → Option KReg → Instr) : Dec Instr := do
  let h ← hdrOf f
  let t ← tyOf f
  let r ← rndArith t f.md
  need (f.c == 0)
  accept (t.inFA || t.inIA)
  return k h t r (← vOf f.d) (← vOf f.a) (← vxOf f.b) (← k0Of f.e)

/-- VFMA, VFMS, VFNMA. -/
def dVFma (f : Fields) (k : Hdr → Ty → Rnd → VReg → VReg → VX → VReg → Option KReg → Instr) : Dec Instr := do
  let h ← hdrOf f
  let t ← tyOf f
  let r ← rndArith t f.md
  accept t.inFA
  return k h t r (← vOf f.d) (← vOf f.a) (← vxOf f.b) (← vOf f.c) (← k0Of f.e)

/-- Two sources under a mask, md zero, types of a set. -/
def dVVX (f : Fields) (ok : Ty → Bool) (k : Hdr → Ty → VReg → VReg → VX → Option KReg → Instr) : Dec Instr := do
  let h ← hdrOf f
  let t ← tyOf f
  need (f.c == 0 && f.md == 0)
  accept (ok t)
  return k h t (← vOf f.d) (← vOf f.a) (← vxOf f.b) (← k0Of f.e)

/-- One source under a mask, md zero, types of a set. -/
def dVV (f : Fields) (ok : Ty → Bool) (k : Hdr → Ty → VReg → VReg → Option KReg → Instr) : Dec Instr := do
  let h ← hdrOf f
  let t ← tyOf f
  need (f.b == 0 && f.c == 0 && f.md == 0)
  accept (ok t)
  return k h t (← vOf f.d) (← vOf f.a) (← k0Of f.e)

/-- VABS and VNEG: .SAT for integer types alone (Table 14.1). -/
def dVAbs (f : Fields) (k : Hdr → Ty → Bool → VReg → VReg → Option KReg → Instr) : Dec Instr := do
  let h ← hdrOf f
  let t ← tyOf f
  need (f.b == 0 && f.c == 0 && (f.md == 0 || (f.md == 8 && t.isInt)))
  accept t.inAbs
  return k h t (f.md == 8) (← vOf f.d) (← vOf f.a) (← k0Of f.e)

/-- VWADD, VWMUL, VWFMA (R289). -/
def dVWide (f : Fields) (k : Hdr → Ty → Bool → VReg → VReg → VX → Instr) : Dec Instr := do
  let h ← hdrOf f
  let t ← tyOf f
  let q ← flagOf f.md
  need (f.c == 0 && f.e == 0)
  accept (t.widen q).isSome
  let d ← vOf f.d
  accept (decide (d.toNat % (if q then 4 else 2) = 0))
  return k h t q d (← vOf f.a) (← vxOf f.b)

/-- VPERM. -/
def dVVV (f : Fields) (k : Hdr → Ty → VReg → VReg → VReg → Instr) : Dec Instr := do
  let h ← hdrOf f
  let t ← tyOf f
  need (f.c == 0 && f.e == 0 && f.md == 0)
  accept t.inW8
  return k h t (← vOf f.d) (← vOf f.a) (← vOf f.b)

/-- VCPRS and VEXPD. -/
def dVVK (f : Fields) (k : Hdr → Ty → VReg → VReg → KReg → Instr) : Dec Instr := do
  let h ← hdrOf f
  let t ← tyOf f
  need (f.c == 0 && f.e == 0 && f.md == 0)
  accept t.inW8
  return k h t (← vOf f.d) (← vOf f.a) (← kOf f.b)

/-- VSPLAT and VIOTA. -/
def dVX (f : Fields) (ok : Ty → Bool) (k : Hdr → Ty → VReg → XReg → Option KReg → Instr) : Dec Instr := do
  let h ← hdrOf f
  let t ← tyOf f
  need (f.b == 0 && f.c == 0 && f.md == 0)
  accept (ok t)
  return k h t (← vOf f.d) (← xOf f.a) (← k0Of f.e)

/-- KPOP and KFIRST. -/
def dXK (f : Fields) (k : Hdr → XReg → KReg → Instr) : Dec Instr := do
  let h ← hdrOf f
  need (f.ty == 0 && f.b == 0 && f.c == 0 && f.e == 0 && f.md == 0)
  return k h (← xOf f.d) (← kOf f.a)

/-- A descriptor number alone: TDLD, TDINV. -/
def dId (hd : Fields → Dec Hdr) (f : Fields) (k : Hdr → BitVec 8 → Instr) : Dec Instr := do
  let h ← hd f
  need (f.ty == 0 && f.d == 0 && f.a == 0 && f.md == 0)
  return k h (← imm8Of f)

/-- TLD and TST. -/
def dTile (f : Fields) (k : Hdr → TReg → XReg → BitVec 8 → Instr) : Dec Instr := do
  let h ← hdrChOf f
  need (f.ty == 0 && f.md == 0)
  let id ← imm8Of f
  return k h (← tOf f.d) (← xOf f.a) id

/-- The size of LD, ST, LDA and STL: a type of codes 0 to 8, or .D with ty 0 (R327, R330). -/
def memSzOf (f : Fields) : Dec MemSz := do
  let t ← tyOf f
  let wide ← flagOf f.md
  if wide = true then
    accept (t == .i8)
    return .d
  else
    accept t.inLd
    return .ty t

/-- The ordering code and scope of an atomic (R334). -/
def ordOf (f : Fields) : Dec AtomOrd := do
  need (decide (f.e.toNat < 4))
  need (!(f.e == 0 && f.c != 0))
  match f.e.toNat with
  | 1 => return .acq (← x1Of f.c)
  | 2 => return .rel (← x1Of f.c)
  | 3 => return .ar (← x1Of f.c)
  | _ => return .none

/-- The operation of an atomic (Table 16.2). -/
def atomOpOf (x : BitVec 3) : Dec AtomOp :=
  match x.toNat with
  | 0 => .ok .add | 1 => .ok .and | 2 => .ok .or | 3 => .ok .xor | 4 => .ok .min | 5 => .ok .max | 6 => .ok .xchg
  | _ => .error .reservedField

/-- The code of an atomic operation. -/
def AtomOp.code : AtomOp → BitVec 3
  | .add => 0 | .and => 1 | .or => 2 | .xor => 3 | .min => 4 | .max => 5 | .xchg => 6

/-- RED and REDO. -/
def dRed (f : Fields) (k : Hdr → Ty → XReg → XReg → BitVec 4 → Instr) : Dec Instr := do
  let h ← hdrChOf f
  let t ← tyOf f
  need (f.d == 0 && f.e == 0 && f.md == 0)
  let sid ← rawOf f.c
  accept t.inFA
  return k h t (← xOf f.a) (← xOf f.b) sid

/-- One H operand in a. -/
def dH (f : Fields) (k : Hdr → HReg → Instr) : Dec Instr := do
  let h ← hdrOf f
  need (f.ty == 0 && f.d == 0 && f.b == 0 && f.c == 0 && f.e == 0 && f.md == 0)
  return k h (← hOf f.a)

/-- CPY, CPYG, CPYW. -/
def dCpy (f : Fields) (k : Hdr → Bool → XReg → XReg → XReg → XReg → Option XReg → Instr) : Dec Instr := do
  let h ← hdrChOf f
  need (f.ty == 0)
  let s1 ← flagOf f.md
  return k h s1 (← xOf f.d) (← xOf f.a) (← xOf f.b) (← xOf f.c) (← x0Of f.e)

/-- CPIN and CUNPIN. -/
def dPin (f : Fields) (k : Hdr → Bool → XReg → XReg → Option XReg → Instr) : Dec Instr := do
  let h ← hdrChOf f
  need (f.ty == 0 && f.c == 0 && f.e == 0)
  let s1 ← flagOf f.md
  return k h s1 (← xOf f.d) (← xOf f.a) (← x0Of f.b)

/-- A destination and a walk number: WVCLOSE, WVDONE. -/
def dXW (f : Fields) (k : Hdr → XReg → BitVec 4 → Instr) : Dec Instr := do
  let h ← hdrOf f
  need (f.ty == 0 && f.a == 0 && f.b == 0 && f.e == 0 && f.md == 0)
  let wid ← rawOf f.c
  return k h (← xOf f.d) wid

/-- Three X operands and a walk number: WVOPEN, WVQRY. -/
def dXXXW (f : Fields) (k : Hdr → XReg → XReg → XReg → BitVec 4 → Instr) : Dec Instr := do
  let h ← hdrOf f
  need (f.ty == 0 && f.e == 0 && f.md == 0)
  let wid ← rawOf f.c
  return k h (← xOf f.d) (← xOf f.a) (← xOf f.b) wid

/-! ## The opcode map (Table 10.7), row group by row group -/

/-- Rows 0x00 to 0x05 (Tables 13.1 to 13.6). -/
def decScalar (f : Fields) (lit : Option Word) : Dec Instr :=
  match f.op.toNat with
  | 0x001 => dXXX f .add
  | 0x002 => dXXX f .sub
  | 0x003 => dXXX f .mul
  | 0x004 => dXXX f .mulh
  | 0x005 => dXXX f .mulhu
  | 0x006 => dXXX f .div
  | 0x007 => dXXX f .divu
  | 0x008 => dXXX f .rem
  | 0x009 => dXXX f .remu
  | 0x00A => dXXX f .and
  | 0x00B => dXXX f .or
  | 0x00C => dXXX f .xor
  | 0x00D => dXXX f .andn
  | 0x00E => dXXX f .shl
  | 0x00F => dXXX f .shr
  | 0x010 => dXXX f .sar
  | 0x011 => dXXX f .rotr
  | 0x012 => dXXX f .min
  | 0x013 => dXXX f .max
  | 0x014 => dXXX f .minu
  | 0x015 => dXXX f .maxu
  | 0x016 => dXX f .clz
  | 0x017 => dXX f .ctz
  | 0x018 => dXX f .popc
  | 0x019 => dXX f .brev
  | 0x01A => do
    let h ← hdrOf f
    need (f.ty == 0 && f.e == 0)
    let s ← flagOf f.md
    return .bfx h s (← xOf f.d) (← xOf f.a) (← xOf f.b) (← xOf f.c)
  | 0x01B => do
    let h ← hdrOf f
    need (f.ty == 0 && f.md == 0)
    return .bfi h (← xOf f.d) (← xOf f.a) (← xOf f.b) (← xOf f.c) (← xOf f.e)
  | 0x01C => do
    let h ← hdrOf f
    need (f.ty == 0 && f.e == 0 && f.md == 0)
    return .sel h (← xOf f.d) (← xOf f.a) (← xOf f.b) (← pOf f.c)
  | 0x01D => do
    let h ← hdrOf f
    need (f.ty == 0 && f.c == 0 && f.e == 0 && !f.md.getLsbD 3)
    return .lea h (f.md.setWidth 3) (← xOf f.d) (← xOf f.a) (← xOf f.b)
  | 0x01E => do
    let h ← hdrOf f
    need (f.ty == 0 && f.c == 0 && f.e == 0)
    let c ← condFor true f.md
    return .cmp h c (← pOf f.d) (← xOf f.a) (← xOf f.b)
  | 0x01F => dXX f .mov
  | 0x021 => dXXI f .addi
  | 0x023 => dXXI f .muli
  | 0x02A => dXXI f .andi
  | 0x02B => dXXI f .ori
  | 0x02C => dXXI f .xori
  | 0x02E => dXXS f .shli
  | 0x02F => dXXS f .shri
  | 0x030 => dXXS f .sari
  | 0x031 => dXXS f .rotri
  | 0x032 => dXXI f .mini
  | 0x033 => dXXI f .maxi
  | 0x034 => dXXI f .minui
  | 0x035 => dXXI f .maxui
  | 0x03E => do
    let h ← hdrOf f
    need (f.ty == 0)
    let c ← condFor true f.md
    return .cmpi h c (← pOf f.d) (← xOf f.a) f.imm
  | 0x040 => dXI f .li
  | 0x041 => do
    let h ← hdrOf f
    need (f.ty == 0 && f.a == 0 && f.b == 0 && f.c == 0 && f.e == 0 && f.md == 0)
    let d ← xOf f.d
    match lit with
    | some l => return .liw h d l
    | none => .error .truncated
  | 0x042 => do
    let h ← hdrOf f
    need (f.ty == 0 && decide (f.d.toNat < 8) && decide (f.a.toNat < 8) && decide (f.b.toNat < 8) &&
      decide (f.c.toNat < 8) && decide (f.e.toNat < 16))
    return .plog h (f.d.setWidth 3) (f.a.setWidth 3) (f.b.setWidth 3) (f.c.setWidth 3) (f.e.setWidth 4 ++ f.md)
  | 0x043 => do
    let h ← hdrOf f
    need (f.ty == 0 && f.d == 0 && f.a == 0 && f.md == 0 && !f.imm.getLsbD 0 && !f.imm.getLsbD 8 &&
      f.imm.extractLsb' 16 2 == 0)
    return .pset h (f.imm.extractLsb' 1 7) (f.imm.extractLsb' 9 7)
  | 0x048 => dI f .br
  | 0x049 => do
    let h ← hdrOf f
    need (f.ty == 0 && f.d == 0 && f.b == 0 && f.c == 0 && f.e == 0 && f.md == 0)
    return .brx h (← xOf f.a)
  | 0x04A => dXI f .call
  | 0x04B => dXX f .callx
  | 0x04C => do
    let h ← hdrOf f
    need (f.ty == 0 && f.d == 0 && f.b == 0 && f.c == 0 && f.e == 0 && f.md == 0)
    return .ret h (← xOf f.a)
  | 0x04D => dXI f .loop
  | 0x04E => dNone f .endTask
  | 0x04F => dNone f .nop
  | 0x050 => dId hdrOf f .fuse
  | 0x051 => dNone f .split
  | 0x052 => dXX f .sleep
  | 0x058 => dI f .trap
  | 0x059 => dNone f .tret
  | 0x05A => do
    let h ← hdrOf f
    need (f.ty == 0 && f.a == 0 && f.md == 0)
    return .srd h (← xOf f.d) (← srOf f)
  | 0x05B => do
    let h ← hdrOf f
    need (f.ty == 0 && f.d == 0 && f.md == 0)
    let r ← srOf f
    accept r.writable
    return .swr h (← xOf f.a) r
  | 0x05C => do
    let h ← hdrOf f
    need (f.ty == 0 && f.md == 0)
    let r ← srOf f
    accept r.writable
    return .sxch h (← xOf f.d) (← xOf f.a) r
  | 0x05D => dI f .bkpt
  | 0x05E => dX f .time
  | 0x05F => dX f .cyc
  | _ => .error .illegalInstruction

/-- Rows 0x08 to 0x0B (Table 14.1). -/
def decVector (f : Fields) (lit : Option Word) : Dec Instr :=
  match f.op.toNat with
  | 0x080 => dVArith f .vadd
  | 0x081 => dVArith f .vsub
  | 0x082 => dVArith f .vmul
  | 0x083 => dVFma f .vfma
  | 0x084 => dVFma f .vfms
  | 0x085 => dVFma f .vfnma
  | 0x086 => dVVX f (fun t => t.inFA || t.inIA) .vmin
  | 0x087 => dVVX f (fun t => t.inFA || t.inIA) .vmax
  | 0x088 => dVAbs f .vabs
  | 0x089 => dVAbs f .vneg
  | 0x08A => dVVX f Ty.inFA .vcpys
  | 0x090 => dVVX f Ty.inLogic .vand
  | 0x091 => dVVX f Ty.inLogic .vor
  | 0x092 => dVVX f Ty.inLogic .vxor
  | 0x093 => dVV f Ty.inLogic .vnot
  | 0x094 => dVVX f Ty.inIA .vshl
  | 0x095 => dVVX f Ty.inIA .vshr
  | 0x096 => dVVX f Ty.inIA .vsar
  | 0x098 => do
    let h ← hdrOf f
    let t ← tyOf f
    need (f.c == 0)
    let c ← condFor t.isInt f.md
    accept (t.inFA || t.inIA)
    return .vcmp h t c (← kOf f.d) (← vOf f.a) (← vxOf f.b) (← k0Of f.e)
  | 0x099 => do
    let h ← hdrOf f
    let t ← tyOf f
    need (f.e == 0 && f.md == 0)
    return .vsel h t (← vOf f.d) (← vOf f.a) (← vOf f.b) (← kOf f.c)
  | 0x09A => do
    let h ← hdrOf f
    let t ← tyOf f
    let src ← typeField f.b
    let r ← rndOf f.md
    need (f.c == 0)
    accept (t != .gq4 && src != .gq4)
    return .vcvt h t src r (← vOf f.d) (← vOf f.a) (← k0Of f.e)
  | 0x09B => dVWide f .vwadd
  | 0x09C => dVWide f .vwmul
  | 0x09D => dVWide f .vwfma
  | 0x09E => do
    let h ← hdrOf f
    let t ← tyOf f
    let src ← typeField f.b
    let r ← rndOf f.md
    need (f.c == 0 && f.e == 0)
    let a ← vOf f.a
    accept (vnrwOk t src a)
    return .vnrw h t src r (← vOf f.d) a
  | 0x0A0 => do
    let h ← hdrOf f
    let t ← tyOf f
    let r ← rndArith t f.md
    match lit with
    | some l =>
      match vexprDepth l r [f.a != 0, f.b != 0, f.c != 0, f.e != 0] with
      | none => .error .reservedField
      | some depth =>
        accept t.inFA
        let d ← vOf f.d
        accept (depth == 1 || !d.getLsbD 0)
        return .vexpr h t r d (← v0Of f.a) (← v0Of f.b) (← v0Of f.c) (← v0Of f.e) l
    | none =>
      accept t.inFA
      let _ ← vOf f.d
      let _ ← v0Of f.a
      let _ ← v0Of f.b
      let _ ← v0Of f.c
      let _ ← v0Of f.e
      .error .truncated
  | 0x0A1 => do
    let h ← hdrOf f
    let t ← tyOf f
    let fn ← fnOf f.b
    let r ← rnd4Of f.md
    need (f.c == 0 && (!t.isInt || f.md == 0))
    accept t.inFA
    return .vsfu h t r fn (← vOf f.d) (← vOf f.a) (← k0Of f.e)
  | 0x0A4 => do
    let h ← hdrOf f
    let t ← tyOf f
    let src ← typeField f.b
    let r ← rndOf f.md
    need (if t.isInt then f.md == 0 else r.mode != .di)
    accept (vrsumPair t src)
    return .vrsum h t src r (← vOf f.d) (← vOf f.a) (← v0Of f.c) (← k0Of f.e)
  | 0x0A5 => dVV f (fun t => t.inFA || t.inIA) .vrmax
  | 0x0A6 => dVV f (fun t => t.inFA || t.inIA) .vrmin
  | 0x0A7 => do
    let h ← hdrOf f
    let t ← tyOf f
    let r ← rndArith t f.md
    need (f.b == 0 && f.c == 0)
    accept (t.inFA || t.inIA)
    return .vscan h t r (← vOf f.d) (← vOf f.a) (← k0Of f.e)
  | 0x0A8 => dVVV f .vperm
  | 0x0A9 => do
    let h ← hdrOf f
    let t ← tyOf f
    need (f.c == 0 && f.e == 0 && decide (f.md.toNat ≤ 5) && (f.md != 4 || f.b == 0))
    accept t.inW8
    let d ← vOf f.d
    let a ← vOf f.a
    match f.md.toNat with
    | 0 => return .vshuf h t (.zlo (← vOf f.b)) d a
    | 1 => return .vshuf h t (.zhi (← vOf f.b)) d a
    | 2 => return .vshuf h t (.evn (← vOf f.b)) d a
    | 3 => return .vshuf h t (.odd (← vOf f.b)) d a
    | 4 => return .vshuf h t .rev d a
    | _ => return .vshuf h t (.rot (← xOf f.b)) d a
  | 0x0AA => dVX f (fun _ => true) .vsplat
  | 0x0AB => dVX f Ty.inIA .viota
  | 0x0AC => do
    let h ← hdrOf f
    let t ← tyOf f
    need (f.c == 0 && f.e == 0 && f.md == 0)
    return .vextr h t (← xOf f.d) (← vOf f.a) (← xOf f.b)
  | 0x0AD => do
    let h ← hdrOf f
    let t ← tyOf f
    need (f.c == 0 && f.e == 0 && f.md == 0)
    return .vinsr h t (← vOf f.d) (← xOf f.a) (← xOf f.b)
  | 0x0AE => dVV f (fun _ => true) .vmov
  | 0x0AF => dVVK f .vcprs
  | 0x0B0 => dVVK f .vexpd
  | 0x0B4 => do
    let h ← hdrOf f
    need (f.ty == 0 && decide (f.e.toNat < 16))
    return .klog h (← kOf f.d) (← kOf f.a) (← kOf f.b) (← kOf f.c) (f.e.setWidth 4 ++ f.md)
  | 0x0B5 => dXK f .kpop
  | 0x0B6 => dXK f .kfirst
  | 0x0B8 => do
    let h ← hdrOf f
    let t ← tyOf f
    let r ← rndArith t f.md
    accept t.inFA
    return .vgqd h t r (← vOf f.d) (← vOf f.a) (← xOf f.b) (← xOf f.c) (← k0Of f.e)
  | 0x0B9 => do
    let h ← hdrOf f
    let t ← tyOf f
    let fit ← flagOf f.md
    need (fit || f.e == 0)
    accept t.inFA
    let d ← vOf f.d
    let a ← vOf f.a
    let b ← xOf f.b
    let c ← xOf f.c
    if fit = true then return .vgqe h t (.fit (← x0Of f.e)) d a b c else return .vgqe h t .given d a b c
  | 0x0BA => do
    let h ← hdrOf f
    let t ← tyOf f
    need (f.c == 0 && f.md == 0)
    accept (t == .u32 || t == .f32)
    return .vrng h t (← vOf f.d) (← xOf f.a) (← xOf f.b) (← k0Of f.e)
  | 0x0BB => do
    let h ← hdrOf f
    let t ← tyOf f
    let r ← rndOf f.md
    need (f.e == 0 && (!t.isInt || f.md == 0))
    accept t.inDot
    return .vdot4 h t r (← vOf f.d) (← vOf f.a) (← vOf f.b) (← v0Of f.c)
  | 0x0BC => do
    let h ← hdrOf f
    let t ← tyOf f
    need (f.md == 0 && decide (f.imm.toNat < 512))
    accept t.inClass
    return .vclass h t (← kOf f.d) (← vOf f.a) (f.imm.setWidth 9)
  | _ => .error .illegalInstruction

/-- Rows 0x10 to 0x12 (Table 15.4). -/
def decMatrix (f : Fields) : Dec Instr :=
  match f.op.toNat with
  | 0x100 => dId hdrChOf f .tdld
  | 0x101 => do
    let h ← hdrChOf f
    need (f.ty == 0 && f.d == 0 && f.md == 0)
    let id ← imm8Of f
    return .tdst h (← xOf f.a) id
  | 0x102 => do
    let h ← hdrOf f
    need (f.ty == 0 && f.d == 0 && decide (f.md.toNat ≤ 2))
    let id ← imm8Of f
    let fld := match f.md.toNat with
      | 0 => TdField.base
      | 1 => TdField.sbase
      | _ => TdField.dph
    return .tdset h fld (← xOf f.a) id
  | 0x103 => dId hdrOf f .tdinv
  | 0x108 => dTile f .tld
  | 0x109 => dTile f .tst
  | 0x10A => do
    let h ← hdrOf f
    need (f.ty == 0 && f.a == 0 && f.b == 0 && f.c == 0 && f.e == 0 && f.md == 0)
    return .tzero h (← tOf f.d)
  | 0x10B => do
    let h ← hdrOf f
    need (f.ty == 0 && f.b == 0 && f.c == 0 && f.e == 0 && f.md == 0)
    return .ttrn h (← tOf f.d) (← tOf f.a)
  | 0x10C => do
    let h ← hdrOf f
    need (f.ty == 0 && f.c == 0 && f.e == 0 && f.md == 0)
    let d ← tOf f.d
    let b ← tOf f.b
    accept (d != b)
    return .tcmp h d (← tOf f.a) b
  | 0x110 => do
    let h ← hdrOf f
    need (f.ty == 0 && f.c == 0 && f.e == 0)
    let z ← flagOf f.md
    return .mma h z (← aOf f.d) (← tOf f.a) (← tOf f.b)
  | 0x111 => do
    let h ← hdrOf f
    need (f.ty == 0 && f.e == 0)
    let z ← flagOf f.md
    return .mmas h z (← aOf f.d) (← tOf f.a) (← tOf f.b) (← tOf f.c)
  | 0x112 => do
    let h ← hdrOf f
    need (f.ty == 0 && f.e == 0)
    let z ← flagOf f.md
    return .mmag h z (← aOf f.d) (← tOf f.a) (← tOf f.b) (← xOf f.c)
  | 0x118 => do
    let h ← hdrOf f
    need (f.ty == 0 && f.a == 0 && f.b == 0 && f.c == 0 && f.e == 0 && f.md == 0)
    return .azero h (← aOf f.d)
  | 0x119 => do
    let h ← hdrChOf f
    need (f.ty == 0 && f.md == 0)
    let id ← imm8Of f
    return .ald h (← aOf f.d) (← xOf f.a) id
  | 0x11A => do
    let h ← hdrChOf f
    need (f.ty == 0)
    let r ← rndOf f.md
    let id ← imm8Of f
    return .ast h r (← aOf f.d) (← xOf f.a) id
  | 0x11B => do
    let h ← hdrOf f
    let t ← tyOf f
    let r ← rndOf f.md
    need (f.b == 0 && f.c == 0 && f.e == 0)
    accept t.inAcvt
    return .acvt h t r (← tOf f.d) (← aOf f.a)
  | 0x11C => do
    let h ← hdrOf f
    need (f.ty == 0 && f.c == 0 && f.e == 0)
    let i ← flagOf f.md
    return .aadd h i (← aOf f.d) (← aOf f.a) (← aOf f.b)
  | 0x120 => dX f .mqry
  | _ => .error .illegalInstruction

/-- Rows 0x14 to 0x16 (Table 16.1). -/
def decMemory (f : Fields) : Dec Instr :=
  match f.op.toNat with
  | 0x140 => do
    let h ← hdrChOf f
    let sz ← memSzOf f
    return .ld h sz (← xOf f.d) (← xOf f.a) f.imm
  | 0x141 => do
    let h ← hdrChOf f
    let sz ← memSzOf f
    return .st h sz (← xOf f.d) (← xOf f.a) f.imm
  | 0x142 => do
    let h ← hdrChOf f
    need (f.ty == 0 && f.c == 0 && f.e == 0 && f.md == 0)
    return .ldv h (← vOf f.d) (← xOf f.a) (← xOf f.b)
  | 0x143 => do
    let h ← hdrChOf f
    need (f.ty == 0 && f.c == 0 && f.e == 0 && f.md == 0)
    return .stv h (← vOf f.d) (← xOf f.a) (← xOf f.b)
  | 0x144 => do
    let h ← hdrChOf f
    let t ← tyOf f
    need (f.c == 0 && f.md == 0)
    accept t.inW8
    return .ldx h t (← vOf f.d) (← xOf f.a) (← vOf f.b) (← k0Of f.e)
  | 0x145 => do
    let h ← hdrChOf f
    let t ← tyOf f
    need (f.c == 0 && f.md == 0)
    accept t.inW8
    return .stx h t (← vOf f.d) (← xOf f.a) (← vOf f.b) (← k0Of f.e)
  | 0x146 => do
    let h ← hdrChOf f
    need (f.c == 0 && f.e == 0)
    let sz ← memSzOf f
    return .lda h sz (← xOf f.d) (← xOf f.a) (← xOf f.b)
  | 0x147 => do
    let h ← hdrChOf f
    need (f.c == 0 && f.e == 0)
    let sz ← memSzOf f
    return .stl h sz (← xOf f.d) (← xOf f.a) (← xOf f.b)
  | 0x148 => do
    let h ← hdrChOf f
    let t ← tyOf f
    let op ← atomOpOf (f.md.setWidth 3)
    let ord ← ordOf f
    accept (t == .i32 || t == .u32)
    return .atom h t op (f.md.getLsbD 3) ord (← xOf f.d) (← xOf f.a) (← xOf f.b)
  | 0x149 => do
    let h ← hdrChOf f
    let t ← tyOf f
    need (f.md == 0 || f.md == 8)
    let ord ← ordOf f
    accept (t == .i32 || t == .u32)
    return .cas h t (f.md == 8) ord (← xOf f.d) (← xOf f.a) (← xOf f.b)
  | 0x14A => dRed f .red
  | 0x14B => dRed f .redo
  | 0x14C => do
    let h ← hdrChOf f
    need (f.ty == 0 && f.d == 0 && f.a == 0 && f.b == 0 && f.e == 0)
    let sid ← rawOf f.c
    let r ← rnd4Of f.md
    return .redc h r.mode sid
  | 0x150 => do
    let h ← hdrOf f
    need (f.ty == 0 && f.d == 0 && f.b == 0 && f.c == 0 && f.e == 0 && decide (f.md.toNat < 4) &&
      (f.md != 3 || f.a == 0))
    match f.md.toNat with
    | 0 => return .fence h (.acq (← x1Of f.a))
    | 1 => return .fence h (.rel (← x1Of f.a))
    | 2 => return .fence h (.ar (← x1Of f.a))
    | _ => return .fence h .all
  | 0x151 => do
    let h ← hdrOf f
    need (f.ty == 0 && f.d == 0 && f.b == 0 && f.c == 0 && f.e == 0)
    let all ← flagOf f.md
    need (!all || f.a == 0)
    if all = true then return .l1inv h none else return .l1inv h (some (← x1Of f.a))
  | 0x152 => do
    let h ← hdrChOf f
    need (f.ty == 0 && f.d == 0 && f.c == 0 && f.e == 0 && f.md == 0)
    return .prf h (← xOf f.a) (← xOf f.b)
  | 0x154 => dNone f .wait
  | 0x155 => dNone f .gbar
  | 0x158 => do
    let h ← hdrOf f
    need (f.ty == 0 && f.d == 0 && f.e == 0 && !f.md.getLsbD 3)
    return .tlw h (f.md.setWidth 3) (← xOf f.a) (← xOf f.b) (← x0Of f.c)
  | 0x159 => do
    let h ← hdrOf f
    need (f.ty == 0 && f.a == 0 && f.b == 0 && f.e == 0)
    return .tlr h (f.md.setWidth 3) (f.md.getLsbD 3) (← xOf f.d) (← x0Of f.c)
  | 0x15A => dXX f .tls
  | 0x160 => do
    let h ← hdrOf f
    need (f.ty == 0 && f.c == 0 && f.e == 0 && decide (f.md.toNat ≤ 2))
    let d ← hOf f.d
    let a ← xOf f.a
    let b ← xOf f.b
    match f.md.toNat with
    | 0 => return .hcfg h (.rx a b) d
    | 1 => return .hcfg h (.tx a b) d
    | _ => return .hcfg h (.off a b) d
  | 0x161 => dH f .hrsv
  | 0x162 => dH f .hcmt
  | 0x163 => do
    let h ← hdrOf f
    need (f.ty == 0 && f.b == 0 && f.c == 0 && f.e == 0)
    let done ← flagOf f.md
    need (!done || f.d == 0)
    if done = true then return .hadv h .done (← hOf f.a) else return .hadv h (.next (← xOf f.d)) (← hOf f.a)
  | 0x164 => do
    let h ← hdrOf f
    need (f.ty == 0 && f.b == 0 && f.c == 0 && f.e == 0 && f.md == 0)
    return .hqry h (← xOf f.d) (← hOf f.a)
  | 0x165 => do
    let h ← hdrOf f
    need (f.ty == 0 && f.d == 0 && f.e == 0 && f.md == 0)
    return .send h (← hOf f.a) (← vOf f.b) (← xOf f.c)
  | 0x166 => do
    let h ← hdrOf f
    need (f.ty == 0 && f.d == 0 && f.b == 0 && f.c == 0 && f.e == 0 && f.md == 0)
    return .wake h (← xOf f.a)
  | _ => .error .illegalInstruction

/-- Rows 0x18 to 0x1B (Table 17.1). -/
def decEngine (f : Fields) : Dec Instr :=
  match f.op.toNat with
  | 0x180 => dXXI f .mvcall
  | 0x181 => dNone f .mvret
  | 0x188 => dCpy f .cpy
  | 0x189 => dCpy f .cpyg
  | 0x18A => dCpy f .cpyw
  | 0x18B => do
    let h ← hdrChOf f
    need (f.ty == 0 && f.md == 0)
    return .cpyp h (← xOf f.d) (← xOf f.a) (← xOf f.b) (← xOf f.c) (← xOf f.e)
  | 0x190 => do
    let h ← hdrChOf f
    need (f.ty == 0)
    let id ← imm8Of f
    let cls ← match (f.md.extractLsb' 1 3).toNat with
      | 0 => Except.ok FillCls.deflt
      | 1 => Except.ok FillCls.keep
      | 2 => Except.ok FillCls.evf
      | 6 => Except.ok FillCls.pin
      | _ => Except.error DecErr.reservedField
    return .cfill h cls (f.md.getLsbD 0) (← xOf f.d) (← x0Of f.a) id
  | 0x191 => dPin f .cpin
  | 0x192 => dPin f .cunpin
  | 0x193 => do
    let h ← hdrChOf f
    need (f.ty == 0 && decide (f.md.toNat < 4) && (!f.md.getLsbD 1 || (f.b == 0 && f.c == 0)))
    let d ← xOf f.d
    let a ← xOf f.a
    if f.md.getLsbD 1 = true then return .cwin h .clr (f.md.getLsbD 0) d a (← x0Of f.e)
    else return .cwin h (.set (← xOf f.b) (← xOf f.c)) (f.md.getLsbD 0) d a (← x0Of f.e)
  | 0x198 => dXXXW f .wvopen
  | 0x199 => dXW f .wvclose
  | 0x19A => dXXXW f .wvqry
  | 0x19B => dXW f .wvdone
  | 0x1A0 => dXXX f .snopen
  | 0x1A1 => dX f .snacc
  | 0x1A2 => dX f .snrej
  | 0x1A3 => do
    let h ← hdrOf f
    need (f.ty == 0 && f.d == 0 && f.c == 0 && f.e == 0 && f.md == 0)
    return .snqry h (← xOf f.a) (← xOf f.b)
  | 0x1A8 => do
    let h ← hdrOf f
    need (f.ty == 0 && f.e == 0 && f.md == 0)
    return .lrpatch h (← xOf f.d) (← xOf f.a) (← xOf f.b) (← xOf f.c)
  | 0x1A9 => dXX f .lrarm
  | 0x1AA => dXX f .lrqry
  | 0x1B0 => do
    let h ← hdrOf f
    need (f.ty == 0 && f.a == 0 && f.b == 0 && f.c == 0 && f.e == 0)
    let hi ← flagOf f.md
    return .seedrd h hi (← xOf f.d)
  | 0x1B8 => do
    let h ← hdrChOf f
    let t ← tyOf f
    need (f.md == 0)
    accept t.inFA
    return .collp h t (← xOf f.d) (← xOf f.a) (← xOf f.b) (← xOf f.c) (← xOf f.e)
  | _ => .error .illegalInstruction

/-- The decoder of one word; `lit` is the word that follows it in its block, if there is one (R199, R205). -/
def decodeFields (f : Fields) (lit : Option Word) : Dec Instr :=
  if f.op.toNat < 0x080 then decScalar f lit
  else if f.op.toNat < 0x100 then decVector f lit
  else if f.op.toNat < 0x140 then decMatrix f
  else if f.op.toNat < 0x180 then decMemory f
  else decEngine f

/-- The decoder of a word and the word after it. -/
def decodeWord (w : Word) (lit : Option Word) : Dec Instr := decodeFields (Fields.ofWord w) lit

/-- Is op a literal-carrying instruction, LIW or VEXPR (R199)? -/
def hasLiteral (op : BitVec 10) : Bool := op == 0x041 || op == 0x0A0

/-- The threads of an opcode (Table 10.10). -/
structure Threads where
  compute : Bool
  movement : Bool
  deriving DecidableEq, Repr

/-- Table 10.10 by opcode. -/
def threadsOfOp (op : BitVec 10) : Threads :=
  let n := op.toNat
  if n = 0x04E ∨ (0x050 ≤ n ∧ n ≤ 0x052) then ⟨true, false⟩
  else if n < 0x060 then ⟨true, true⟩
  else if n < 0x180 then ⟨true, false⟩
  else if n = 0x180 then ⟨true, false⟩
  else if n = 0x19A ∨ n = 0x19B then ⟨true, true⟩
  else if (0x1A8 ≤ n ∧ n ≤ 0x1AA) ∨ n = 0x1B0 then ⟨true, false⟩
  else ⟨false, true⟩

/-- The opcodes assigned in Table 10.7 (check 1 of Table 10.9). -/
def assignedOp (op : BitVec 10) : Bool :=
  let n := op.toNat
  (decide (0x001 ≤ n) && decide (n ≤ 0x01F)) || n == 0x021 || n == 0x023 || (decide (0x02A ≤ n) && decide (n ≤ 0x02C)) ||
  (decide (0x02E ≤ n) && decide (n ≤ 0x035)) || n == 0x03E || (decide (0x040 ≤ n) && decide (n ≤ 0x043)) ||
  (decide (0x048 ≤ n) && decide (n ≤ 0x052)) || (decide (0x058 ≤ n) && decide (n ≤ 0x05F)) ||
  (decide (0x080 ≤ n) && decide (n ≤ 0x08A)) || (decide (0x090 ≤ n) && decide (n ≤ 0x096)) ||
  (decide (0x098 ≤ n) && decide (n ≤ 0x09E)) || n == 0x0A0 || n == 0x0A1 || (decide (0x0A4 ≤ n) && decide (n ≤ 0x0B0)) ||
  (decide (0x0B4 ≤ n) && decide (n ≤ 0x0B6)) || (decide (0x0B8 ≤ n) && decide (n ≤ 0x0BC)) ||
  (decide (0x100 ≤ n) && decide (n ≤ 0x103)) || (decide (0x108 ≤ n) && decide (n ≤ 0x10C)) ||
  (decide (0x110 ≤ n) && decide (n ≤ 0x112)) || (decide (0x118 ≤ n) && decide (n ≤ 0x11C)) || n == 0x120 ||
  (decide (0x140 ≤ n) && decide (n ≤ 0x14C)) || (decide (0x150 ≤ n) && decide (n ≤ 0x152)) || n == 0x154 || n == 0x155 ||
  (decide (0x158 ≤ n) && decide (n ≤ 0x15A)) || (decide (0x160 ≤ n) && decide (n ≤ 0x166)) || n == 0x180 || n == 0x181 ||
  (decide (0x188 ≤ n) && decide (n ≤ 0x18B)) || (decide (0x190 ≤ n) && decide (n ≤ 0x193)) ||
  (decide (0x198 ≤ n) && decide (n ≤ 0x19B)) || (decide (0x1A0 ≤ n) && decide (n ≤ 0x1A3)) ||
  (decide (0x1A8 ≤ n) && decide (n ≤ 0x1AA)) || n == 0x1B0 || n == 0x1B8

/-! ## Block headers (R200) -/

/-- A block header (Table 10.6). -/
structure Header where
  len : BitVec 9
  live : BitVec 32
  pf : BitVec 2
  cnt : Bool
  rcv : BitVec 10
  deriving DecidableEq, Repr

/-- Is the word a header by its op field (R201)? -/
def isHeader (w : Word) : Bool := w.extractLsb' 54 10 == 0x3FF

/-- The fields of a header word (Table 10.5). -/
def Header.ofWord (w : Word) : Header :=
  { len := w.extractLsb' 45 9, live := w.extractLsb' 13 32, pf := w.extractLsb' 11 2, cnt := w.getLsbD 10
    rcv := w.extractLsb' 0 10 }

/-- The word of a header. -/
def Header.toWord (h : Header) : Word :=
  (0x3FF#10) ++ h.len ++ h.live ++ h.pf ++ BitVec.ofBool h.cnt ++ h.rcv

/-! ## Bytes -/

/-- The little-endian value of bytes (R2). -/
def leNat : List Byte → Nat
  | [] => 0
  | b :: bs => b.toNat + 256 * leNat bs

/-- n bytes of a value, little-endian. -/
def leBytes : Nat → Nat → List Byte
  | 0, _ => []
  | n + 1, v => BitVec.ofNat 8 v :: leBytes n (v / 256)

/-- The first n bytes as a word, if there are that many. -/
def wordOf (bs : List Byte) : Option Word :=
  if 8 ≤ bs.length then some (BitVec.ofNat 64 (leNat (bs.take 8))) else none

/-- The decoder on bytes: the instruction and the bytes after it. (DEDUCED: log 13.) -/
def decode (bs : List Byte) : Dec (Instr × List Byte) :=
  match wordOf bs with
  | none => .error .truncated
  | some w =>
    let rest := bs.drop 8
    let f := Fields.ofWord w
    if hasLiteral f.op = true then
      match decodeFields f (wordOf rest) with
      | .ok i => .ok (i, rest.drop 8)
      | .error e => .error e
    else
      match decodeFields f none with
      | .ok i => .ok (i, rest)
      | .error e => .error e

/-- The instruction of a table word: nbits bits of w, every bit above them zero, in the words' byte order. -/
def decodeTableWord (nbits w : Nat) : Option Instr :=
  match decode (leBytes 16 (w % 2 ^ nbits)) with
  | .ok (i, _) => some i
  | .error _ => none

/-! ## The encoder, from the same tables -/

/-- The code of an X operand. -/
def xc (r : XReg) : BitVec 6 := r.setWidth 6
/-- The code of a V operand. -/
def vc (r : VReg) : BitVec 6 := 32 + r.setWidth 6
/-- The code of an H operand. -/
def hc (r : HReg) : BitVec 6 := 48 + r.setWidth 6
/-- The code of a K operand. -/
def kc (r : KReg) : BitVec 6 := 56 + r.setWidth 6
/-- The code of a T operand. -/
def tc (r : TReg) : BitVec 6 := r.setWidth 6
/-- The code of an A operand. -/
def ac (r : AReg) : BitVec 6 := 4 + r.setWidth 6
/-- The code of a predicate. -/
def pc (r : PReg) : BitVec 6 := r.setWidth 6
/-- The code of a V/X operand. -/
def vxc : VX → BitVec 6
  | .v r => vc r
  | .x r => xc r
/-- The code of a K/0 operand. -/
def k0c : Option KReg → BitVec 6
  | none => 0
  | some r => kc r
/-- The code of a V/0 operand. -/
def v0c : Option VReg → BitVec 6
  | none => 0
  | some r => vc r
/-- The code of an X/0 operand. -/
def x0c : Option XReg → BitVec 6
  | none => 0
  | some r => xc r

/-- Fields of an opcode under a header, every operand zero. -/
def mk0 (op : BitVec 10) (h : Hdr) : Fields :=
  { op := op, ty := 0, d := 0, a := 0, b := 0, c := 0, e := 0, g0 := h.g0, g1 := h.g1, ch := h.ch, sd := h.sd, y := h.y
    md := 0 }

/-- Fields with the operands d, a, b, c, e. -/
def mkO (op : BitVec 10) (h : Hdr) (d a b c e : BitVec 6) : Fields :=
  { mk0 op h with d := d, a := a, b := b, c := c, e := e }

/-- Fields with the operands, the type and the modifier. -/
def mkT (op : BitVec 10) (h : Hdr) (ty : BitVec 4) (md : BitVec 4) (d a b c e : BitVec 6) : Fields :=
  { mkO op h d a b c e with ty := ty, md := md }

/-- Fields with d, a and an immediate in b, c, e. -/
def mkI (op : BitVec 10) (h : Hdr) (md : BitVec 4) (d a : BitVec 6) (imm : BitVec 18) : Fields :=
  { mk0 op h with d := d, a := a, b := imm.extractLsb' 12 6, c := imm.extractLsb' 6 6, e := imm.extractLsb' 0 6, md := md }

/-- The ty and md of a scalar access (R330). -/
def memSzCode : MemSz → BitVec 4 × BitVec 4
  | .ty t => (t.code, 0)
  | .d => (0, 1)

/-- The e and c codes of an atomic's ordering (R334). -/
def ordCode : AtomOrd → BitVec 6 × BitVec 6
  | .none => (0, 0)
  | .acq s => (1, xc s)
  | .rel s => (2, xc s)
  | .ar s => (3, xc s)

/-- A flag as a modifier. -/
def flagc (b : Bool) : BitVec 4 := if b then 1 else 0

/-- The md and b of a lane shuffle (Table 14.5). -/
def shufCode : Shuf → BitVec 4 × BitVec 6
  | .zlo b => (0, vc b)
  | .zhi b => (1, vc b)
  | .evn b => (2, vc b)
  | .odd b => (3, vc b)
  | .rev => (4, 0)
  | .rot b => (5, xc b)

/-- The md and e of VGQE (R301). -/
def gqeCode : GqeOp → BitVec 4 × BitVec 6
  | .given => (0, 0)
  | .fit e => (1, x0c e)

/-- The md of TDSET (R312). -/
def tdCode : TdField → BitVec 4
  | .base => 0
  | .sbase => 1
  | .dph => 2

/-- The md and a of FENCE (R340). -/
def fenceCode : FenceOp → BitVec 4 × BitVec 6
  | .acq s => (0, xc s)
  | .rel s => (1, xc s)
  | .ar s => (2, xc s)
  | .all => (3, 0)

/-- The md, a and b of HCFG (R348). -/
def hcfgCode : HcfgOp → BitVec 4 × BitVec 6 × BitVec 6
  | .rx a b => (0, xc a, xc b)
  | .tx a b => (1, xc a, xc b)
  | .off a b => (2, xc a, xc b)

/-- The md and d of HADV (R353). -/
def hadvCode : HadvOp → BitVec 4 × BitVec 6
  | .next d => (0, xc d)
  | .done => (1, 0)

/-- md[3:1] of CFILL (Table 17.1). -/
def fillCode : FillCls → BitVec 3
  | .deflt => 0
  | .keep => 1
  | .evf => 2
  | .pin => 6

/-- md[3:1], b and c of CWIN (Table 17.1). -/
def cwinCode : CwinOp → BitVec 3 × BitVec 6 × BitVec 6
  | .set b c => (0, xc b, xc c)
  | .clr => (1, 0, 0)

/-- The fields and the literal of an instruction; a device step has no word. -/
def encodeFields (i : Instr) : Option (Fields × Option Word) :=
  match i with
  | .add h d a b => some (mkO 0x001 h (xc d) (xc a) (xc b) 0 0, none)
  | .sub h d a b => some (mkO 0x002 h (xc d) (xc a) (xc b) 0 0, none)
  | .mul h d a b => some (mkO 0x003 h (xc d) (xc a) (xc b) 0 0, none)
  | .mulh h d a b => some (mkO 0x004 h (xc d) (xc a) (xc b) 0 0, none)
  | .mulhu h d a b => some (mkO 0x005 h (xc d) (xc a) (xc b) 0 0, none)
  | .div h d a b => some (mkO 0x006 h (xc d) (xc a) (xc b) 0 0, none)
  | .divu h d a b => some (mkO 0x007 h (xc d) (xc a) (xc b) 0 0, none)
  | .rem h d a b => some (mkO 0x008 h (xc d) (xc a) (xc b) 0 0, none)
  | .remu h d a b => some (mkO 0x009 h (xc d) (xc a) (xc b) 0 0, none)
  | .and h d a b => some (mkO 0x00A h (xc d) (xc a) (xc b) 0 0, none)
  | .or h d a b => some (mkO 0x00B h (xc d) (xc a) (xc b) 0 0, none)
  | .xor h d a b => some (mkO 0x00C h (xc d) (xc a) (xc b) 0 0, none)
  | .andn h d a b => some (mkO 0x00D h (xc d) (xc a) (xc b) 0 0, none)
  | .shl h d a b => some (mkO 0x00E h (xc d) (xc a) (xc b) 0 0, none)
  | .shr h d a b => some (mkO 0x00F h (xc d) (xc a) (xc b) 0 0, none)
  | .sar h d a b => some (mkO 0x010 h (xc d) (xc a) (xc b) 0 0, none)
  | .rotr h d a b => some (mkO 0x011 h (xc d) (xc a) (xc b) 0 0, none)
  | .min h d a b => some (mkO 0x012 h (xc d) (xc a) (xc b) 0 0, none)
  | .max h d a b => some (mkO 0x013 h (xc d) (xc a) (xc b) 0 0, none)
  | .minu h d a b => some (mkO 0x014 h (xc d) (xc a) (xc b) 0 0, none)
  | .maxu h d a b => some (mkO 0x015 h (xc d) (xc a) (xc b) 0 0, none)
  | .clz h d a => some (mkO 0x016 h (xc d) (xc a) 0 0 0, none)
  | .ctz h d a => some (mkO 0x017 h (xc d) (xc a) 0 0 0, none)
  | .popc h d a => some (mkO 0x018 h (xc d) (xc a) 0 0 0, none)
  | .brev h d a => some (mkO 0x019 h (xc d) (xc a) 0 0 0, none)
  | .bfx h s d a b c => some (mkT 0x01A h 0 (flagc s) (xc d) (xc a) (xc b) (xc c) 0, none)
  | .bfi h d a b c e => some (mkO 0x01B h (xc d) (xc a) (xc b) (xc c) (xc e), none)
  | .sel h d a b c => some (mkO 0x01C h (xc d) (xc a) (xc b) (pc c) 0, none)
  | .lea h sc d a b => some (mkT 0x01D h 0 (sc.setWidth 4) (xc d) (xc a) (xc b) 0 0, none)
  | .cmp h c d a b => some (mkT 0x01E h 0 c.code (pc d) (xc a) (xc b) 0 0, none)
  | .mov h d a => some (mkO 0x01F h (xc d) (xc a) 0 0 0, none)
  | .addi h d a imm => some (mkI 0x021 h 0 (xc d) (xc a) imm, none)
  | .muli h d a imm => some (mkI 0x023 h 0 (xc d) (xc a) imm, none)
  | .andi h d a imm => some (mkI 0x02A h 0 (xc d) (xc a) imm, none)
  | .ori h d a imm => some (mkI 0x02B h 0 (xc d) (xc a) imm, none)
  | .xori h d a imm => some (mkI 0x02C h 0 (xc d) (xc a) imm, none)
  | .shli h d a n => some (mkI 0x02E h 0 (xc d) (xc a) (n.setWidth 18), none)
  | .shri h d a n => some (mkI 0x02F h 0 (xc d) (xc a) (n.setWidth 18), none)
  | .sari h d a n => some (mkI 0x030 h 0 (xc d) (xc a) (n.setWidth 18), none)
  | .rotri h d a n => some (mkI 0x031 h 0 (xc d) (xc a) (n.setWidth 18), none)
  | .mini h d a imm => some (mkI 0x032 h 0 (xc d) (xc a) imm, none)
  | .maxi h d a imm => some (mkI 0x033 h 0 (xc d) (xc a) imm, none)
  | .minui h d a imm => some (mkI 0x034 h 0 (xc d) (xc a) imm, none)
  | .maxui h d a imm => some (mkI 0x035 h 0 (xc d) (xc a) imm, none)
  | .cmpi h c d a imm => some (mkI 0x03E h c.code (pc d) (xc a) imm, none)
  | .li h d imm => some (mkI 0x040 h 0 (xc d) 0 imm, none)
  | .liw h d lit => some (mkO 0x041 h (xc d) 0 0 0 0, some lit)
  | .plog h d a b c tt => some (mkT 0x042 h 0 (tt.extractLsb' 0 4) (pc d) (pc a) (pc b) (pc c) ((tt.extractLsb' 4 4).setWidth 6), none)
  | .pset h vals en => some (mkI 0x043 h 0 0 0 ((0#2) ++ en ++ (0#1) ++ vals ++ (0#1)), none)
  | .br h imm => some (mkI 0x048 h 0 0 0 imm, none)
  | .brx h a => some (mkO 0x049 h 0 (xc a) 0 0 0, none)
  | .call h d imm => some (mkI 0x04A h 0 (xc d) 0 imm, none)
  | .callx h d a => some (mkO 0x04B h (xc d) (xc a) 0 0 0, none)
  | .ret h a => some (mkO 0x04C h 0 (xc a) 0 0 0, none)
  | .loop h d imm => some (mkI 0x04D h 0 (xc d) 0 imm, none)
  | .endTask h => some (mk0 0x04E h, none)
  | .nop h => some (mk0 0x04F h, none)
  | .fuse h mask => some (mkI 0x050 h 0 0 0 (mask.setWidth 18), none)
  | .split h => some (mk0 0x051 h, none)
  | .sleep h d a => some (mkO 0x052 h (xc d) (xc a) 0 0 0, none)
  | .trap h imm => some (mkI 0x058 h 0 0 0 imm, none)
  | .tret h => some (mk0 0x059 h, none)
  | .srd h d sr => some (mkI 0x05A h 0 (xc d) 0 sr.code, none)
  | .swr h a sr => some (mkI 0x05B h 0 0 (xc a) sr.code, none)
  | .sxch h d a sr => some (mkI 0x05C h 0 (xc d) (xc a) sr.code, none)
  | .bkpt h imm => some (mkI 0x05D h 0 0 0 imm, none)
  | .time h d => some (mkO 0x05E h (xc d) 0 0 0 0, none)
  | .cyc h d => some (mkO 0x05F h (xc d) 0 0 0 0, none)
  | .vadd h t r d a b e => some (mkT 0x080 h t.code (rndCode r) (vc d) (vc a) (vxc b) 0 (k0c e), none)
  | .vsub h t r d a b e => some (mkT 0x081 h t.code (rndCode r) (vc d) (vc a) (vxc b) 0 (k0c e), none)
  | .vmul h t r d a b e => some (mkT 0x082 h t.code (rndCode r) (vc d) (vc a) (vxc b) 0 (k0c e), none)
  | .vfma h t r d a b c e => some (mkT 0x083 h t.code (rndCode r) (vc d) (vc a) (vxc b) (vc c) (k0c e), none)
  | .vfms h t r d a b c e => some (mkT 0x084 h t.code (rndCode r) (vc d) (vc a) (vxc b) (vc c) (k0c e), none)
  | .vfnma h t r d a b c e => some (mkT 0x085 h t.code (rndCode r) (vc d) (vc a) (vxc b) (vc c) (k0c e), none)
  | .vmin h t d a b e => some (mkT 0x086 h t.code 0 (vc d) (vc a) (vxc b) 0 (k0c e), none)
  | .vmax h t d a b e => some (mkT 0x087 h t.code 0 (vc d) (vc a) (vxc b) 0 (k0c e), none)
  | .vabs h t sat d a e => some (mkT 0x088 h t.code (if sat then 8 else 0) (vc d) (vc a) 0 0 (k0c e), none)
  | .vneg h t sat d a e => some (mkT 0x089 h t.code (if sat then 8 else 0) (vc d) (vc a) 0 0 (k0c e), none)
  | .vcpys h t d a b e => some (mkT 0x08A h t.code 0 (vc d) (vc a) (vxc b) 0 (k0c e), none)
  | .vand h t d a b e => some (mkT 0x090 h t.code 0 (vc d) (vc a) (vxc b) 0 (k0c e), none)
  | .vor h t d a b e => some (mkT 0x091 h t.code 0 (vc d) (vc a) (vxc b) 0 (k0c e), none)
  | .vxor h t d a b e => some (mkT 0x092 h t.code 0 (vc d) (vc a) (vxc b) 0 (k0c e), none)
  | .vnot h t d a e => some (mkT 0x093 h t.code 0 (vc d) (vc a) 0 0 (k0c e), none)
  | .vshl h t d a b e => some (mkT 0x094 h t.code 0 (vc d) (vc a) (vxc b) 0 (k0c e), none)
  | .vshr h t d a b e => some (mkT 0x095 h t.code 0 (vc d) (vc a) (vxc b) 0 (k0c e), none)
  | .vsar h t d a b e => some (mkT 0x096 h t.code 0 (vc d) (vc a) (vxc b) 0 (k0c e), none)
  | .vcmp h t c d a b e => some (mkT 0x098 h t.code c.code (kc d) (vc a) (vxc b) 0 (k0c e), none)
  | .vsel h t d a b c => some (mkT 0x099 h t.code 0 (vc d) (vc a) (vc b) (kc c) 0, none)
  | .vcvt h t src r d a e => some (mkT 0x09A h t.code (rndCode r) (vc d) (vc a) (src.code.setWidth 6) 0 (k0c e), none)
  | .vwadd h t q d a b => some (mkT 0x09B h t.code (flagc q) (vc d) (vc a) (vxc b) 0 0, none)
  | .vwmul h t q d a b => some (mkT 0x09C h t.code (flagc q) (vc d) (vc a) (vxc b) 0 0, none)
  | .vwfma h t q d a b => some (mkT 0x09D h t.code (flagc q) (vc d) (vc a) (vxc b) 0 0, none)
  | .vnrw h t src r d a => some (mkT 0x09E h t.code (rndCode r) (vc d) (vc a) (src.code.setWidth 6) 0 0, none)
  | .vexpr h t r d a b c e lit => some (mkT 0x0A0 h t.code (rndCode r) (vc d) (v0c a) (v0c b) (v0c c) (v0c e), some lit)
  | .vsfu h t r fn d a e => some (mkT 0x0A1 h t.code (rndCode r) (vc d) (vc a) fn.code 0 (k0c e), none)
  | .vrsum h t src r d a c e => some (mkT 0x0A4 h t.code (rndCode r) (vc d) (vc a) (src.code.setWidth 6) (v0c c) (k0c e), none)
  | .vrmax h t d a e => some (mkT 0x0A5 h t.code 0 (vc d) (vc a) 0 0 (k0c e), none)
  | .vrmin h t d a e => some (mkT 0x0A6 h t.code 0 (vc d) (vc a) 0 0 (k0c e), none)
  | .vscan h t r d a e => some (mkT 0x0A7 h t.code (rndCode r) (vc d) (vc a) 0 0 (k0c e), none)
  | .vperm h t d a b => some (mkT 0x0A8 h t.code 0 (vc d) (vc a) (vc b) 0 0, none)
  | .vshuf h t op d a => some (mkT 0x0A9 h t.code (shufCode op).1 (vc d) (vc a) (shufCode op).2 0 0, none)
  | .vsplat h t d a e => some (mkT 0x0AA h t.code 0 (vc d) (xc a) 0 0 (k0c e), none)
  | .viota h t d a e => some (mkT 0x0AB h t.code 0 (vc d) (xc a) 0 0 (k0c e), none)
  | .vextr h t d a b => some (mkT 0x0AC h t.code 0 (xc d) (vc a) (xc b) 0 0, none)
  | .vinsr h t d a b => some (mkT 0x0AD h t.code 0 (vc d) (xc a) (xc b) 0 0, none)
  | .vmov h t d a e => some (mkT 0x0AE h t.code 0 (vc d) (vc a) 0 0 (k0c e), none)
  | .vcprs h t d a b => some (mkT 0x0AF h t.code 0 (vc d) (vc a) (kc b) 0 0, none)
  | .vexpd h t d a b => some (mkT 0x0B0 h t.code 0 (vc d) (vc a) (kc b) 0 0, none)
  | .klog h d a b c tt => some (mkT 0x0B4 h 0 (tt.extractLsb' 0 4) (kc d) (kc a) (kc b) (kc c) ((tt.extractLsb' 4 4).setWidth 6), none)
  | .kpop h d a => some (mkO 0x0B5 h (xc d) (kc a) 0 0 0, none)
  | .kfirst h d a => some (mkO 0x0B6 h (xc d) (kc a) 0 0 0, none)
  | .vgqd h t r d a b c e => some (mkT 0x0B8 h t.code (rndCode r) (vc d) (vc a) (xc b) (xc c) (k0c e), none)
  | .vgqe h t op d a b c => some (mkT 0x0B9 h t.code (gqeCode op).1 (vc d) (vc a) (xc b) (xc c) (gqeCode op).2, none)
  | .vrng h t d a b e => some (mkT 0x0BA h t.code 0 (vc d) (xc a) (xc b) 0 (k0c e), none)
  | .vdot4 h t r d a b c => some (mkT 0x0BB h t.code (rndCode r) (vc d) (vc a) (vc b) (v0c c) 0, none)
  | .vclass h t d a imm => some ({ mkI 0x0BC h 0 (kc d) (vc a) (imm.setWidth 18) with ty := t.code }, none)
  | .tdld h id => some (mkI 0x100 h 0 0 0 (id.setWidth 18), none)
  | .tdst h a id => some (mkI 0x101 h 0 0 (xc a) (id.setWidth 18), none)
  | .tdset h fld a id => some (mkI 0x102 h (tdCode fld) 0 (xc a) (id.setWidth 18), none)
  | .tdinv h id => some (mkI 0x103 h 0 0 0 (id.setWidth 18), none)
  | .tld h d a id => some (mkI 0x108 h 0 (tc d) (xc a) (id.setWidth 18), none)
  | .tst h d a id => some (mkI 0x109 h 0 (tc d) (xc a) (id.setWidth 18), none)
  | .tzero h d => some (mkO 0x10A h (tc d) 0 0 0 0, none)
  | .ttrn h d a => some (mkO 0x10B h (tc d) (tc a) 0 0 0, none)
  | .tcmp h d a b => some (mkO 0x10C h (tc d) (tc a) (tc b) 0 0, none)
  | .mma h z d a b => some (mkT 0x110 h 0 (flagc z) (ac d) (tc a) (tc b) 0 0, none)
  | .mmas h z d a b c => some (mkT 0x111 h 0 (flagc z) (ac d) (tc a) (tc b) (tc c) 0, none)
  | .mmag h z d a b c => some (mkT 0x112 h 0 (flagc z) (ac d) (tc a) (tc b) (xc c) 0, none)
  | .azero h d => some (mkO 0x118 h (ac d) 0 0 0 0, none)
  | .ald h d a id => some (mkI 0x119 h 0 (ac d) (xc a) (id.setWidth 18), none)
  | .ast h r d a id => some (mkI 0x11A h (rndCode r) (ac d) (xc a) (id.setWidth 18), none)
  | .acvt h t r d a => some (mkT 0x11B h t.code (rndCode r) (tc d) (ac a) 0 0 0, none)
  | .aadd h i d a b => some (mkT 0x11C h 0 (flagc i) (ac d) (ac a) (ac b) 0 0, none)
  | .mqry h d => some (mkO 0x120 h (xc d) 0 0 0 0, none)
  | .ld h sz d a imm => some ({ mkI 0x140 h (memSzCode sz).2 (xc d) (xc a) imm with ty := (memSzCode sz).1 }, none)
  | .st h sz d a imm => some ({ mkI 0x141 h (memSzCode sz).2 (xc d) (xc a) imm with ty := (memSzCode sz).1 }, none)
  | .ldv h d a b => some (mkO 0x142 h (vc d) (xc a) (xc b) 0 0, none)
  | .stv h d a b => some (mkO 0x143 h (vc d) (xc a) (xc b) 0 0, none)
  | .ldx h t d a b e => some (mkT 0x144 h t.code 0 (vc d) (xc a) (vc b) 0 (k0c e), none)
  | .stx h t d a b e => some (mkT 0x145 h t.code 0 (vc d) (xc a) (vc b) 0 (k0c e), none)
  | .lda h sz d a b => some (mkT 0x146 h (memSzCode sz).1 (memSzCode sz).2 (xc d) (xc a) (xc b) 0 0, none)
  | .stl h sz d a b => some (mkT 0x147 h (memSzCode sz).1 (memSzCode sz).2 (xc d) (xc a) (xc b) 0 0, none)
  | .atom h t op dbl ord d a b => some (mkT 0x148 h t.code (BitVec.ofBool dbl ++ op.code) (xc d) (xc a) (xc b) (ordCode ord).2 (ordCode ord).1, none)
  | .cas h t dbl ord d a b => some (mkT 0x149 h t.code (if dbl then 8 else 0) (xc d) (xc a) (xc b) (ordCode ord).2 (ordCode ord).1, none)
  | .red h t a b sid => some (mkT 0x14A h t.code 0 0 (xc a) (xc b) (sid.setWidth 6) 0, none)
  | .redo h t a b sid => some (mkT 0x14B h t.code 0 0 (xc a) (xc b) (sid.setWidth 6) 0, none)
  | .redc h m sid => some (mkT 0x14C h 0 (rndCode ⟨m, false⟩) 0 0 0 (sid.setWidth 6) 0, none)
  | .fence h op => some (mkT 0x150 h 0 (fenceCode op).1 0 (fenceCode op).2 0 0 0, none)
  | .l1inv h s => some (mkT 0x151 h 0 (flagc s.isNone) 0 (x0c s) 0 0 0, none)
  | .prf h a b => some (mkO 0x152 h 0 (xc a) (xc b) 0 0, none)
  | .wait h => some (mk0 0x154 h, none)
  | .gbar h => some (mk0 0x155 h, none)
  | .tlw h n a b c => some (mkT 0x158 h 0 (n.setWidth 4) 0 (xc a) (xc b) (x0c c) 0, none)
  | .tlr h n i d c => some (mkT 0x159 h 0 (BitVec.ofBool i ++ n) (xc d) 0 0 (x0c c) 0, none)
  | .tls h d a => some (mkO 0x15A h (xc d) (xc a) 0 0 0, none)
  | .hcfg h op d => some (mkT 0x160 h 0 (hcfgCode op).1 (hc d) (hcfgCode op).2.1 (hcfgCode op).2.2 0 0, none)
  | .hrsv h a => some (mkO 0x161 h 0 (hc a) 0 0 0, none)
  | .hcmt h a => some (mkO 0x162 h 0 (hc a) 0 0 0, none)
  | .hadv h op a => some (mkT 0x163 h 0 (hadvCode op).1 (hadvCode op).2 (hc a) 0 0 0, none)
  | .hqry h d a => some (mkO 0x164 h (xc d) (hc a) 0 0 0, none)
  | .send h a b c => some (mkO 0x165 h 0 (hc a) (vc b) (xc c) 0, none)
  | .wake h a => some (mkO 0x166 h 0 (xc a) 0 0 0, none)
  | .mvcall h d a imm => some (mkI 0x180 h 0 (xc d) (xc a) imm, none)
  | .mvret h => some (mk0 0x181 h, none)
  | .cpy h s1 d a b c e => some (mkT 0x188 h 0 (flagc s1) (xc d) (xc a) (xc b) (xc c) (x0c e), none)
  | .cpyg h s1 d a b c e => some (mkT 0x189 h 0 (flagc s1) (xc d) (xc a) (xc b) (xc c) (x0c e), none)
  | .cpyw h s1 d a b c e => some (mkT 0x18A h 0 (flagc s1) (xc d) (xc a) (xc b) (xc c) (x0c e), none)
  | .cpyp h d a b c e => some (mkO 0x18B h (xc d) (xc a) (xc b) (xc c) (xc e), none)
  | .cfill h cls s1 d a id => some (mkI 0x190 h (fillCode cls ++ BitVec.ofBool s1) (xc d) (x0c a) (id.setWidth 18), none)
  | .cpin h s1 d a b => some (mkT 0x191 h 0 (flagc s1) (xc d) (xc a) (x0c b) 0 0, none)
  | .cunpin h s1 d a b => some (mkT 0x192 h 0 (flagc s1) (xc d) (xc a) (x0c b) 0 0, none)
  | .cwin h op s1 d a e => some (mkT 0x193 h 0 ((cwinCode op).1 ++ BitVec.ofBool s1) (xc d) (xc a) (cwinCode op).2.1 (cwinCode op).2.2 (x0c e), none)
  | .wvopen h d a b wid => some (mkO 0x198 h (xc d) (xc a) (xc b) (wid.setWidth 6) 0, none)
  | .wvclose h d wid => some (mkO 0x199 h (xc d) 0 0 (wid.setWidth 6) 0, none)
  | .wvqry h d a b wid => some (mkO 0x19A h (xc d) (xc a) (xc b) (wid.setWidth 6) 0, none)
  | .wvdone h d wid => some (mkO 0x19B h (xc d) 0 0 (wid.setWidth 6) 0, none)
  | .snopen h d a b => some (mkO 0x1A0 h (xc d) (xc a) (xc b) 0 0, none)
  | .snacc h d => some (mkO 0x1A1 h (xc d) 0 0 0 0, none)
  | .snrej h d => some (mkO 0x1A2 h (xc d) 0 0 0 0, none)
  | .snqry h a b => some (mkO 0x1A3 h 0 (xc a) (xc b) 0 0, none)
  | .lrpatch h d a b c => some (mkO 0x1A8 h (xc d) (xc a) (xc b) (xc c) 0, none)
  | .lrarm h d a => some (mkO 0x1A9 h (xc d) (xc a) 0 0 0, none)
  | .lrqry h d a => some (mkO 0x1AA h (xc d) (xc a) 0 0 0, none)
  | .seedrd h hi d => some (mkT 0x1B0 h 0 (flagc hi) (xc d) 0 0 0 0, none)
  | .collp h t d a b c e => some (mkT 0x1B8 h t.code 0 (xc d) (xc a) (xc b) (xc c) (xc e), none)
  | .timerTrap _ => none
  | .taskStart _ => none
  | .endRetire _ => none
  | .routineStart _ => none
  | .gangFusion _ => none
  | .sleepDeadline _ => none
  | .wakeArrival _ => none
  | .tlwSatisfied _ => none
  | .seqProgramFetch _ _ => none
  | .mask _ _ _ => none
  | .maskb _ _ _ _ _ => none
  | .loopEntry _ _ _ => none
  | .endl _ _ => none
  | .jump _ _ _ => none
  | .note _ _ _ => none
  | .halt _ _ => none
  | .fire _ _ _ => none
  | .memberRelease _ _ _ => none
  | .gbarCountComplete _ => none
  | .gbarRelease _ => none
  | .copySectorPerformed _ _ => none
  | .timelineComplete _ _ _ => none
  | .matrixArbitration _ _ => none
  | .matrixCommandComplete _ => none
  | .rampWindow _ => none
  | .homeAccess _ => none
  | .hbmFillComplete _ _ _ => none
  | .remoteScratchpadAccess _ => none
  | .translationWalk _ _ _ => none
  | .pendingLoadFault _ _ => none
  | .sideLogEntry _ _ => none
  | .replayPass _ _ => none
  | .engineFault _ _ _ _ => none
  | .redUpdateApply _ => none
  | .redoOpenApply _ _ _ => none
  | .redcCloseApply _ _ _ => none
  | .snapshotOpApply _ _ _ => none
  | .ringReservationRequest _ _ => none
  | .ringGrant _ _ _ => none
  | .commitComplete _ _ => none
  | .weevilBatchTake _ _ _ => none
  | .prefetchComplete _ _ _ _ _ => none
  | .pointIssue _ => none
  | .ageBoundExpiry _ _ _ _ => none
  | .forcedFillComplete _ _ => none
  | .forcedFillRetry _ _ => none
  | .walkStall _ => none
  | .leaseExpiry _ _ _ => none
  | .endOfWork _ _ => none
  | .epilogueStart _ => none
  | .notifyWrite _ _ => none
  | .launch _ _ => none
  | .tlwait _ _ _ => none
  | .tlwaitSatisfied _ _ _ => none
  | .tlsignal _ _ _ => none
  | .seedpush _ _ _ => none
  | .seedpop _ => none
  | .seedfork _ _ => none
  | .copy _ _ _ _ _ => none
  | .copyPacketComplete _ _ => none
  | .window _ _ _ _ _ _ => none
  | .windowChangeComplete _ _ => none
  | .fencePacket _ => none
  | .marker _ _ => none
  | .queueQuantum => none
  | .placement => none
  | .reservation _ _ => none
  | .placementStarved _ _ => none
  | .launchEnd _ => none
  | .coreStop _ => none
  | .restore _ _ => none
  | .shootdown _ => none
  | .shootdownFlush _ => none
  | .shootdownSliceAck _ => none
  | .shootdownStatusRead => none
  | .ctxload _ => none
  | .ctxupd _ => none
  | .ctxevict _ => none
  | .preempt _ _ => none
  | .qresync _ _ => none
  | .bssplit _ _ => none
  | .signrun _ => none
  | .attest _ _ => none
  | .svnadv _ => none
  | .seqreset _ _ => none
  | .contain _ => none
  | .uncontain _ => none
  | .unknownCommand _ => none
  | .svcStatusRead => none
  | .seqSnapshotLatch _ _ => none
  | .hreq _ => none
  | .rreq _ => none
  | .sreq _ => none
  | .debugStatusRead _ => none
  | .breakpointMatch _ _ => none
  | .heldMessage _ _ => none
  | .traceRecordDrain _ => none
  | .tracePortWrite _ _ _ _ _ _ _ => none
  | .waitcfgWrite _ => none
  | .longWait _ _ => none
  | .registerWrite _ _ => none
  | .hostRegAccess _ _ _ _ => none
  | .hostMemAccess _ _ _ _ => none
  | .peerOperationReceive _ _ _ _ _ _ => none
  | .powerWindow _ => none
  | .oppChange => none
  | .monitorTrip _ _ _ => none
  | .gateBlock _ => none
  | .traceDrainTimeout _ => none
  | .wakeBlock _ _ => none
  | .blockWakeComplete _ => none
  | .correctedError _ => none
  | .uncorrectableError _ => none
  | .checkerMismatch _ _ _ => none
  | .columnRetirement _ => none
  | .blockWithdrawal _ => none
  | .hiveMemoryError _ => none
  | .flitCrcFail _ _ _ => none
  | .hbmScrub _ _ => none
  | .boot => none
  | .accessResponse _ => none
  | .rimIslandGating _ => none

/-- The words of an instruction in order; none for a device step (R189, R199). (DEDUCED: log 13.) -/
def encode (i : Instr) : List Word :=
  match encodeFields i with
  | none => []
  | some (f, none) => [f.toWord]
  | some (f, some lit) => [f.toWord, lit]

/-- The bytes of an instruction as memory holds them (R2). -/
def encodeBytes (i : Instr) : List Byte := (encode i).flatMap (fun w => leBytes 8 w.toNat)

end Sys2Proof
end

