-- ==== Sys2Proof/Machine/State.lean ====
section
/-!
DEFINITION. The state of the Fjarry as plain data: the focused core with its two threads, the other cores, the blocks
with their slices and engines, the contexts, the Hive and the rim registers, memory, and the accesses in flight
(INVENTORY.md, '## State', names the rule of each field). Values at power-on that the spec does not give are those of
notes/assumptions/2.md.
-/

namespace Sys2Proof.Machine

/-! ## Device steps -/

/-- The device steps as the state holds them: the constructors of `Instr` for rows 185 to 306 of the opcode table. -/
inductive Ev where
  -- steps of a core's units (R36, R38, R43, R129, R255, R269, R356, R361)
  | timerTrap (core : Nat)
  | taskStart (core : Nat)
  | endRetire (core : Nat)
  | routineStart (core : Nat)
  | gangFusion (core : Nat)
  | sleepDeadline (core : Nat)
  | wakeArrival (core : Nat)
  | tlwSatisfied (core : Nat)
  -- steps of a Cicada sequencer and of the combining tree (R52 to R61, R70)
  | seqProgramFetch (blk seq : Nat)
  | mask (blk seq : Nat) (m : BitVec 32)
  | maskb (blk seq : Nat) (tag : BitVec 4) (cnt : BitVec 24) (m : BitVec 32)
  | loopEntry (blk seq : Nat) (n : BitVec 16)
  | endl (blk seq : Nat)
  | jump (blk seq : Nat) (target : BitVec 16)
  | note (blk seq : Nat) (value : BitVec 32)
  | halt (blk seq : Nat)
  | fire (blk seq : Nat) (sq : BitVec 32)
  | memberRelease (blk seq : Nat) (sq : BitVec 32)
  | gbarCountComplete (ldom : Nat)
  | gbarRelease (ldom : Nat)
  -- steps of engines and of the matrix unit (R127, R307, R308, R363, R397)
  | copySectorPerformed (core op : Nat)
  | timelineComplete (core tl n : Nat)
  | matrixArbitration (blk octet : Nat)
  | matrixCommandComplete (core : Nat)
  | rampWindow (blk : Nat)
  -- steps of memory (R79, R94, R102, R445, R449, R450, R453)
  | homeAccess (aid : Nat)
  | hbmFillComplete (blk pa aid : Nat)
  | remoteScratchpadAccess (aid : Nat)
  | translationWalk (blk asid vpage : Nat)
  | pendingLoadFault (aid : Nat) (cause : BitVec 16)
  | sideLogEntry (aid : Nat) (cause : BitVec 16)
  | replayPass (core : Nat) (mt : Bool)
  | engineFault (core op : Nat) (cause : BitVec 16) (va : Word)
  -- steps of reduction units and snapshot agents (R142, R179, R337, R339)
  | redUpdateApply (aid : Nat)
  | redoOpenApply (blk asid : Nat) (sid : BitVec 4)
  | redcCloseApply (blk asid : Nat) (sid : BitVec 4)
  | snapshotOpApply (blk asid g : Nat)
  -- steps of rings (R349, R352)
  | ringReservationRequest (tx : Nat) (th : HReg)
  | ringGrant (tx : Nat) (th : HReg) (grant : Option (Nat × Nat))
  | commitComplete (tx : Nat) (th : HReg)
  -- steps of the Weevil (R150 to R159, R466)
  | weevilBatchTake (blk asid wid : Nat)
  | prefetchComplete (blk asid wid p tile : Nat)
  | pointIssue (core : Nat)
  | ageBoundExpiry (blk asid wid p : Nat)
  | forcedFillComplete (core : Nat) (line : Nat)
  | forcedFillRetry (core : Nat) (line : Nat)
  | walkStall (core : Nat)
  | leaseExpiry (blk pa core : Nat)
  | endOfWork (asid wid : Nat)
  | epilogueStart (core : Nat)
  -- queues and packets of the Hive (R386 to R390)
  | notifyWrite (q : Nat) (value : Word)
  | launch (k : Pkt) (index : BitVec 12)
  | tlwait (k : Pkt) (va n : Word)
  | tlwaitSatisfied (k : Pkt) (va n : Word)
  | tlsignal (k : Pkt) (va n : Word)
  | seedpush (k : Pkt) (lo hi : Word)
  | seedpop (k : Pkt)
  | seedfork (k : Pkt) (n : Word)
  | copy (k : Pkt) (dst src : Word) (bytes : BitVec 32) (dir : BitVec 2)
  | copyPacketComplete (k : Pkt) (status : BitVec 16)
  | window (k : Pkt) (base size : Word) (blocks : BitVec 32) (pin clear : Bool)
  | windowChangeComplete (asid : Nat) (base : Word)
  | fencePacket (k : Pkt)
  | marker (k : Pkt) (value : Word)
  | queueQuantum
  -- placer (R392 to R395, R468), stop and restore (R48, R50)
  | placement
  | reservation (asid index : Nat)
  | placementStarved (asid index : Nat)
  | launchEnd (serial : Nat)
  | coreStop (core : Nat)
  | restore (asid : Nat) (rect : Word)
  -- shoot-down (R105 to R107)
  | shootdown (value : Word)
  | shootdownFlush (value : Word)
  | shootdownSliceAck (blk : Nat)
  | shootdownStatusRead
  -- supervisor commands (Table 19.4)
  | ctxload (arg0 : Word)
  | ctxupd (arg0 : Word)
  | ctxevict (arg0 : Word)
  | preempt (arg0 arg1 : Word)
  | qresync (arg0 arg1 : Word)
  | bssplit (arg0 arg1 : Word)
  | signrun (arg0 : Word)
  | attest (arg0 arg1 : Word)
  | svnadv (arg0 : Word)
  | seqreset (arg0 arg1 : Word)
  | contain (arg0 : Word)
  | uncontain (arg0 : Word)
  | unknownCommand (cmd : BitVec 8)
  | svcStatusRead
  -- debug, trace, waits, registers (R69, R426 to R434, R458, R3)
  | seqSnapshotLatch (blk seq : Nat)
  | hreq (core : Nat)
  | rreq (core : Nat)
  | sreq (core : Nat)
  | debugStatusRead (core : Nat)
  | breakpointMatch (core : Nat) (mt : Bool)
  | heldMessage (core : Nat) (m : Msg)
  | traceRecordDrain (blk : Nat)
  | tracePortWrite (blk : Nat) (t : BitVec 7) (slot : BitVec 6) (core : BitVec 20) (mt : Bool) (lo hi : Word)
  | waitcfgWrite (value : Word)
  | longWait (core : Nat) (mt : Bool)
  | registerWrite (addr : Nat) (value : Word)
  | hostRegAccess (port : BitVec 1) (write : Bool) (off : Nat) (value : Word)
  | hostMemAccess (port : BitVec 1) (write : Bool) (off : Nat) (bytes : List Byte)
  | peerOperationReceive (dev pasid asid : Nat) (va : Word) (red : Option (BitVec 4 × Ty)) (bytes : List Byte)
  -- power and clocks (R413 to R423, R481)
  | powerWindow (watts : BitVec 32)
  | oppChange
  | monitorTrip (blk : Nat) (factor cycles : Nat)
  | gateBlock (blk : Nat)
  | traceDrainTimeout (blk : Nat)
  | wakeBlock (blk : Nat) (req : Option Nat)
  | blockWakeComplete (blk : Nat)
  -- reliability, links, boot (R411, R469 to R483, R121, R423)
  | correctedError (n : Nat)
  | uncorrectableError (site : ErrSite)
  | checkerMismatch (core : Nat) (matrix again : Bool)
  | columnRetirement (core : Nat)
  | blockWithdrawal (blk : Nat)
  | hiveMemoryError (event : Nat)
  | flitCrcFail (port : Nat) (replays : Nat) (down : Bool)
  | hbmScrub (stack row : Nat)
  | boot
  | accessResponse (aid : Nat)
  | rimIslandGating (island : Nat)
  deriving DecidableEq, Repr

/-! ## Threads -/

/-- How the program counter of a thread is to be read at the next issue (R201, R203, R448). -/
inductive EntryKind where
  | word      -- pc addresses an instruction word of the current block
  | header    -- pc addresses a header to enter
  | handler   -- as header, for the block that TRAP_VEC names: a fault there stops the thread (R448)
  deriving DecidableEq, Repr

/-- What a thread waits for at its pc (R59, R70, R43, R269, R344, R38, R329). -/
inductive WaitState where
  | none
  | bar (sq : Option Nat) (bit : Bool)           -- in WAIT: the claiming entry's number, waiting bit set (R59, R62)
  | gbar (arrived : Bool) (from_ : Nat)          -- in GBAR: arrival signalled, and the launch domain (R70)
  | fuse (mask : BitVec 8)                       -- in FUSE (R43)
  | sleep (d : XReg) (deadline : Word)           -- in SLEEP (R269)
  | tlw (core tl : Nat) (n scope : Word)         -- in TLW (R344)
  | ending                                       -- in END (R38)
  | access (slot : Nat)                          -- in LDA, ATOM or CAS, its access sent (R329)
  deriving DecidableEq, Repr

/-- A trap that is due at the next instruction boundary: classes H then T, and T (R443). -/
structure PendTrap where
  cause : BitVec 16
  addr : Word
  deriving DecidableEq, Repr

/-- Where the value of a load goes (R330 to R335). -/
inductive LoadDst where
  | x (r : XReg) (signed : Bool)                 -- n bytes of a scalar, extended (R330)
  | v (r : VReg)                                 -- bytes of a vector register (R331, R332)
  | atomic (r : XReg) (signed : Bool) (acq : Option Word)
  | lda (r : XReg) (signed : Bool) (acq : Word)
  | bytes                                        -- a read of access kind 3 that its instruction takes (R312, R366, R377)
  deriving DecidableEq, Repr

/-- A load slot (R445): the destination, the parts not yet bound, and the bytes bound so far. (DESIGN CHOICE: log 7.) -/
structure Slot where
  id : Nat
  dst : LoadDst
  parts : List Nat
  buf : List Byte
  deriving DecidableEq, Repr

/-- One thread of a core (R39, R253, R254). -/
structure Thread where
  active : Bool
  pc : Word
  entry : EntryKind
  entered : Bool            -- a block has been entered since the task or routine started (R254)
  blk : Word
  x : Vector Word 32
  p : BitVec 8
  priv : Bool
  trapVec : Word
  trapPp : Bool
  trapCause : BitVec 16
  trapPc : Word
  trapBlk : Word
  trapAddr : Word
  slots : List Slot
  pendTraps : List PendTrap
  wait : WaitState
  waitFrom : Nat
  waitRaised : Bool
  bkptSkip : Option Word    -- the word at which the thread resumed: its breakpoint does not match again (R427)
  waitKept : Option (Nat × Bool)   -- a stop before TLW or FUSE: the ticks it had waited, and whether kind 7 was raised (R458)
  fuseKept : BitVec 8       -- a stop before FUSE: the mask it waited with, which the save slot records (R49)
  yielded : Bool
  lastIssue : Nat
  seq : Nat                 -- accesses issued so far: program order (R113)
  stallUntil : Nat          -- routine start: stores of the compute thread to await (R124)
  looped : Bool             -- stopped by a trap loop (R448)
  notBefore : Nat           -- block cycle before which it issues nothing: after a trap's entry and after TRET (R443)
  prompt : Option Nat       -- block cycle of the release of its wait: its next instruction issues in that cycle (R61, R70)
  parkEnds : Bool           -- the instruction that waits at pc is the last of its block (R201)
  relPass : Bool            -- the present wait of a release has started its replay pass (R450)
  relMark : Option (Word × Nat)   -- scope of a fabric release that waits, and the core's next operation when it began (R120)
  got : List Byte           -- bytes that a read of access kind 3 returned, until its instruction takes them
  deriving DecidableEq, Repr

/-! ## Ring handles (R347) -/

/-- States of a handle (Table 16.4). -/
inductive HState where
  | unconf | rx | txIdle | txWait | txHold | error
  deriving DecidableEq, Repr

/-- States of a slot (Table 16.5). -/
inductive RSlot where
  | free
  | granted (tx : Nat) (th : HReg)
  | filled
  | held
  deriving DecidableEq, Repr

/-- A ring handle (R347 to R355). -/
structure Handle where
  st : HState
  base : Nat
  z : Nat
  slots : List RSlot
  head : Nat
  grantPtr : Nat
  waiting : List (Nat × HReg)
  peer : Nat
  peerH : HReg
  slot : Nat
  cur : Nat
  deriving DecidableEq, Repr

/-- A commit on its way (R352): the sender's handle and member index, the launch, the receiver with its handle, the slot. -/
structure Commit where
  th : HReg
  m : Nat
  serial : Nat
  rx : Nat
  rxh : HReg
  slot : Nat
  deriving DecidableEq, Repr

/-! ## Core-local memories and queues -/

/-- An L1 line: tag, valid sectors, data (R93); the cache holds the most recently used first. -/
structure L1Line where
  asid : Nat
  line : Nat          -- line base address
  u : Bool            -- U of its page when its sectors came (R97, R253)
  valid : BitVec 4
  data : LineVal
  deriving DecidableEq, Repr

/-- A block held in the instruction buffer (R204). -/
structure IBlock where
  head : Nat
  words : List Word   -- header first
  u : Bool            -- U of its pages when it was fetched (R97, R253)
  poison : Bool
  deriving DecidableEq, Repr

/-- A timeline: issued count, value, and completed numbers above the value (R127). -/
structure Timeline where
  i : Nat
  v : Nat
  doneAbove : List Nat
  deriving DecidableEq, Repr

/-- The timelines of one launch on one core (R127). -/
structure TlSet where
  serial : Nat
  tl : Vector Timeline 8
  deriving DecidableEq, Repr

/-- A task record (Table 18.5). -/
structure TaskRec where
  kind : Nat                 -- 0 fixed, 1 attaching
  asid : Nat
  serial : Nat
  task : Word
  rect : Word
  arg0 : Word
  arg1 : Word
  arg2 : Word
  win : Nat                  -- window contribution in KiB
  l1 : Nat                   -- L1 size in KiB
  mqw : Nat
  dv : Bool
  ldom : Nat
  gv : Bool
  seq : Nat
  midx : Nat
  grect : Word               -- group rectangle as block-local fields of MEMBERSHIP
  wid : Nat
  seed : BitVec 128
  deriving DecidableEq, Repr

/-- What the task of a core is (R33, R37). -/
inductive TaskKind where
  | none
  | fixed
  | point (p : Nat)
  | epilogue
  deriving DecidableEq, Repr

/-- Attachment of a core to a walk (R37, R152). -/
structure WalkAtt where
  asid : Nat
  wid : Nat
  bound : Option Nat         -- point bound and not started
  epiDone : Bool
  epiBegun : Bool
  deriving DecidableEq, Repr

/-- The image of a loaded descriptor (Table 9.10). -/
abbrev DescVal := BitVec 512

/-- What a queued matrix command does (Table 15.4). -/
inductive MOp where
  | tld (d : TReg) (c : Word)
  | tst (d : TReg) (c : Word)
  | tzero (d : TReg)
  | ttrn (d a : TReg)
  | tcmp (d a b : TReg)
  | mma (z : Bool) (d : AReg) (a b : TReg)
  | mmas (z : Bool) (d : AReg) (a b c : TReg)
  | mmag (z : Bool) (d : AReg) (a b : TReg) (mask : BitVec 8)
  | azero (d : AReg)
  | ald (d : AReg) (c : Word)
  | ast (r : Rnd) (d : AReg) (c : Word)
  | acvt (ty : Ty) (r : Rnd) (d : TReg) (a : AReg)
  | aadd (int : Bool) (d a b : AReg)
  deriving DecidableEq, Repr

/-- A command of the matrix queue (R306): its operation, tl2 number, the TSHAPE and descriptor images of issue, its
hint, the stores it waits for, and its cursor. (DESIGN CHOICE: log 7, DESIGN CHOICE: log 32.) -/
structure MCmd where
  op : MOp
  word : Word              -- its instruction word (Table 2.6)
  num : Nat
  serial : Nat
  shapes : Vector Word 4
  desc : DescVal
  priv : Bool
  ch : BitVec 3
  after : Nat              -- compute-thread accesses numbered below this precede it (R309)
  cursor : Nat             -- where a command that a fault stopped goes on: 8 times the row, plus the part of the row it writes next
  started : Bool
  stopped : Bool
  raised : Bool            -- its engine-fault event was raised
  partners : List (Nat × Nat)   -- MMAG: the other cores whose tl2 it joined, with their numbers (R321)
  proxy : Bool             -- an entry that an MMAG of another core's queue holds here
  bshape : Word            -- MMAG: TSHAPE of the leader's tile
  bcore : Nat              -- MMAG: the leader
  failed : Bool            -- a second mismatch made it fail (R473)
  why : BitVec 16          -- the cause that stopped it, for what retries it (R453, R464)
  silent : Bool            -- MMAG whose leader's guard is false: it stands in the leader's queue and joins no tl2 there (R321)
  deriving DecidableEq, Repr

/-- An engine operation of the movement thread (R358, R363). -/
inductive EOp where
  | copy (dst src n : Nat)
  | gather (dst n : Nat) (desc : DescVal) (steps : List (Nat × Nat × Int)) (run : Nat) (origin : List Int)
  | tile (sdesc ddesc : DescVal) (sc dc : Word)
  | peer (dev dst src n : Nat)
  | coll (ty : Ty) (dev dst src n sid : Nat)
  | fill (cls : FillCls) (desc : DescVal) (count : Option Nat)
  | pin (base : Nat) (status : Option Nat)
  | unpin (base : Nat) (status : Option Nat)
  | winSet (base size : Nat) (blocks : Word) (pin : Bool) (status : Option Nat)
  | winClr (base : Nat) (status : Option Nat)
  | walkOpen (wid : Nat)
  | walkClose (wid : Nat)
  | snap (g : Nat)
  | redo (sid : Nat)
  | redc (sid : Nat)
  | release (scope : Word) (before : Nat)
  deriving DecidableEq, Repr

/-- An engine operation in progress. -/
structure EngOp where
  id : Nat
  tl : Nat
  num : Nat
  serial : Nat
  asid : Nat
  priv : Bool
  mt : Bool
  ch : BitVec 3
  op : EOp
  cursor : Nat
  phase : Nat
  tag : Option (Nat × Nat × Nat)     -- block, sequencer, tag of the count (R365)
  stopped : Bool
  raised : Bool
  after : Nat
  acks : Nat
  count : Nat
  buf : List Byte                    -- source bytes of a copy that are bound and not yet written (R363)
  why : BitVec 16                    -- the cause that stopped it, for what retries it (R453, R464)
  calls : Nat                        -- the compute thread's accesses numbered below it precede the routine that issued it (R124, R134)
  deriving DecidableEq, Repr

/-- Why a core is halted (Table 21.1). -/
structure Debug where
  ctl : Word
  save : Word
  bp : Vector Word 4
  wp : Vector Word 2
  halted : Bool
  why : BitVec 3
  pendHalt : Option (BitVec 3)
  step : Bool
  deriving DecidableEq, Repr

/-- A core (R39, R33 to R50, R76, R93, R204, R306, R361). -/
structure Core where
  ctx : Option Nat
  ct : Thread
  mt : Thread
  v : Vector VecVal 16
  k : Vector MaskVal 8
  t : Vector TileVal 4
  a : Vector AccVal 2
  tshape : Vector Word 4
  h : Vector Handle 8
  membership : Word
  launchRect : Word
  mqWeight : BitVec 4
  tdtBase : Word
  timerCmp : Word
  cntBase : Word
  seed : BitVec 128
  cycleFrom : Nat
  cycleHeld : Nat
  cycleNew : Bool              -- the task's first instruction, at which CYCLE reads 0, is to come (R274)
  wake : Bool
  mvq : List (Word × Word × Word × Nat)
  commits : List Commit        -- commits of the core's handles that are on their way (R352)
  mq : List MCmd
  inbox : List TaskRec
  tls : Option TlSet
  tlsPrev : Option TlSet
  task : TaskKind
  taskRec : Option TaskRec
  gang : BitVec 8
  rcvs : Map Word              -- gang mask to the reconvergence header that its last SPLIT recorded (R45)
  win : Nat
  l1kb : Nat
  l1 : List L1Line
  ibuf : List IBlock
  cnt : Map Nat
  walkAtt : Option WalkAtt
  stopped : Bool
  stopReq : Bool
  contained : Bool
  powered : Bool
  blocked : Bool               -- a second mismatch blocked its commit: it stands at that boundary until it is repaired (R474)
  dbg : Debug
  ops : List EngOp
  opId : Nat
  xPoison : BitVec 64          -- poisoned x registers: compute 0 to 31, movement 32 to 63 (R470)
  vPoison : BitVec 16
  kPoison : BitVec 8
  pPoison : BitVec 16          -- poisoned predicates: compute 0 to 7, movement 8 to 15
  tPoison : BitVec 4
  aPoison : BitVec 2
  deriving DecidableEq, Repr

/-! ## Accesses in flight -/

/-- What an access does at the home (R330 to R338, R351, R352, R356). -/
inductive AccOp where
  | load
  | store
  | atom (op : AtomOp) (signed : Bool)
  | cas (expect : List Byte)
  | red (sid : Nat) (ty : Ty)
  | wake
  | send (th rxh : HReg) (slot cur : Nat)
  | commit (th : HReg) (slot : Nat)
  deriving DecidableEq, Repr

/-- Where an access stands. -/
inductive AccStage where
  | queued                          -- not performed; may be sent when its order allows
  | walking                         -- its home waits for a walk (R102)
  | filling (blk pa : Nat)          -- its home, a block, waits for a fill of a line (R94)
  | performed (data : List Byte)    -- performed at the home; the response is on its way
  | logged (cause : BitVec 16)      -- an entry of the side log, with its last cause (R449)
  | held (cause : BitVec 16)        -- a pending-load record, or held at its boundary (R444, R445)
  deriving DecidableEq, Repr

/-- One access, or one part of it, between issue and response (R101, R113, R449). (DESIGN CHOICE: log 22.) -/
structure Access where
  id : Nat
  core : Nat
  mt : Bool
  asid : Nat
  priv : Bool
  op : AccOp
  va : Nat                          -- virtual address, or the key in memory of an aperture piece
  addr : Nat                        -- virtual address of the part
  n : Nat
  data : List Byte
  ch : BitVec 3
  slot : Nat
  off : Nat
  seq : Nat
  whole : Nat × Nat                 -- address and bytes of the instruction's whole access (R434)
  arrived : Nat                     -- place among the accesses that wait at a home for one line (R94)
  kind : BitVec 2                   -- ordering kind of its page at issue (R112)
  rel : Option Word                 -- release that precedes the write (R333, R334)
  opMark : Nat                      -- the core's next engine operation when it was issued (R120)
  eng : Bool                        -- read at its home as an engine's, beside L1 (R366, R377)
  snapG : Nat
  stage : AccStage
  trapped : Bool                    -- its one trap has been raised (R450)
  reported : Bool                   -- its first fault has been reported (R454)
  deriving DecidableEq, Repr

/-! ## Blocks -/

/-- Line classes (R89). -/
inductive LineCls where
  | evictFirst | normal | keep | pinned
  deriving DecidableEq, Repr

/-- A lease on a line: core, walk, point, end (R157). -/
structure Lease where
  asid : Nat
  wid : Nat
  p : Nat
  core : Nat
  until_ : Nat
  deriving DecidableEq, Repr

/-- A line of a slice, by physical base (R85, R88, R89). -/
structure SliceLine where
  va : Nat
  asid : Nat
  cls : LineCls
  valid : BitVec 4
  dirty : BitVec 4
  data : LineVal
  poison : BitVec 4
  used : Nat
  leases : List Lease
  deriving DecidableEq, Repr

/-- A translation (R101); the cache holds the most recently used first. -/
structure TEntry where
  asid : Nat
  vpage : Nat            -- first address of the page
  size : Nat             -- page size in bytes
  frame : Nat            -- first address of the frame
  r : Bool
  w : Bool
  x : Bool
  u : Bool
  ok : BitVec 2
  bgm : BitVec 64
  d : Bool
  pte : Nat              -- address of the entry that keeps A and D
  leafAddr : Nat         -- addr that entry is expected to hold
  deriving DecidableEq, Repr

/-- A request that waits: for a gated block to wake (R422), or at a slice for a walk (R102): an access in flight, an engine
operation, a packet of a queue, a matrix command, a fetch, a fill of a Weevil, a reduction unit at its close, a
sequencer, a walk's visit records, a step of the Hive or of a peer, the Hive's word of a launch record. -/
inductive Latch where
  | acc (aid : Nat)
  | eng (core op : Nat)
  | pkt (q : Nat)
  | mat (core : Nat)                       -- the matrix command that runs
  | fetch (core : Nat) (mt : Bool)
  | tile (blk asid wid p tile : Nat)       -- a prefetch of a Weevil
  | line (core line : Nat)                 -- a fill with a lease
  | unit (blk asid sid : Nat)              -- the close of a session
  | prog (blk seq : Nat)                   -- a sequencer's next entry
  | visit (asid wid : Nat)                 -- the visit records that a walk holds
  | step (e : Ev)                          -- a packet, or an operation of a peer
  | lr (asid index : Nat)                  -- word 0x38 of a launch record
  deriving DecidableEq, Repr

/-- A pending walk (R102): asid, 64 KiB page, the requests that wait for it. -/
structure WalkEnt where
  asid : Nat
  vpage : Nat
  waiters : List Latch
  deriving DecidableEq, Repr

/-- Sequencer states (Table 3.3). -/
inductive SeqState where
  | idle | run | full | halted | fault
  deriving DecidableEq, Repr

/-- An entry of a mask buffer (R58). -/
structure MaskEntry where
  mask : BitVec 32
  wait : BitVec 32
  abs : BitVec 32
  cnt : Nat
  sq : BitVec 32
  tagged : Bool
  tag : BitVec 4
  fired : Option Nat      -- block cycle F of the fire decision
  deriving DecidableEq, Repr

/-- A Cicada sequencer (R56, Table 3.6). -/
structure Sequencer where
  st : SeqState
  pc : Nat
  loops : List (Nat × Nat)     -- innermost first: count, body index
  credits : Vector Nat 16
  satur : BitVec 16            -- tags whose credit overflow was raised, until a MASKB uses the credit (R64, Table 27.1)
  base : Nat
  pcnt : Nat
  asid : Nat
  gsz : Nat
  nextSq : BitVec 32
  buf : List MaskEntry
  fetched : Option Word
  core0 : Nat                  -- core of the group's first member
  gcols : Nat                  -- columns of the group rectangle
  deriving DecidableEq, Repr

/-- An XA entry (Table 9.6) with its target and session; a unit holds the least recently updated first. -/
structure XaEnt where
  asid : Nat
  sid : Nat
  va : Nat
  val : BitVec 302
  nan : Bool
  pinf : Bool
  ninf : Bool
  cof : Bool
  nzs : Bool
  cnt : Nat
  core : Nat                   -- core whose update touched it last, for the block-group check
  deriving DecidableEq, Repr

/-- A target whose entry is spilled or whose result is settled (R181, R467). -/
structure XaSpill where
  asid : Nat
  sid : Nat
  va : Nat
  slot : Nat                   -- slot number of the spill area, or of the overflow area
  overflow : Bool
  lost : Bool
  deriving DecidableEq, Repr

/-- A result of a closed session that its unit holds, or has yet to write (R180). -/
structure XaRes where
  asid : Nat
  sid : Nat
  va : Nat
  bytes : List Byte
  held : Bool                  -- met not-present; retried at the triggers of R453
  raised : Bool
  why : BitVec 16              -- the cause it is held with (R464)
  deriving DecidableEq, Repr

/-- A shadow entry (R135): level, 192 bytes, lwb, and its slot of the context's shadow pool (R145). -/
structure ShadowEnt where
  lvl : Nat
  data : LineVal
  lwb : Nat
  slot : Nat
  deriving DecidableEq, Repr

/-- Per context and line: lw, E and the restore that is due (R135, R139, R140). -/
structure ShadowLine where
  asid : Nat
  va : Nat                     -- virtual line base
  vas : List (Nat × Nat)       -- every virtual line base it was written through, with lw of that write (R136, R139)
  pa : Nat                     -- physical line base: entries belong to the physical line (R136)
  lw : Nat
  e : List ShadowEnt           -- newest first
  restore : Option LineVal
  deriving DecidableEq, Repr

/-- A level of a snapshot stack (R132). -/
structure Level where
  og : Nat
  ranges : List (Nat × Nat)
  deriving DecidableEq, Repr

/-- The level stack an agent has applied for a context (R134). -/
structure SnapView where
  asid : Nat
  applied : Nat                -- G of the last operation applied
  levels : List Level          -- outermost first
  deriving DecidableEq, Repr

/-- A candidate of a Weevil window (R150, R155, R156). -/
structure Cand where
  asid : Nat
  wid : Nat
  p : Nat
  skip : Nat
  entered : Nat
  known : BitVec 4             -- tiles known resident
  forced : Bool
  deriving DecidableEq, Repr

/-- A trace record of a block's trace buffer (R430): two words. -/
structure TraceRec where
  lo : Word
  hi : Word
  deriving DecidableEq, Repr

/-- A message in a core's held-message area (R429); one with an uncorrectable error leaves its bytes poisoned where it is applied
(R469). -/
structure HeldMsg where
  core : Nat
  msg : Msg
  bad : Bool
  deriving DecidableEq, Repr

/-- A block (R10, Table 1.1, Table 1.2). (DEDUCED: log 71.) -/
structure Block where
  bsz : Nat
  gated : Bool
  wdn : Bool
  ret : List Nat               -- retired physical columns, ascending
  lines : Map SliceLine
  tcache : List TEntry
  wcache : List (Nat × Nat × Nat)   -- asid, level and index prefix, table base
  walkq : List WalkEnt
  walkWait : List Latch        -- requests whose miss waits for an entry of the walk queue, in arrival order (R102)
  serving : Option Latch       -- the waiter whose turn it is: its miss waits behind no other (R102)
  walkStat : Nat
  seqs : Map Sequencer
  seqLatch : Map (List Word)
  xa : List XaEnt
  spills : List XaSpill
  results : List XaRes
  opened : List (Nat × Nat)    -- sessions (asid, sid) whose open this unit has applied
  snapViews : List SnapView
  shadow : List ShadowLine
  cands : List Cand
  held : List HeldMsg
  trace : List TraceRec
  ce : Nat
  ue : Nat
  chk : Nat
  mxf : Nat
  mxfTick : Nat                -- the second that mxf counts (R473)
  lag : Nat                    -- cycles by which the block's count lags behind for its clock's stretches (R418)
  rampPrev : Nat
  rampCur : Nat
  rampAt : Nat                 -- number of the microsecond that rampCur counts
  rrTurn : Map Nat
  rrLeft : Map Nat             -- one more than the charges that the turn may still start, 0 where it is over (R308)
  latched : List Latch         -- in arrival order: the first 64 in the always-on domain, the rest held back at their senders (R422)
  idleSince : Option Nat       -- tick since which the conditions of gating hold (R420)
  drainTo : Option Nat         -- gating has begun: tick at which the drain of its trace buffer ends (R481)
  bsSaved : List Nat           -- gated: contexts whose partitions are in their save areas (R82)
  waking : Bool
  traceCtl : Word
  rbase : Word
  twr : Nat
  tlost : Nat
  trd : Nat
  deriving DecidableEq, Repr

/-! ## Contexts -/

/-- Reduction session states (Table 16.3). -/
inductive SessState where
  | closed | opening | opened | closing
  deriving DecidableEq, Repr

/-- A reduction session (R336). -/
structure Session where
  st : SessState
  ty : Ty
  base : Nat
  size : Nat
  mode : RMode
  core : Nat
  num : Nat
  mt : Bool
  raised : BitVec 8            -- kind 11 reasons raised (R467)
  opens : Nat                  -- reduction units that have applied the open
  closes : Nat                 -- reduction units that have applied the close and performed every result
  openCore : Nat               -- core that issued REDO
  priv : Bool                  -- state of the thread that issued REDC (R99)
  deriving DecidableEq, Repr

/-- A placement window (R86). -/
structure PWin where
  base : Nat
  size : Nat
  br0 : Nat
  bc0 : Nat
  br1 : Nat
  bc1 : Nat
  pin : Bool
  pinned : Bool
  deriving DecidableEq, Repr

/-- State of a point that has left the cursor (R152). -/
inductive PtState where
  | cand
  | bound (core : Nat)
  | running (core : Nat)
  | done
  | abandoned
  deriving DecidableEq, Repr

/-- A visit record that is held (R161): its address and words, the cause it met, and whether its event was raised. -/
structure HeldVisit where
  addr : Nat
  lo : Word
  hi : Word
  why : BitVec 16
  raised : Bool
  deriving DecidableEq, Repr

/-- A walk (R147, R152, R161). (DEDUCED: log 45.) -/
structure Walk where
  record : List Word           -- the 16 words of the record
  rect : Word
  core : Nat                   -- core that issued WVOPEN
  num : Nat                    -- its number on tl5
  serial : Nat                 -- serial of the walk launch
  cursor : Nat
  pts : Map PtState
  traceN : Nat
  traceLost : Nat
  traceHeld : List HeldVisit
  traceBad : List Nat          -- records of a replayed trace whose read met a fault that was reported (R162, R454)
  traceStop : Option Nat       -- the one at which a page that is not present holds the trace (R453)
  epilogue : Bool              -- end-of-work was signalled (R159)
  epiDone : Nat
  doneOp : Bool                -- WVOPEN's operation completed
  closing : List Nat           -- cores whose WVCLOSE waits for the end of the walk (R375)
  attached : Nat               -- attached cores whose epilogue has not ended
  boundAt : Map Nat            -- tick at which a point was bound
  awaiting : Map (List Nat)     -- lines of a bound point that are not yet leased (R156)
  given : List Nat             -- bound points that start without the leases they lack (R466)
  attach : Option TaskRec      -- the attaching record, until the inboxes hold it (R150, R151)
  kept : Map (Nat × Nat × Nat) -- of a bound point: block, skip count and entry tick of its candidate (R157)
  descs : List DescVal         -- descriptors of the declared tiles as WVOPEN read them (R310)
  priv : Bool                  -- state of the thread that issued WVOPEN (R99)
  deriving DecidableEq, Repr

/-- The Hive word of a launch record (Table 17.5) and the armed copy. -/
structure LrState where
  st : Nat                     -- 0 idle, 1 armed, 2 running
  done : Nat
  copy : List Word
  deriving DecidableEq, Repr

/-- The fields of the context table (Table 19.2). -/
structure CtxTab where
  pa : Nat                     -- where CTXUPD reads it again (R403)
  asid : Nat
  ptroot : Nat
  tdt : Word
  tvec : Word
  tcmp : Word
  cntb : Word
  pool : Nat
  eng : Nat
  save : Nat
  bsbase : Nat
  bssize : Nat
  shlim : Nat
  pinlim : Nat
  shpool : Nat
  shres : Nat
  wait : Nat
  grants : List Word
  peers : List (Nat × Nat)     -- device, peer asid
  evlog : Nat
  evbase : Nat
  msia : Word
  msid : BitVec 32
  bssave : Nat
  deriving DecidableEq, Repr

/-- A core of a pre-empted rectangle, as its save slot holds it (R48, Table 2.6); the bytes of local memory and of the
registers stand in the save slot itself. (DESIGN CHOICE: log 34, DESIGN CHOICE: log 40.) -/
structure Saved where
  pos : Nat                    -- position it left, plus a multiple of 2^20 that names its accesses in flight
  slot : Nat                   -- address of its save slot
  core : Core
  deriving DecidableEq, Repr

/-- A pre-empted rectangle (R48, R50, R68). -/
structure SavedRect where
  rect : Word
  cores : List Saved
  seqs : List (Nat × Nat × Sequencer)   -- block, number and image of a wholly pre-empted group's sequencer
  armed : Nat
  order : Nat                  -- its launch's place in the order of arming (R394)
  resv : Option Word
  starved : Bool
  deriving DecidableEq, Repr

/-- A context (R30, R132, R184, R310, R336, R403). -/
structure Context where
  tab : CtxTab
  resident : Bool
  slot : Nat
  pinUsed : Nat
  shUsed : Nat
  shRaised : Bool
  windows : List PWin
  ldt : Map DescVal
  sessions : Vector Session 16
  walks : Map Walk
  snapG : Nat
  levels : List Level
  snapOps : List (Nat × Nat × Nat × Nat)    -- G, kind (0 open, 1 accept, 2 reject), acknowledgements, core
  snapLevels : Map (List Level)              -- G of an operation to the level stack after it
  refunds : Map Nat                          -- G of an operation to the entries it discarded
  seeds : List (BitVec 128)
  records : Map LrState
  es : Nat
  saved : List SavedRect
  overflow : List Nat                        -- overflow slots in use (R467)
  deriving DecidableEq, Repr

/-! ## The device -/

/-- A launch that is waiting to be placed (R392, R394). -/
structure Waiting where
  asid : Nat
  index : Nat
  armed : Nat
  order : Nat                               -- place in the order of arming (R394)
  q : Option (Nat × BitVec 32 × Bool)       -- queue, sequence number and completion request of its packet
  resv : Option Word
  starved : Bool
  deriving DecidableEq, Repr

/-- A launch that was placed and has not ended (R395). -/
structure Placed where
  serial : Nat
  armed : Nat                                -- tick of its arming (R394)
  order : Nat                                -- place in the order of arming (R394)
  starved : Bool                             -- its starvation event was raised (R468)
  asid : Nat
  index : Option Nat                         -- none for a walk launch
  wid : Nat
  rect : Word
  q : Option (Nat × BitVec 32 × Bool)
  ended : List Nat                           -- cores that retired END
  seqs : List (Nat × Nat × Nat)              -- block, sequencer and first core of each group
  ldom : Option Nat
  seed : BitVec 128
  contained : Bool
  barFault : Bool                            -- GBAR takes the barrier-membership fault (R477)
  seqFault : List (Nat × Nat)                -- sequencers whose WAIT takes it (R459)
  parent : Option Nat                        -- of a walk launch: the launch whose core opened the walk, which ends after it (R151)
  deriving DecidableEq, Repr

/-- A launch domain of the combining tree (R70, R72). -/
structure LDom where
  serial : Nat
  n : Nat
  arrived : List Nat
  first : Nat
  last : Nat
  lastCore : Nat
  sum : Nat
  release : Option Nat
  deriving DecidableEq, Repr

/-- A piece of a COPY packet under way at one of the two ports (R401): its offset and bytes, how far it is, the cause that stopped it
(R388). -/
structure CopyPiece where
  port : Nat
  at_ : Nat
  len : Nat
  cursor : Nat
  buf : List Byte
  why : Option (BitVec 16)
  raised : Bool
  deriving DecidableEq, Repr

/-- A packet that has started and not completed (R390). -/
inductive PkState where
  | launch
  | copy (asid dst src bytes dir : Nat) (pieces : List CopyPiece)
  | window (base size : Nat) (blocks : Word) (pin clear : Bool)
  | tlwait (va : Nat) (n : Word)
  | fence
  deriving DecidableEq, Repr

/-- An open packet: its sequence number, completion request and what it does. -/
structure OpenPk where
  seq : BitVec 32
  cmp : Bool
  st : PkState
  deriving DecidableEq, Repr

/-- A queue as the Hive holds it beside its descriptor (R385, R390). -/
structure QState where
  open_ : List OpenPk
  locked : Bool
  deriving DecidableEq, Repr

/-- A link port (R482). -/
structure Port where
  down : Bool
  lanes : Nat
  deriving DecidableEq, Repr

/-- What left the device (R404, R399, R368). (DESIGN CHOICE: log 78.) -/
inductive OutMsg where
  | hostWrite (port : Option Nat) (addr : Word) (bytes : List Byte)
  | copyRead (port : Nat) (addr : Word) (n : Nat)          -- a read of host memory that a COPY packet sends (R401)
  | hostRead (port : BitVec 1) (ok : Bool) (value : List Byte)
  | hostError (port : BitVec 1)
  | peerWrite (seq dev pasid : Nat) (va : Nat) (bytes : List Byte)      -- with its sequence number (R482)
  | peerRed (seq dev pasid : Nat) (va : Nat) (sid : Nat) (ty : Ty) (bytes : List Byte)
  | peerAnswer (dev : Nat) (ok : Bool) (code : Nat)
  deriving DecidableEq, Repr

/-- The memories of a Hive core (R27): the two copies of its instruction memory, its data memory, and where it started (R411). -/
structure HiveMem where
  imem0 : List Host.Cell
  imem1 : List Host.Cell
  dmem : List Host.Cell
  entry : Nat
  deriving DecidableEq, Repr

/-- The Hive, the rim registers and the device-wide units. (DEDUCED: log 43.) -/
structure Device where
  time : Nat
  cyc : Nat                                  -- fifths of a block cycle (R415, R417)
  tphase : Nat                               -- how far the present tick is, in parts of which a tick has 100 (5 + freq)
  cphase : Nat                               -- how far the present fifth of a cycle is, in those parts, of which it has 100 + slow
  home : List Nat                            -- HOME_TABLE; empty means the identity (R84)
  sdVa : Word
  sdPa : Word
  sdGo : Word
  sdAcks : Nat
  sdBad : Bool
  sdOvr : Bool
  sdDone : Bool
  sdBusy : Bool
  sdReq : Word × Word × Word
  svcCmd : BitVec 8
  svcArg : Vector Word 3
  svcOvr : Bool
  svcDone : Bool
  svcBusy : Bool
  svcStatus : BitVec 16
  svcStop : Option (Nat × Bool)              -- context whose stops PREEMPT, or CTXEVICT (true), awaits
  qtbase : Word
  sevring : Word
  sevSeq : Nat
  queues : Map QState
  mapped : List Nat
  qcursor : Nat
  notify : Map Word
  waiting : List Waiting
  placed : List Placed
  serial : Nat
  ldoms : Map LDom
  runN : Nat
  runH : List Byte
  scope : Map Word
  fabid : Word
  bootstat : Word
  svn : Nat
  imageSvn : Nat
  hiveUp : Bool
  access : Map (List Byte)                   -- access tables changed since reset (Table 19.5)
  rampcfg : Word
  waitcfg : Word
  pwrcfg : Word
  nopp : BitVec 2
  copp : BitVec 2
  freq : BitVec 2                            -- operating point of the clocks: it changes at T, copp once the change is complete (R416)
  pend : Bool
  ctick : Nat
  pwrWin : Nat
  watts : BitVec 32
  streak : Nat
  slow : Nat                                 -- fixed mode: percent by which every cycle is stretched (R419)
  gen : Nat
  nblocks : Nat
  ras256 : Word
  ports : Map Port
  spared : Map (List Nat)
  bankSpared : Map (List Nat)
  contained : List Word
  islands : List Nat
  hiveMem : Map HiveMem                      -- memories of the twelve Hive cores, by number (R27)
  hiveOut : List Nat                         -- Hive cores out of service (R478)
  supply : Nat                               -- operating point whose voltage the core supply carries (R416)
  armN : Nat                                 -- launches armed so far (R394)
  peerSeq : Nat                              -- pieces and contributions sent to peers so far (R482)
  sealed : List Nat                          -- engine-state areas that contexts have left, whose saved seed stacks no master reads (R405)
  lrWrites : List (Nat × Nat)                -- launch records whose word 0x38 is still to be written: asid, index (R391)
  peerWaits : List Ev                        -- peer operations held at this device by shadow exhaustion (R464)
  retiring : List (Nat × Option Nat × List (Nat × Word))   -- blocks under repair for a column's core, or withdrawal: the rectangles
  deriving DecidableEq, Repr

/-! ## The whole state -/

/-- The state of the machine. (DESIGN CHOICE: log 74, DESIGN CHOICE: log 78.) -/
structure State where
  me : Nat                                   -- number of the focused core
  onMt : Bool                                -- which of its threads issues
  core : Core                                -- the focused core
  cores : Map Core                           -- the other cores that differ from their power-on value
  ctxs : Map Context
  blocks : Map Block
  mem : List Host.Cell                       -- HBM, local memories, block stores (R76, R80, R96)
  poisoned : List Nat                        -- starts of the sectors and granules of memory that hold poison (R470)
  dev : Device
  net : List Access
  netId : Nat
  pending : List Ev                          -- device steps that were triggered and have not happened
  out : List OutMsg
  free : Nat                                 -- draws of free values so far: the model's own field
  deriving DecidableEq, Repr

/-- Why the machine stops with a fault. (DESIGN CHOICE: log 75.) -/
inductive Fault where
  /-- Raised by `step` on a device step that names an agent the device does not have, a core at or beyond 1,048,576 or a
  block beyond 255 (R5, R10); no step of the model triggers one. Safe: the hardware has no such step. -/
  | noSuchAgent
  deriving DecidableEq, Repr

/-- Why the machine has no meaning for a step. -/
inductive Refusal where
  /-- Raised by an arm of `exec` whose instruction the model does not give a meaning yet. Safe. -/
  | notModelled (mnemonic : String)
  deriving DecidableEq, Repr

/-! ## Power-on values -/

/-- A thread at power-on: idle, every register zero (R34, R253, R255; notes/assumptions/2.md). (DESIGN CHOICE: log 2.) -/
def Thread.reset : Thread :=
  { active := false, pc := 0, entry := .word, entered := false, blk := 0, x := Vector.replicate 32 0, p := 0
    priv := false, trapVec := 0, trapPp := false, trapCause := 0, trapPc := 0, trapBlk := 0, trapAddr := 0, slots := []
    pendTraps := [], wait := .none, waitFrom := 0, waitRaised := false, bkptSkip := none, waitKept := none, fuseKept := 0, yielded := false, lastIssue := 0
    seq := 0
    stallUntil := 0, looped := false, notBefore := 0, prompt := none, parkEnds := false, relPass := false, relMark := none, got := [] }

/-- A handle at task start (R347). (DESIGN CHOICE: log 2.) -/
def Handle.reset : Handle :=
  { st := .unconf, base := 0, z := 0, slots := [], head := 0, grantPtr := 0, waiting := [], peer := 0, peerH := 0
    slot := 0, cur := 0 }

/-- A debug module at power-on (Table 21.1). (DESIGN CHOICE: log 2.) -/
def Debug.reset : Debug :=
  { ctl := 0, save := 0, bp := Vector.replicate 4 0, wp := Vector.replicate 2 0
    halted := false, why := 0, pendHalt := none, step := false }

/-- A core at power-on (notes/assumptions/2.md): TIMER_CMP all ones (Table 13.6), MQ_WEIGHT 1 (Table 15.7). (DESIGN CHOICE: log 2.) -/
def Core.reset : Core :=
  { ctx := none, ct := Thread.reset, mt := Thread.reset, v := Vector.replicate 16 0, k := Vector.replicate 8 0
    t := Vector.replicate 4 0, a := Vector.replicate 2 0, tshape := Vector.replicate 4 0
    h := Vector.replicate 8 Handle.reset, membership := 0, launchRect := 0, mqWeight := 1, tdtBase := 0
    timerCmp := 0xFFFF_FFFF_FFFF_FFFF, cntBase := 0, seed := 0, cycleFrom := 0, cycleHeld := 0, cycleNew := false, wake := false, mvq := [], commits := []
    mq := [], inbox := [], tls := none, tlsPrev := none, task := .none, taskRec := none, gang := 0, rcvs := []
    win := 0, l1kb := 0, l1 := [], ibuf := [], cnt := [], walkAtt := none, stopped := false, stopReq := false
    contained := false, powered := true, blocked := false, dbg := Debug.reset, ops := [], opId := 0, xPoison := 0
    vPoison := 0, kPoison := 0, pPoison := 0, tPoison := 0, aPoison := 0 }

/-- A block at power-on (Table 1.2, Table 21.2, Table 28.2). (DESIGN CHOICE: log 2.) -/
def Block.reset : Block :=
  { bsz := 2, gated := false, wdn := false, ret := [], lines := [], tcache := [], wcache := [], walkq := [], walkWait := [], serving := none
    walkStat := 0, seqs := [], seqLatch := [], xa := [], spills := [], results := [], opened := [], snapViews := [], shadow := []
    cands := [], held := [], trace := [], ce := 0, ue := 0, chk := 0
    mxf := 0, mxfTick := 0, lag := 0, rampPrev := 0, rampCur := 0, rampAt := 0, rrTurn := [], rrLeft := []
    latched := [], idleSince := none, drainTo := none, bsSaved := [], waking := false, traceCtl := 0, rbase := 8 <<< 48, twr := 0
    tlost := 0, trd := 0 }

/-- A sequencer at reset (Table 3.3, Table 3.6). (DESIGN CHOICE: log 2.) -/
def Sequencer.reset : Sequencer :=
  { st := .idle, pc := 0, loops := [], credits := Vector.replicate 16 0, satur := 0, base := 0, pcnt := 0, asid := 0, gsz := 0
    nextSq := 0, buf := [], fetched := none, core0 := 0, gcols := 1 }

/-- A session of a new context (Table 16.3). (DESIGN CHOICE: log 2.) -/
def Session.reset : Session :=
  { st := .closed, ty := .f32, base := 0, size := 0, mode := .rn, core := 0, num := 0, mt := false, raised := 0
    opens := 256, closes := 256, openCore := 0, priv := false }

/-- The device-wide units at power-on (Tables 5.6, 18.6, 19.3, 20.2, 27.2, 28.2; notes/assumptions/2.md). (DESIGN CHOICE: log 2.) -/
def Device.reset : Device :=
  { time := 0, cyc := 0, tphase := 0, cphase := 0, home := [], sdVa := 0, sdPa := 0, sdGo := 0, sdAcks := 0, sdBad := false, sdOvr := false
    sdDone := false, sdBusy := false, sdReq := (0, 0, 0), svcCmd := 0, svcArg := Vector.replicate 3 0, svcOvr := false
    svcDone := false, svcBusy := false, svcStatus := 0, svcStop := none, qtbase := 0, sevring := 0, sevSeq := 0, queues := []
    mapped := [], qcursor := 0, notify := [], waiting := [], placed := [], serial := 0, ldoms := [], runN := 0
    runH := List.replicate 48 0, scope := [], fabid := 0, bootstat := 0, svn := 0, imageSvn := 0, hiveUp := false
    access := [], rampcfg := 0x0001_0020, waitcfg := 10000, pwrcfg := 0x0000_03E8_0008_00F0, nopp := 2, copp := 2, freq := 2
    pend := false, ctick := 0, pwrWin := 0, watts := 0, streak := 0, slow := 0, gen := 0, nblocks := 256, ras256 := 0, ports := []
    spared := [], bankSpared := [], contained := [], islands := [], hiveMem := [], hiveOut := [], supply := 2, armN := 0, peerSeq := 0, sealed := []
    lrWrites := [], peerWaits := [], retiring := [] }

/-- The machine right after power-on reset: no task runs, memory lists nothing, and the boot ROM is about to boot
(R411). The first step of a run is BOOT. (DESIGN CHOICE: log 2.) -/
def State.reset : State :=
  { me := 0, onMt := false, core := Core.reset, cores := [], ctxs := [], blocks := [], mem := [], poisoned := []
    dev := Device.reset, net := [], netId := 0, pending := [.boot], out := [], free := 0 }

end Sys2Proof.Machine
end

