-- ==== Sys2Proof/Machine/Ops.lean ====
section
/-!
DEFINITION. The named operations over memory, cores, threads and registers, the outcome of an instruction's effect,
taking a trap (R254) and returning from one (R271). Every read and write of a register or of memory goes through them.
-/

namespace Sys2Proof.Machine

/-! ## Memory -/

/-- What an address that memory does not list reads as (notes/assumptions/1.md). (DESIGN CHOICE: log 1.) -/
def unlisted (_ : Nat) : Byte := 0

/-- One byte of memory. -/
def readByte (m : List Host.Cell) (a : Nat) : Byte := (mapGet m a).getD (unlisted a)

/-- Memory with one byte written, in canonical form. (DESIGN CHOICE: log 1.) -/
def writeByte (m : List Host.Cell) (a : Nat) (b : Byte) : List Host.Cell :=
  if b = unlisted a then mapErase m a else mapSet m a b

/-- n bytes from an address upward. -/
def readBytes (m : List Host.Cell) (a : Nat) : Nat → List Byte
  | 0 => []
  | n + 1 => readByte m a :: readBytes m (a + 1) n

/-- Memory with bytes written from an address upward. -/
def writeBytes (m : List Host.Cell) (a : Nat) : List Byte → List Host.Cell
  | [] => m
  | b :: bs => writeBytes (writeByte m a b) (a + 1) bs

/-- Bytes written where a flag says so. -/
def writeMasked (m : List Host.Cell) (a : Nat) : List (Option Byte) → List Host.Cell
  | [] => m
  | none :: bs => writeMasked m (a + 1) bs
  | some b :: bs => writeMasked (writeByte m a b) (a + 1) bs

/-- Memory with n bytes from an address upward as nothing had written them. -/
def eraseRange (m : List Host.Cell) (a n : Nat) : List Host.Cell := m.filter (fun c => decide (c.1 < a) || decide (a + n ≤ c.1))

/-- Cells written one after the other at a distance. -/
def placeCells (m : List Host.Cell) (src dst : Nat) : List Host.Cell → List Host.Cell
  | [] => m
  | c :: cs => placeCells (writeByte m (c.1 - src + dst) c.2) src dst cs

/-- Memory with n bytes copied from one place to another that does not overlap it. -/
def copyRange (m : List Host.Cell) (src dst n : Nat) : List Host.Cell :=
  placeCells (eraseRange m dst n) src dst (m.filter (fun c => decide (src ≤ c.1) && decide (c.1 < src + n)))

/-- The canonical form: addresses rise strictly and no entry is what an unlisted address reads as. (DESIGN CHOICE: log 1.) -/
def memWf (m : List Host.Cell) : Bool := mapSorted m && m.all (fun c => c.2 != unlisted c.1)

/-- Where the local memory of a core stands in `State.mem` (R76). (DESIGN CHOICE: log 1.) -/
def localKey (core off : Nat) : Nat := 2 ^ 60 + core * 2 ^ 17 + off

/-- Where the block store of a block stands in `State.mem` (R80). (DESIGN CHOICE: log 1.) -/
def bsKey (blk off : Nat) : Nat := 2 ^ 61 + blk * 2 ^ 25 + off

/-- A little-endian value of n bytes of memory (R2). -/
def readLe (m : List Host.Cell) (a n : Nat) : Nat := leNat (readBytes m a n)

/-- A 64-bit word of memory. -/
def readW (m : List Host.Cell) (a : Nat) : Word := BitVec.ofNat 64 (readLe m a 8)

/-- Memory with a 64-bit word written. -/
def writeW (m : List Host.Cell) (a : Nat) (w : Word) : List Host.Cell := writeBytes m a (leBytes 8 w.toNat)

/-! ## Positions (R5 to R8, R12) -/

/-- Row of a core. -/
def rowOf (core : Nat) : Nat := core / 1024 % 1024
/-- Column of a core. -/
def colOf (core : Nat) : Nat := core % 1024
/-- Core number of a position. -/
def coreAt (row col : Nat) : Nat := row * 1024 + col
/-- Block of a core (R5). -/
def blockOf (core : Nat) : Nat := rowOf core / 64 * 16 + colOf core / 64
/-- Octet member index (R12). -/
def omiOf (core : Nat) : Nat := rowOf core % 2 * 4 + colOf core % 4
/-- The core of an octet's member, the octet named by any of its cores (R12). -/
def octetCore (core m : Nat) : Nat := coreAt (rowOf core / 2 * 2 + m / 4) (colOf core / 4 * 4 + m % 4)
/-- Octet number within its block (R12). -/
def octetOf (core : Nat) : Nat := rowOf core % 64 / 2 * 16 + colOf core % 64 / 4

/-- A rectangle's fields (R6): row0, col0, row1, col1. -/
structure RectF where
  row0 : Nat
  col0 : Nat
  row1 : Nat
  col1 : Nat
  deriving DecidableEq, Repr

/-- The fields of a rectangle operand (R6). -/
def rectOf (x : Word) : RectF :=
  { row0 := (x.extractLsb' 0 16).toNat, col0 := (x.extractLsb' 16 16).toNat
    row1 := (x.extractLsb' 32 16).toNat, col1 := (x.extractLsb' 48 16).toNat }

/-- The operand of a rectangle (R6). -/
def rectWord (r : RectF) : Word :=
  BitVec.ofNat 16 r.col1 ++ BitVec.ofNat 16 r.row1 ++ BitVec.ofNat 16 r.col0 ++ BitVec.ofNat 16 r.row0

/-- R7 for an operand that is no scope. -/
def malformedRect (x : Word) : Bool :=
  let r := rectOf x
  decide (r.row0 > r.row1) || decide (r.col0 > r.col1) || decide (r.row0 > 1023) || decide (r.col0 > 1023) ||
  decide (r.row1 > 1023) || decide (r.col1 > 1023)

/-- Is the operand a fabric level (R7, R120)? -/
def isFabric (x : Word) : Bool := x.getLsbD 15

/-- R7 for a scope operand. -/
def malformedScope (x : Word) : Bool :=
  if isFabric x then x.extractLsb' 4 11 != 0 else malformedRect x

/-- The whole device (R119). -/
def deviceScope : Word := 0x03FF_03FF_0000_0000

/-- Does a position lie in a rectangle? -/
def inRect (row col : Nat) (r : RectF) : Bool :=
  decide (r.row0 ≤ row) && decide (row ≤ r.row1) && decide (r.col0 ≤ col) && decide (col ≤ r.col1)

/-- Does a core lie in a rectangle operand? -/
def coreIn (core : Nat) (x : Word) : Bool := inRect (rowOf core) (colOf core) (rectOf x)

/-- Does a rectangle meet a block? -/
def rectMeetsBlock (r : RectF) (blk : Nat) : Bool :=
  decide (r.row0 / 64 ≤ blk / 16) && decide (blk / 16 ≤ r.row1 / 64) && decide (r.col0 / 64 ≤ blk % 16) &&
  decide (blk % 16 ≤ r.col1 / 64)

/-- Does one rectangle lie within another? -/
def rectWithin (a b : RectF) : Bool :=
  decide (b.row0 ≤ a.row0) && decide (a.row1 ≤ b.row1) && decide (b.col0 ≤ a.col0) && decide (a.col1 ≤ b.col1)

/-- Do two rectangles share a core? -/
def rectsMeet (a b : RectF) : Bool :=
  decide (a.row0 ≤ b.row1) && decide (b.row0 ≤ a.row1) && decide (a.col0 ≤ b.col1) && decide (b.col0 ≤ a.col1)

/-- Is a rectangle aligned to octets (R31)? -/
def octetAligned (r : RectF) : Bool :=
  r.row0 % 2 == 0 && r.row1 % 2 == 1 && r.col0 % 4 == 0 && r.col1 % 4 == 3

/-- Width of a rectangle in columns. -/
def rectCols (r : RectF) : Nat := r.col1 + 1 - r.col0
/-- Height of a rectangle in rows. -/
def rectRows (r : RectF) : Nat := r.row1 + 1 - r.row0
/-- Number of cores of a rectangle. -/
def rectCount (r : RectF) : Nat := rectRows r * rectCols r
/-- Member index of a core in a rectangle (R8). -/
def memberIdx (core : Nat) (r : RectF) : Nat := (rowOf core - r.row0) * rectCols r + (colOf core - r.col0)
/-- The core with a member index (R8). -/
def memberCore (i : Nat) (r : RectF) : Nat := coreAt (r.row0 + i / rectCols r) (r.col0 + i % rectCols r)
/-- The cores of a rectangle in member order. -/
def rectCores (r : RectF) : List Nat := (List.range (rectCount r)).map (fun i => memberCore i r)

/-- Is a location homed in a block within a scope (R119)? -/
def scopeHasBlock (scope : Word) (blk : Nat) : Bool := isFabric scope || rectMeetsBlock (rectOf scope) blk
/-- Is a core within a scope (R119)? -/
def scopeHasCore (scope : Word) (core : Nat) : Bool := isFabric scope || coreIn core scope

/-! ## Focus, cores, blocks, contexts -/

/-- The state of any core. -/
def coreOf (s : State) (c : Nat) : Core := if c = s.me then s.core else (mapGet s.cores c).getD Core.reset

/-- The state with one core changed. -/
def setCore (s : State) (c : Nat) (k : Core) : State :=
  if c = s.me then { s with core := k } else { s with cores := mapSet s.cores c k }

/-- The state focused on a core. -/
def focus (s : State) (c : Nat) : State :=
  if c = s.me then s
  else { s with me := c, core := coreOf s c, cores := mapErase (mapSet s.cores s.me s.core) c }

/-- The state focused on a core and one of its threads. -/
def focusOn (s : State) (c : Nat) (mt : Bool) : State := { focus s c with onMt := mt }

/-- The state of a block. -/
def blockAt (s : State) (b : Nat) : Block := (mapGet s.blocks b).getD Block.reset
/-- The state with a block changed. -/
def setBlock (s : State) (b : Nat) (k : Block) : State := { s with blocks := mapSet s.blocks b k }
/-- The context with an identifier. -/
def ctxOf (s : State) (asid : Nat) : Option Context := mapGet s.ctxs asid
/-- The state with a context changed. -/
def setCtx (s : State) (asid : Nat) (c : Context) : State := { s with ctxs := mapSet s.ctxs asid c }
/-- The context of the focused core. -/
def myCtx (s : State) : Option Context :=
  match s.core.ctx with
  | some a => ctxOf s a
  | none => none
/-- The identifier of the focused core's context; 0 where it has none. -/
def myAsid (s : State) : Nat := s.core.ctx.getD 0
/-- Add a device step that has been triggered. -/
def post (s : State) (e : Ev) : State := { s with pending := s.pending ++ [e] }
/-- Change the device-wide units. -/
def setDev (s : State) (d : Device) : State := { s with dev := d }

/-! ## Free values and time -/

/-- A free word and the state after drawing it (notes/assumptions/3.md). (DESIGN CHOICE: log 3.) -/
def drawWord (s : State) : Word × State := (Config.freeWord s.free, { s with free := s.free + 1 })

/-- Fifths of a block cycle in one tick at the operating point of the clocks (Table 20.1). -/
def fifthsPerTick (d : Device) : Nat := 5 + d.freq.toNat

/-- Parts of a tick, and parts of a fifth of a cycle: a common stretch of fixed mode makes the cycles longer (R419). -/
def tickParts (d : Device) : Nat := 100 * fifthsPerTick d
def fifthParts (d : Device) : Nat := 100 + d.slow

/-- The clocks moved on by parts. -/
def Device.pass (d : Device) (parts : Nat) : Device :=
  { d with
    time := d.time + (d.tphase + parts) / tickParts d, tphase := (d.tphase + parts) % tickParts d
    cyc := d.cyc + (d.cphase + parts) / fifthParts d, cphase := (d.cphase + parts) % fifthParts d }

/-- The cycle of a block now (R417): stretches of its clock count no cycle (R418). (DESIGN CHOICE: log 6.) -/
def cycleNow (s : State) (blk : Nat) : Nat := s.dev.cyc / 5 - (blockAt s blk).lag

/-- Time moved forward by ticks. (DESIGN CHOICE: log 6.) -/
def advance (s : State) (ticks : Nat) : State := { s with dev := s.dev.pass (ticks * tickParts s.dev) }

/-- Time moved forward to the start of a tick, if it lies ahead. (DESIGN CHOICE: log 6.) -/
def advanceToTick (s : State) (t : Nat) : State :=
  if s.dev.time < t then
    let d := s.dev.pass ((t - s.dev.time) * tickParts s.dev - s.dev.tphase)
    { s with dev := { d with time := t, tphase := 0 } }
  else s

/-- Time moved forward until the cycle count of a block reaches a cycle. (DESIGN CHOICE: log 6.) -/
def advanceToCycle (s : State) (blk c : Nat) : State :=
  let goal := 5 * (c + (blockAt s blk).lag)
  if s.dev.cyc < goal then
    let d := s.dev.pass ((goal - s.dev.cyc) * fifthParts s.dev - s.dev.cphase)
    { s with dev := { d with cyc := goal, cphase := 0 } }
  else s

/-! ## Threads and scalar registers -/

/-- The issuing thread. -/
def thr (s : State) : Thread := if s.onMt then s.core.mt else s.core.ct

/-- The state with the issuing thread changed. -/
def setThr (s : State) (t : Thread) : State :=
  if s.onMt then { s with core := { s.core with mt := t } } else { s with core := { s.core with ct := t } }

/-- x register of a thread: x0 reads zero (R1). -/
def Thread.xget (t : Thread) (r : XReg) : Word := if r = 0 then 0 else t.x[r.toNat]'r.isLt

/-- Thread with an x register written: a write to x0 is discarded (R193). -/
def Thread.xset (t : Thread) (r : XReg) (v : Word) : Thread :=
  if r = 0 then t else { t with x := t.x.set r.toNat v r.isLt }

/-- Predicate of a thread: p0 reads true (R1). -/
def Thread.pget (t : Thread) (n : PReg) : Bool := n == 0 || t.p.getLsbD n.toNat

/-- One bit of a bit vector set to a value. -/
def setBit {w : Nat} (v : BitVec w) (n : Nat) (b : Bool) : BitVec w :=
  if b then v ||| (1#w <<< n) else v &&& ~~~(1#w <<< n)

/-- Thread with a predicate written: a write to p0 is discarded (R193). -/
def Thread.pset (t : Thread) (n : PReg) (b : Bool) : Thread :=
  if n = 0 then t else { t with p := setBit t.p n.toNat b }

/-- Reg of an x register of the issuing thread (Table 10.12). -/
def xget (s : State) (r : XReg) : Word := (thr s).xget r
/-- SetReg of an x register of the issuing thread. -/
def xset (s : State) (r : XReg) (v : Word) : State := setThr s ((thr s).xset r v)
/-- P(n) of the issuing thread. -/
def pget (s : State) (n : PReg) : Bool := (thr s).pget n
/-- SetP(n, b) of the issuing thread. -/
def pset (s : State) (n : PReg) (b : Bool) : State := setThr s ((thr s).pset n b)

/-- A vector register (compute thread only, R39). -/
def vget (s : State) (r : VReg) : VecVal := s.core.v[r.toNat]'r.isLt
/-- Write a vector register. -/
def vset (s : State) (r : VReg) (x : VecVal) : State :=
  { s with core := { s.core with v := s.core.v.set r.toNat x r.isLt } }
/-- A mask register. -/
def kget (s : State) (r : KReg) : MaskVal := s.core.k[r.toNat]'r.isLt
/-- Write a mask register. -/
def kset (s : State) (r : KReg) (x : MaskVal) : State :=
  { s with core := { s.core with k := s.core.k.set r.toNat x r.isLt } }
/-- A tile register. -/
def tget (c : Core) (r : TReg) : TileVal := c.t[r.toNat]'r.isLt
/-- Write a tile register. -/
def tset (c : Core) (r : TReg) (x : TileVal) : Core := { c with t := c.t.set r.toNat x r.isLt }
/-- An accumulator. -/
def aget (c : Core) (r : AReg) : AccVal := c.a[r.toNat]'r.isLt
/-- Write an accumulator. -/
def aset (c : Core) (r : AReg) (x : AccVal) : Core := { c with a := c.a.set r.toNat x r.isLt }
/-- A ring handle. -/
def hget (c : Core) (r : HReg) : Handle := c.h[r.toNat]'r.isLt
/-- Write a ring handle. -/
def hset (c : Core) (r : HReg) (x : Handle) : Core := { c with h := c.h.set r.toNat x r.isLt }
/-- A TSHAPE register (R304). -/
def shapeGet (c : Core) (r : TReg) : Word := c.tshape[r.toNat]'r.isLt
/-- A value as a TSHAPE register takes it: its reserved bits read 0 (R304). -/
def shapeStore (x : Word) : Word := x &&& 0x00FF_FF0F
/-- Write a TSHAPE register. -/
def shapeSet (c : Core) (r : TReg) (x : Word) : Core := { c with tshape := c.tshape.set r.toNat x r.isLt }

/-! ## Cause codes (Table 26.1) -/

def causeIllegalInstruction : BitVec 16 := 0x01
def causeIllegalThread : BitVec 16 := 0x02
def causePrivilege : BitVec 16 := 0x03
def causeReservedField : BitVec 16 := 0x04
def causeIllegalOperand : BitVec 16 := 0x05
def causeBlockStructure : BitVec 16 := 0x06
def causeBranchTarget : BitVec 16 := 0x07
def causeRectangle : BitVec 16 := 0x10
def causeMemOperand : BitVec 16 := 0x11
def causeAlignment : BitVec 16 := 0x12
def causeAperture : BitVec 16 := 0x13
def causeRemoteAbsent : BitVec 16 := 0x14
def causeBarrier : BitVec 16 := 0x15
def causeGang : BitVec 16 := 0x16
def causeMatrix : BitVec 16 := 0x17
def causeDescriptor : BitVec 16 := 0x18
def causeReduction : BitVec 16 := 0x19
def causeHandle : BitVec 16 := 0x1A
def causeSnapshot : BitVec 16 := 0x1B
def causeWalk : BitVec 16 := 0x1C
def causeNotPresent : BitVec 16 := 0x20
def causeMalformed : BitVec 16 := 0x21
def causeBlockGroup : BitVec 16 := 0x22
def causePermission : BitVec 16 := 0x23
def causeShadow : BitVec 16 := 0x24
def causeDataError : BitVec 16 := 0x25
def causeContained : BitVec 16 := 0x26
def causeSoftware : BitVec 16 := 0x30
def causeBreakpoint : BitVec 16 := 0x31
def causeTimer : BitVec 16 := 0x32
def causePartner : BitVec 16 := 0x33

/-- A cause with an access kind or a unit in bits 10:8 (R442). -/
def withKind (cause : BitVec 16) (kind : Nat) : BitVec 16 := cause ||| (BitVec.ofNat 16 kind <<< 8)

/-- The cause code without its kind. -/
def causeCode (cause : BitVec 16) : BitVec 16 := cause &&& 0x00FF

/-! ## Taking a trap and returning from one -/

/-- va[55:3] of a value, as TRAP_VEC, TRAP_PC and TRAP_BLK hold it (Table 13.7). -/
def wordAddr (w : Word) : Word := w &&& 0x00FF_FFFF_FFFF_FFF8

/-- TRAP_BLK for a resumption boundary (R254). -/
def trapBlkFor (t : Thread) (pc : Word) (pcIsHeader : Bool) : Word :=
  if pcIsHeader || !t.entered then pc else t.blk

/-- Trap entry of a thread (R254): cause, resumption boundary, whether that is a header, faulting address; the handler's first
instruction issues 12 cycles after the boundary, whose cycle is `now`, or later (R443). -/
def Thread.trapEnter (t : Thread) (cause : BitVec 16) (pc : Word) (pcIsHeader : Bool) (addr : Word) (now : Nat) : Thread :=
  { t with
    trapPp := t.priv
    trapCause := cause
    trapPc := wordAddr pc
    trapBlk := wordAddr (trapBlkFor t pc pcIsHeader)
    trapAddr := addr
    priv := true
    pc := t.trapVec
    entry := .handler
    notBefore := now + 12
    prompt := none
    wait := .none
    waitRaised := false
    waitKept := none
    relPass := false
    relMark := none
    got := [] }

/-- The one operation that takes a trap on the issuing thread (R254). -/
def takeTrap (s : State) (cause : BitVec 16) (pc : Word) (pcIsHeader : Bool) (addr : Word) : State :=
  setThr s ((thr s).trapEnter cause pc pcIsHeader addr (cycleNow s (blockOf s.me)))

/-- A thread begins to wait in TLW or FUSE; a wait that a stop interrupted goes on being counted (R458). -/
def Thread.beginWait (t : Thread) (w : WaitState) (now : Nat) : Thread :=
  let kept := t.waitKept.getD (0, false)
  { t with wait := w, waitFrom := now - kept.1, waitRaised := kept.2, waitKept := none }

/-- Return from a trap (R271): `hdr` tells whether the word at TRAP_PC is a block header; the next word issues 4 cycles after the cycle
`now` of TRET's issue, or later (R443). -/
def Thread.trapReturn (t : Thread) (hdr : Bool) (now : Nat) : Thread :=
  { t with
    notBefore := now + 4
    priv := t.trapPp
    pc := t.trapPc
    entry := if hdr then .header else .word
    blk := if hdr then t.blk else t.trapBlk }

/-! ## The effect of an instruction -/

/-- What the effect of an instruction comes to on one core. -/
inductive Res where
  | done (s : State)                             -- completed; the next word follows
  | jump (s : State) (target : Word)             -- completed; control enters the block at the target
  | goto (s : State)                             -- completed; the state holds the program counter already
  | wait                                         -- cannot issue yet; nothing is performed (R487)
  | park (s : State)                             -- waits in a wait state; the program counter stays
  | again (s : State)                            -- has begun and executes again later; a gang holds until no member does
  | trap (cause : BitVec 16) (addr : Word)       -- class P (R443)
  | after (s : State) (cause : BitVec 16) (addr : Word)   -- class A: the trap follows the instruction

/-- Facts about an instruction that its issue needs: its threads (Table 10.10), whether it is privileged, whether it never
falls through when its guard is true (R201), whether the leader's guard is the guard of every member of a gang, since all of it is
control (R44, R447), and its words. (DEDUCED: log 15.) -/
structure Info where
  thr : Threads
  priv : Bool
  transfer : Bool
  words : Nat
  led : Bool := false
  deriving DecidableEq, Repr

/-- Instructions of both threads. -/
def infoCM : Info := { thr := ⟨true, true⟩, priv := false, transfer := false, words := 1 }
/-- Instructions of the compute thread. -/
def infoC : Info := { thr := ⟨true, false⟩, priv := false, transfer := false, words := 1 }
/-- Instructions of the movement thread. -/
def infoM : Info := { thr := ⟨false, true⟩, priv := false, transfer := false, words := 1 }

end Sys2Proof.Machine
end

