-- ==== Sys2Proof/Machine/Ecdsa.lean ====
section
/-!
DEFINITION. ECDSA on brainpoolP384r1, which the spec names without defining it (R411, R412): the curve and the scheme are those of their
standards. (PRESUMED: log 10.)
-/

namespace Sys2Proof.Machine

/-! ## The curve -/

/-- The prime of the field. -/
def ecP : Nat := 0x8CB91E82A3386D280F5D6F7E50E641DF152F7109ED5456B412B1DA197FB71123ACD3A729901D1A71874700133107EC53
/-- The coefficient a of y² = x³ + a x + b. -/
def ecA : Nat := 0x7BC382C63D8C150C3C72080ACE05AFA0C2BEA28E4FB22787139165EFBA91F90F8AA5814A503AD4EB04A8C7DD22CE2826
/-- The coefficient b. -/
def ecB : Nat := 0x04A8C7DD22CE28268B39B55416F0447C2FB77DE107DCD2A62E880EA53EEB62D57CB4390295DBC9943AB78696FA504C11
/-- The order of the base point. -/
def ecN : Nat := 0x8CB91E82A3386D280F5D6F7E50E641DF152F7109ED5456B31F166E6CAC0425A7CF3AB6AF6B7FC3103B883202E9046565

/-- A point in Jacobian coordinates; z = 0 is the point at infinity. -/
structure EcPoint where
  x : Nat
  y : Nat
  z : Nat
  deriving DecidableEq, Repr

/-- The base point. -/
def ecG : EcPoint :=
  { x := 0x1D1C64F068CF45FFA2A63A81B7C13F6B8847A3E77EF14FE3DB7FCAFE0CBD10E8E826E03436D646AAEF87B2E247D4AF1E
    y := 0x8ABE1D7520F9C2A45CB1EB8E95CFD55262B70B29FEEC5864E19C054FF99129280E4646217791811142820341263C5315
    z := 1 }

/-- The point at infinity. -/
def ecZero : EcPoint := { x := 1, y := 1, z := 0 }

/-- The difference in the field, of two of its elements. -/
def ecSub (a b : Nat) : Nat := (a + ecP - b) % ecP

/-- A power modulo m, by the low `f` bits of the exponent. -/
def powMod (m : Nat) : Nat → Nat → Nat → Nat
  | 0, _, _ => 1 % m
  | f + 1, b, e => (if e % 2 = 1 then b else 1) * powMod m f (b * b % m) (e / 2) % m

/-- The inverse modulo a prime below 2^384. -/
def invMod (m a : Nat) : Nat := powMod m 384 (a % m) (m - 2)

/-- A point doubled. -/
def ecDouble (p : EcPoint) : EcPoint :=
  if p.y = 0 ∨ p.z = 0 then ecZero
  else
    let yy := p.y * p.y % ecP
    let zz := p.z * p.z % ecP
    let s := 4 * p.x * yy % ecP
    let m := (3 * p.x * p.x + ecA * (zz * zz % ecP)) % ecP
    let x := ecSub (m * m % ecP) (2 * s % ecP)
    { x := x, y := ecSub (m * ecSub s x % ecP) (8 * yy * yy % ecP), z := 2 * p.y * p.z % ecP }

/-- The sum of two points. -/
def ecAdd (p q : EcPoint) : EcPoint :=
  if p.z = 0 then q
  else if q.z = 0 then p
  else
    let z1 := p.z * p.z % ecP
    let z2 := q.z * q.z % ecP
    let u1 := p.x * z2 % ecP
    let u2 := q.x * z1 % ecP
    let s1 := p.y * (q.z * z2 % ecP) % ecP
    let s2 := q.y * (p.z * z1 % ecP) % ecP
    if u1 = u2 then (if s1 = s2 then ecDouble p else ecZero)
    else
      let h := ecSub u2 u1
      let r := ecSub s2 s1
      let hh := h * h % ecP
      let h3 := h * hh % ecP
      let v := u1 * hh % ecP
      let x := ecSub (r * r % ecP) ((h3 + 2 * v) % ecP)
      { x := x, y := ecSub (r * ecSub v x % ecP) (s1 * h3 % ecP), z := h * p.z % ecP * q.z % ecP }

/-- The multiple of a point by the low `f` bits of a number. -/
def ecMul : Nat → Nat → EcPoint → EcPoint
  | 0, _, _ => ecZero
  | f + 1, k, p => let r := ecMul f (k / 2) (ecDouble p); if k % 2 = 1 then ecAdd p r else r

/-- The coordinates of a point that is not at infinity. -/
def ecAffine (p : EcPoint) : Nat × Nat :=
  let w := invMod ecP p.z
  let ww := w * w % ecP
  (p.x * ww % ecP, p.y * (w * ww % ecP) % ecP)

/-! ## ECDSA -/

/-- A big-endian number. -/
def beNat (bs : List Byte) : Nat := leNat bs.reverse

/-- A number as 48 bytes, big-endian. -/
def be48 (n : Nat) : List Byte := (leBytes 48 n).reverse

/-- Does a signature r ‖ s of a 48-byte digest verify under a public key 0x04 ‖ x ‖ y? -/
def ecdsaVerifies (key digest sig : List Byte) : Bool :=
  let x := beNat ((key.drop 1).take 48)
  let y := beNat ((key.drop 49).take 48)
  let r := beNat (sig.take 48)
  let s := beNat ((sig.drop 48).take 48)
  decide (x < ecP) && decide (y < ecP) && y * y % ecP == (x * x % ecP * x + ecA * x + ecB) % ecP &&
  r != 0 && decide (r < ecN) && s != 0 && decide (s < ecN) &&
  (let w := invMod ecN s
   let u1 := beNat digest * w % ecN
   let u2 := r * w % ecN
   let p := ecAdd (ecMul 384 u1 ecG) (ecMul 384 u2 { x := x, y := y, z := 1 })
   p.z != 0 && (ecAffine p).1 % ecN == r)

/-- A secret number in the range of private keys. -/
def ecSecret (n : Nat) : Nat := 1 + n % (ecN - 1)

/-- The public half of the device's identity key pair, x and y (R412). (DESIGN CHOICE: log 11.) -/
def devicePublic : Nat × Nat := ecAffine (ecMul 384 (ecSecret Config.deviceSecret) ecG)

/-- The device's signature r ‖ s of a 48-byte digest, with a nonce that nothing outside knows (R412). (DESIGN CHOICE: log 11.) -/
def ecdsaSign (digest : List Byte) : List Byte :=
  let k := ecSecret (Config.signNonce digest)
  let r := (ecAffine (ecMul 384 k ecG)).1 % ecN
  be48 r ++ be48 (invMod ecN k * (beNat digest + r * ecSecret Config.deviceSecret) % ecN)

end Sys2Proof.Machine
end

