-- ==== Sys2Proof/Machine/Regs.lean ====
section
/-!
DEFINITION. Records and registers of the rim: context and supervisor events (R404, R480), trace records (R430 to R434),
access tables (R408, R409), the sequencer image of Table 3.6, and the rim registers of Tables 1.2, 5.6, 18.6, 19.3,
20.2, 21.1, 21.2, 27.2 and 28.2.
-/

namespace Sys2Proof.Machine

/-- A field of a word, high to low bit. -/
def field (w : Word) (hi lo : Nat) : Nat := w.toNat / 2 ^ lo % 2 ^ (hi + 1 - lo)

/-- A word with a field replaced. -/
def putField (w : Word) (hi lo v : Nat) : Word :=
  let m : Word := BitVec.ofNat 64 ((2 ^ (hi + 1 - lo) - 1) * 2 ^ lo)
  (w &&& ~~~m) ||| (BitVec.ofNat 64 (v % 2 ^ (hi + 1 - lo) * 2 ^ lo))

/-- The bits of a mask taken from a new value, the others kept. -/
def mergeMask (old new mask : Word) : Word := (old &&& ~~~mask) ||| (new &&& mask)

/-! ## Access tables (R408, R409) -/

/-- The grants of a target at reset, as a number of 512 bits (Table 19.5). -/
def accessDefault (t : Nat) : Nat :=
  let own := 0x3F                                        -- Hive and Blugrador ports: RW
  let slotsRw := (2 ^ 128 - 1) * 2 ^ 128                 -- masters 0x40 to 0x7F: RW
  let slotsW := (2 ^ 128 - 1) / 3 * 2 * 2 ^ 128          -- masters 0x40 to 0x7F: W
  let uluitW := (2 ^ 72 - 1) / 3 * 2 * 2 ^ 32            -- masters 0x10 to 0x33: W
  if t < 256 then own + slotsRw + uluitW
  else if t = 290 then own + slotsW
  else own

/-- The grants of a target now. -/
def accessBits (d : Device) (t : Nat) : Nat :=
  match mapGet d.access t with
  | some bs => leNat bs
  | none => accessDefault t

/-- Is a master granted an access to a target? -/
def granted (d : Device) (t master : Nat) (write : Bool) : Bool :=
  (accessBits d t).testBit (2 * master + write.toNat)

/-! ## Events (R404, R454, R480) -/

/-- Word 0 of an event record. -/
def eventWord0 (es kind asid : Nat) : Word :=
  BitVec.ofNat 64 (es % 2 ^ 32 + kind % 2 ^ 16 * 2 ^ 32 + asid % 2 ^ 16 * 2 ^ 48)

/-- Does the access table of the HBM controller that holds a physical address grant the Hive an access (R408, R409)? -/
def hiveMay (d : Device) (pa : Nat) (write : Bool) : Bool := decide (2 ^ 41 ≤ pa) || granted d (256 + pa / 2 ^ 36) 0 write

/-- Bytes that the Hive reads in memory; one that its controller denies is free. (DESIGN CHOICE: log 103.) -/
def hiveGet (s : State) (pa n : Nat) : List Byte :=
  if hiveMay s.dev pa false then readBytes s.mem pa n else (List.range n).map (fun j => Config.deniedByte (pa + j))

/-- A word that the Hive reads in memory. -/
def hiveWord (s : State) (pa : Nat) : Word := BitVec.ofNat 64 (leNat (hiveGet s pa 8))

/-- Four words written to memory. -/
def writeRecord4 (m : List Host.Cell) (a : Nat) (w0 w1 w2 w3 : Word) : List Host.Cell :=
  writeW (writeW (writeW (writeW m a w0) (a + 8) w1) (a + 16) w2) (a + 24) w3

/-- A record that the Hive writes; a controller that denies the write drops it (R409). -/
def hiveRecord4 (s : State) (a : Nat) (w0 w1 w2 w3 : Word) : List Host.Cell :=
  if hiveMay s.dev a true then writeRecord4 s.mem a w0 w1 w2 w3 else s.mem

/-- A record of the supervisor ring (R480); nothing while no ring of at least 16 records is set up. (DEDUCED: log 19.) -/
def superEvent (s : State) (kind : Nat) (w2 w3 : Word) : State :=
  let lg := field s.dev.sevring 52 48
  if lg < 4 then s
  else
    let a := field s.dev.sevring 47 0 + 32 * (s.dev.sevSeq % 2 ^ lg)
    { s with mem := hiveRecord4 s a (eventWord0 s.dev.sevSeq kind 0) (BitVec.ofNat 64 s.dev.time) w2 w3
             dev := { s.dev with sevSeq := s.dev.sevSeq + 1 } }

/-- An event of a context (R404); kinds 14 to 19 go to the supervisor ring too (R480). -/
def raiseEvent (s : State) (asid kind : Nat) (w2 w3 : Word) : State :=
  let s1 :=
    match ctxOf s asid with
    | none => s
    | some c =>
      let a := c.tab.evbase + 32 * (c.es % 2 ^ c.tab.evlog)
      let s2 := setCtx s asid { c with es := c.es + 1 }
      { s2 with
        mem := hiveRecord4 s2 a (eventWord0 c.es kind asid) (BitVec.ofNat 64 s.dev.time) w2 w3
        out := if c.tab.msia = 0 then s2.out else s2.out ++ [OutMsg.hostWrite none c.tab.msia (leBytes 4 c.tab.msid.toNat)] }
  if 14 ≤ kind then superEvent s1 kind w2 w3 else s1

/-- A 16-bit count that holds at 0xFFFF. -/
def bump16 (n : Nat) : Nat := min 0xFFFF (n + 1)

/-- One uncorrectable error of a block (R469). (DEDUCED: log 68.) -/
def addUe (s : State) (blk : Nat) : State := let b := blockAt s blk; setBlock s blk { b with ue := bump16 b.ue }

/-- The data-error event of a core's context (Table 28.4). -/
def dataEvent (s : State) (core unit : Nat) (va : Word) : State :=
  raiseEvent s ((coreOf s core).ctx.getD 0) 14 va (BitVec.ofNat 64 (unit * 256 + core % 2 ^ 20 * 2 ^ 16 + blockOf core * 2 ^ 40))

/-- A unit of a core finds an error in a register that it reads (R470, R471, R484): counted in its block, and reported
without an address. (DEDUCED: log 68.) -/
def errorFound (unit : Nat) (s : State) (core : Nat) : State := dataEvent (addUe s (blockOf core)) core unit 0

/-- Word 3 of event kinds 1, 2 and 5: cause, core number, thread (Table 26.5). -/
def eventThr (cause : BitVec 16) (core : Nat) (mt : Bool) : Word :=
  BitVec.ofNat 64 (cause.toNat + core % 2 ^ 20 * 2 ^ 16 + mt.toNat * 2 ^ 36)

/-! ## Trace records (R430 to R432) -/

/-- Word 0 of a trace record (R431); a core that is saved goes by the position it left. -/
def traceWord0 (kind : Nat) (mt : Bool) (slot core ldom : Nat) : Word :=
  BitVec.ofNat 64 (kind + mt.toNat * 2 ^ 8 + slot % 64 * 2 ^ 9 + core % 2 ^ 20 * 2 ^ 16 + ldom % 2 ^ 16 * 2 ^ 48)

/-- Are records of a kind kept (Table 21.2)? -/
def traceEnabled (b : Block) (kind : Nat) : Bool :=
  b.traceCtl.getLsbD 0 &&
    (if kind = 0x7F then true else if 0x80 ≤ kind then b.traceCtl.getLsbD 15 else b.traceCtl.getLsbD (8 + kind))

/-- The ring is full (R432). -/
def ringFull (b : Block) : Bool := decide ((b.twr + 2 ^ 32 - b.trd) % 2 ^ 32 ≥ 2 ^ field b.rbase 52 48)

/-- A record finds the buffer full, two of whose entries hold its four words, or the ring (R432). -/
def Block.traceFull (b : Block) : Bool := decide (4096 ≤ b.trace.length) || ringFull b

/-- Where space has returned and records were lost, the lost record is written first; it is always kept (R432). (DEDUCED: log 89.) -/
def Block.noteLost (b : Block) (tick : Nat) : Block :=
  if b.tlost = 0 ∨ b.traceFull = true then b
  else { b with
    trace := b.trace ++ [⟨traceWord0 0x7F false 0 0 0, BitVec.ofNat 64 tick⟩, ⟨BitVec.ofNat 64 b.tlost, 0⟩], tlost := 0 }

/-- A record arrives at a block's trace buffer (R432). -/
def Block.traceAdd (b : Block) (kind : Nat) (w0 w1 w2 w3 : Word) (tick : Nat) : Block :=
  if !traceEnabled b kind then b
  else
    let b1 := b.noteLost tick
    if b1.traceFull then { b1 with tlost := (b1.tlost + 1) % 2 ^ 32 }
    else { b1 with trace := b1.trace ++ [⟨w0, w1⟩, ⟨w2, w3⟩] }

/-- A record of the tick now, into a block's buffer. -/
def traceAdd (s : State) (blk kind : Nat) (w0 w2 w3 : Word) : State :=
  setBlock s blk ((blockAt s blk).traceAdd kind w0 (BitVec.ofNat 64 s.dev.time) w2 w3 s.dev.time)

/-- The context slot of a core, running or saved, for records; 0 where it has none. -/
def slotOf (s : State) (core : Nat) : Nat :=
  if 2 ^ 20 ≤ core then ((s.ctxs.find? (fun c => c.2.saved.any (fun r => r.cores.any (fun x => x.pos == core)))).map (·.2.slot)).getD 0
  else match (coreOf s core).ctx with
  | some a => match ctxOf s a with
    | some c => c.slot
    | none => 0
  | none => 0

/-! ## Masters (R408) -/

/-- The master identifier of a context's cores (R408). -/
def masterOf (s : State) (asid : Nat) : Nat :=
  match ctxOf s asid with
  | some c => 0x40 + c.slot
  | none => 0x40

/-- The target that holds a rim register (Table 19.5, R430). -/
def regTarget (off : Nat) : Nat :=
  if 0x4000 ≤ off ∧ off < 0x5000 then 289
  else if 0x2_0000 ≤ off ∧ off < 0x2_8000 then 290
  else if 0x200_0000 ≤ off ∧ off < 0x210_0000 ∧ 0x800 ≤ off % 0x1000 then off % 0x100_0000 / 0x1000 % 256
  else 288

/-! ## Sequencer image (Table 3.6) -/

/-- Code of a sequencer state (Table 3.3). -/
def SeqState.code : SeqState → Nat
  | .idle => 0 | .run => 1 | .full => 2 | .halted => 3 | .fault => 4

/-- The state of a code. -/
def SeqState.ofCode : Nat → SeqState
  | 1 => .run | 2 => .full | 3 => .halted | 4 => .fault | _ => .idle

/-- The three words of a buffer entry. -/
def maskWords (e : MaskEntry) : List Word :=
  [e.wait ++ e.mask, BitVec.ofNat 32 e.cnt ++ e.abs,
   BitVec.ofNat 64 (e.sq.toNat * 2 ^ 32 + e.fired.isSome.toNat * 128 + 64 + e.tagged.toNat * 32 + e.tag.toNat)]

/-- The 64 words of a sequencer's image; loop level 0 is the outermost. -/
def seqImage (q : Sequencer) : List Word :=
  let lv := q.loops.reverse
  let pack (f : Nat × Nat → Nat) : Word :=
    BitVec.ofNat 64 ((List.range 4).foldl (fun acc j => acc + ((lv[j]?.map f).getD 0) % 65536 * 2 ^ (16 * j)) 0)
  let cred (j : Nat) : Word :=
    BitVec.ofNat 64 ((q.credits.toList.getD (2 * j) 0) % 2 ^ 32 + (q.credits.toList.getD (2 * j + 1) 0) % 2 ^ 32 * 2 ^ 32)
  let head : List Word :=
    [BitVec.ofNat 64 (q.pc % 65536 + q.st.code * 2 ^ 16 + q.loops.length * 2 ^ 20 + q.buf.length * 2 ^ 24 + q.gsz * 2 ^ 32),
     pack (·.1), pack (·.2), BitVec.ofNat 64 q.base, BitVec.ofNat 64 (q.asid + q.pcnt * 2 ^ 32), 0, 0, 0]
  let body := (q.buf.map maskWords).flatten
  head ++ (List.range 8).map cred ++ body ++ List.replicate (48 - body.length) 0

/-! ## Plain registers -/

/-- BSTAT_n (Table 1.2). -/
def bstat (s : State) (n : Nat) : Word :=
  let b := blockAt s n
  let r0 := b.ret[0]?
  let r1 := b.ret[1]?
  BitVec.ofNat 64 (b.bsz * 2 ^ 36 + s.dev.copp.toNat * 2 ^ 32 + b.gated.toNat * 2 ^ 20 + b.wdn.toNat * 2 ^ 19 +
    b.ret.length * 2 ^ 16 + r1.isSome.toNat * 2 ^ 15 + r1.getD 0 * 2 ^ 8 + r0.isSome.toNat * 2 ^ 7 + r0.getD 0)

/-- RASCNT_n (Table 28.2). -/
def rascnt (s : State) (n : Nat) : Word :=
  if n = 256 then s.dev.ras256
  else
    let b := blockAt s n
    BitVec.ofNat 64 (b.ce % 2 ^ 16 * 2 ^ 48 + b.ue % 2 ^ 16 * 2 ^ 32 + b.chk % 2 ^ 16 * 2 ^ 16 +
      (if b.mxfTick = s.dev.time / 10 ^ 9 then b.mxf % 256 else 0))

/-- The debug control word of a core (Table 21.1). -/
def dbgWord (d : Debug) : Word :=
  (d.ctl &&& 0x0000_0087_0000_0000) ||| BitVec.ofNat 64 (d.why.toNat * 2 ^ 36 + d.halted.toNat * 2 ^ 35)

/-- OPSTAT (Table 20.2). -/
def opstat (d : Device) : Word :=
  BitVec.ofNat 64 (d.nopp.toNat * 2 ^ 58 + d.copp.toNat * 2 ^ 56 + d.pend.toNat * 2 ^ 48 + d.ctick % 2 ^ 48)

/-- The shoot-down status (Table 5.6). -/
def sdStatus (d : Device) : Word :=
  BitVec.ofNat 64 (d.sdAcks * 2 ^ 32 + d.sdBad.toNat * 8 + d.sdOvr.toNat * 4 + d.sdDone.toNat * 2 + d.sdBusy.toNat)

/-- The supervisor status (Table 19.3). -/
def svcStatusWord (d : Device) : Word :=
  BitVec.ofNat 64 (d.svcOvr.toNat * 2 ^ 18 + d.svcDone.toNat * 2 ^ 17 + d.svcBusy.toNat * 2 ^ 16 + d.svcStatus.toNat)

/-- A word of the device's public identity key: 97 bytes, 0x04 then x and y big-endian (R412). -/
def keyWord (j : Nat) : Word :=
  let n := 4 * 2 ^ 768 + devicePublic.1 * 2 ^ 384 + devicePublic.2
  BitVec.ofNat 64 ((List.range 8).foldl (fun acc i =>
    let k := 8 * j + i
    acc + (if k < 97 then n / 2 ^ (8 * (96 - k)) % 256 else 0) * 2 ^ (8 * i)) 0)

/-- The register that a 64-bit word of rim space holds, none where no register lies. (DESIGN CHOICE: log 20.) -/
def regValue (s : State) (off : Nat) : Option Word :=
  let d := s.dev
  if off % 8 ≠ 0 then none
  else if off = 0x8 then some d.bootstat
  else if off = 0x2000 then some d.sdVa
  else if off = 0x2008 then some d.sdPa
  else if off = 0x2010 then some d.sdGo
  else if off = 0x2018 then some (sdStatus d)
  else if off = 0x3000 then some d.rampcfg
  else if off = 0x4000 then some (BitVec.ofNat 64 d.svcCmd.toNat)
  else if off = 0x4008 then some d.svcArg[0]
  else if off = 0x4010 then some d.svcArg[1]
  else if off = 0x4018 then some d.svcArg[2]
  else if off = 0x4020 then some (svcStatusWord d)
  else if off = 0x4040 then some d.qtbase
  else if off = 0x4048 then some d.sevring
  else if off = 0x5000 then some d.fabid
  else if 0x6000 ≤ off ∧ off < 0x6068 then some (keyWord ((off - 0x6000) / 8))
  else if off = 0x7000 then some d.pwrcfg
  else if off = 0x7008 then some (opstat d)
  else if off = 0x7010 then some (BitVec.ofNat 64 (d.pwrWin % 2 ^ 32 * 2 ^ 32 + d.watts.toNat))
  else if off = 0x8000 then some d.waitcfg
  else if 0x1_0000 ≤ off ∧ off < 0x1_0800 then some (bstat s ((off - 0x1_0000) / 8))
  else if 0x2_0000 ≤ off ∧ off < 0x2_8000 then some ((mapGet d.notify ((off - 0x2_0000) / 8)).getD 0)
  else if 0x3_0000 ≤ off ∧ off < 0x3_0808 then some (rascnt s ((off - 0x3_0000) / 8))
  else if 0x5_0000 ≤ off ∧ off < 0x5_8000 then some ((mapGet d.scope ((off - 0x5_0000) / 8)).getD 0)
  else if 0x6_0000 ≤ off ∧ off < 0x6_0000 + 64 * 291 then
    let o := off - 0x6_0000
    some (BitVec.ofNat 64 (accessBits d (o / 64) / 2 ^ (8 * (o % 64))))
  else if 0x10_0000 ≤ off ∧ off < 0x110_0000 then
    let n := (off - 0x10_0000) / 0x1_0000
    let q := off % 0x1_0000 / 0x200
    let img := if off % 0x200 = 0 then some (seqImage ((mapGet (blockAt s n).seqs q).getD Sequencer.reset))
               else mapGet (blockAt s n).seqLatch q
    some ((img.getD []).getD (off % 0x200 / 8) 0)
  else if 0x200_0000 ≤ off ∧ off < 0x210_0000 then
    let b := blockAt s ((off - 0x200_0000) / 0x1000)
    let o := off % 0x1000
    if o = 0 then some b.traceCtl
    else if o = 8 then some b.rbase
    else if o = 0x10 then some (BitVec.ofNat 64 (b.twr % 2 ^ 32 * 2 ^ 32 + b.tlost))
    else if o = 0x18 then some (BitVec.ofNat 64 (b.trd % 2 ^ 32))
    else if 0x800 ≤ o then some 0
    else none
  else if 0x400_0000 ≤ off ∧ off < 0xC00_0000 then
    let g := (coreOf s ((off - 0x400_0000) / 0x80)).dbg
    let o := off % 0x80
    if o = 0 then some (dbgWord g)
    else if o = 8 then some g.save
    else if 0x10 ≤ o ∧ o < 0x30 then some (g.bp.toList.getD ((o - 0x10) / 8) 0)
    else if 0x30 ≤ o ∧ o < 0x40 then some (g.wp.toList.getD ((o - 0x30) / 8) 0)
    else some 0
  else none

/-! ## Reads that change a register -/

/-- A read of the shoot-down status clears its read-clear bits (Table 5.6). -/
def sdStatusClear (d : Device) : Device := { d with sdBad := false, sdOvr := false, sdDone := false }

/-- A read of the supervisor status clears its read-clear bits (Table 19.3). -/
def svcStatusClear (d : Device) : Device := { d with svcOvr := false, svcDone := false }

/-- A read of the debug control word clears cdrop (Table 21.1). -/
def dbgClear (g : Debug) : Debug := { g with ctl := setBit g.ctl 39 false }

/-- A read of offset 0 of a sequencer's space latches its image (R69). -/
def latchSeq (s : State) (blk q : Nat) : State :=
  let b := blockAt s blk
  setBlock s blk { b with seqLatch := mapSet b.seqLatch q (seqImage ((mapGet b.seqs q).getD Sequencer.reset)) }

/-- What a read of a register changes. -/
def regReadEffect (s : State) (off : Nat) : State :=
  if off = 0x2018 then setDev s (sdStatusClear s.dev)
  else if off = 0x4020 then setDev s (svcStatusClear s.dev)
  else if 0x10_0000 ≤ off ∧ off < 0x110_0000 ∧ off % 0x200 = 0 then
    latchSeq s ((off - 0x10_0000) / 0x1_0000) (off % 0x1_0000 / 0x200)
  else if 0x400_0000 ≤ off ∧ off < 0xC00_0000 ∧ off % 0x80 = 0 then
    let c := (off - 0x400_0000) / 0x80
    let k := coreOf s c
    setCore s c { k with dbg := dbgClear k.dbg }
  else s

/-- A read of n bytes of rim space: the bytes and the state after it; no register there reads a free value. The other words of a wide
read that takes in offset 0 of a sequencer's space come from the image latched before it. (DESIGN CHOICE: log 20, DESIGN CHOICE: log 92.) -/
def regRead (s : State) (off n : Nat) : List Byte × State :=
  let base := off / 8 * 8
  let words := (List.range ((off + n + 7) / 8 - off / 8)).map (fun i => base + 8 * i)
  let vals := words.map (fun o => regValue s o)
  let fresh := drawWord s
  let bytes := (vals.map (fun v => leBytes 8 ((v.getD fresh.1).toNat))).flatten
  let s1 := if vals.all Option.isSome then s else fresh.2
  ((bytes.drop (off - base)).take n, words.foldl regReadEffect s1)

/-! ## Writes -/

/-- The go write of the shoot-down registers (Table 5.6, R105): the request is copied; malformed sets bad; while busy it
sets ovr. Neither of these two, which are discarded, stores a field of its word, and done of an earlier shoot-down stands while the
next is busy. (DESIGN CHOICE: log 63.) -/
def shootdownGo (d : Device) (v : Word) : Device :=
  let size := [16, 21, 26, 32].getD (field v 17 16) 16
  let bad := v.getLsbD 21 && (v.getLsbD 19 || decide (d.sdPa.toNat % 2 ^ size ≠ 0))
  if d.sdBusy then { d with sdOvr := true }
  else if bad then { d with sdBad := true }
  else { d with sdGo := v &&& 0x003B_FFFF, sdReq := (d.sdVa, d.sdPa, v &&& 0x003B_FFFF), sdBusy := true, sdAcks := 0 }

/-- The step that a shoot-down request is (rows SHOOTDOWN and SHOOTDOWN_FLUSH). -/
def shootdownStep (v : Word) : Ev := if v.getLsbD 21 then .shootdownFlush v else .shootdown v

/-- The step of a supervisor command (Table 19.4). -/
def commandStep (cmd : BitVec 8) (a0 a1 : Word) : Ev :=
  match cmd.toNat with
  | 1 => .ctxload a0 | 2 => .ctxupd a0 | 3 => .ctxevict a0 | 4 => .preempt a0 a1 | 5 => .qresync a0 a1
  | 6 => .bssplit a0 a1 | 7 => .signrun a0 | 8 => .attest a0 a1 | 9 => .svnadv a0 | 10 => .seqreset a0 a1
  | 11 => .contain a0 | 12 => .uncontain a0 | _ => .unknownCommand cmd

/-- A write of the supervisor command word (Table 19.3): go while busy is discarded and sets ovr. -/
def svcWrite (s : State) (v : Word) : State :=
  let cmd : BitVec 8 := v.extractLsb' 0 8
  if !v.getLsbD 63 then setDev s { s.dev with svcCmd := cmd }
  else if s.dev.svcBusy then setDev s { s.dev with svcOvr := true }
  else
    post (setDev s { s.dev with svcCmd := cmd, svcBusy := true }) (commandStep cmd s.dev.svcArg[0] s.dev.svcArg[1])

/-- Is any queue active (Table 18.1, st in the descriptor)? -/
def anyQueueActive (s : State) : Bool :=
  (List.range 4096).any (fun q => field (hiveWord s (field s.dev.qtbase 47 0 + 64 * q + 16)) 17 16 == 1)

/-- PWRCFG as written (Table 20.2): cap 0 stores 1 and above 300 stores 300. -/
def pwrStore (v : Word) : Word :=
  let w := v &&& 0x0000_FFFF_000D_01FF
  let cap := field w 8 0
  putField w 8 0 (if cap = 0 then 1 else if cap > 300 then 300 else cap)

/-- RAMPCFG as written (Table 18.6): a step of 0 stores 1. -/
def rampStore (v : Word) : Word :=
  let w := v &&& 0x0001_00FF
  if field w 7 0 = 0 then putField w 7 0 1 else w

/-- A watchpoint as written (Table 21.1): lsz 13 to 31 stores 12. -/
def wpStore (v : Word) : Word :=
  let w := v &&& 0xFFFF_FFFF_FFFF_FFFF
  if field w 60 56 > 12 then putField w 60 56 12 else w

/-! ## Rim power islands (R28) -/

/-- Rim islands that something reaches have power again. The model numbers them: 0 the Hive, 1 to 32 the HBM stacks, 33 to 64 their
controllers, 65 to 102 the link PHYs, port by port. (DESIGN CHOICE: log 67.) -/
def wakeRim (s : State) (ns : List Nat) : State :=
  if s.dev.islands.any (fun i => ns.contains i) then setDev s { s.dev with islands := s.dev.islands.filter (fun i => !ns.contains i) } else s

/-- The islands of the stack that holds a physical address and of its controller. -/
def stackIslands (pa : Nat) : List Nat := [1 + pa / 2 ^ 36 % 32, 33 + pa / 2 ^ 36 % 32]

/-- The island of the PHY of a port: Blugrador 0 and 1, then Uluit 0 to 35. -/
def phyIsland (port : Nat) : Nat := 65 + port

/-! ## Blugrador ports (R482) -/

/-- Is a Blugrador port in service? -/
def portUp (s : State) (port : Nat) : Bool := !(mapGet s.dev.ports port).any (·.down)

/-- The port that a write to the host goes through: its own, or the other one where its own is down. -/
def writePort (s : State) (port : Nat) : Nat := if portUp s port then port else 1 - port

/-! ## The ramp limiter (R397) -/

/-- Busy cycles of a microsecond at the operating point: M of R397. -/
def rampMax (d : Device) : Nat := 512 * (1000 + 200 * d.freq.toNat)

/-- d × M / 256. -/
def rampStep (d : Device) : Nat := field d.rampcfg 7 0 * rampMax d / 256

/-- U(t − 1) and U(t) of a block brought forward to a microsecond. -/
def Block.rampTo (b : Block) (d : Device) (w : Nat) : Block :=
  if w ≤ b.rampAt then b
  else
    let first := if d.rampcfg.getLsbD 16 then max b.rampCur (b.rampPrev - rampStep d) else b.rampCur
    let idle := w - b.rampAt - 1
    { b with rampPrev := if d.rampcfg.getLsbD 16 then first - idle * rampStep d else if idle = 0 then first else 0
             rampCur := 0, rampAt := w }

/-- Every block's counts at the present microsecond, before what they depend on changes. -/
def rampNow (s : State) : State :=
  { s with blocks := s.blocks.map (fun b => (b.1, b.2.rampTo s.dev (s.dev.time / 1000))) }

/-- A register without behaviour of its own takes the fields of a write (R3; row REGISTER_WRITE). -/
def regStore (s : State) (off : Nat) (v : Word) : State :=
  let d := s.dev
  if off = 0x2000 then setDev s { d with sdVa := v &&& 0x00FF_FFFF_FFFF_0000 }
  else if off = 0x2008 then setDev s { d with sdPa := v &&& 0x0000_FFFF_FFFF_0000 }
  else if off = 0x3000 then setDev (rampNow s) { d with rampcfg := rampStore v }
  else if off = 0x4008 then setDev s { d with svcArg := d.svcArg.set 0 v }
  else if off = 0x4010 then setDev s { d with svcArg := d.svcArg.set 1 v }
  else if off = 0x4018 then setDev s { d with svcArg := d.svcArg.set 2 v }
  else if off = 0x4040 then
    if anyQueueActive s then s else setDev s { d with qtbase := v &&& 0x0000_FFFF_FFFF_FFC0 }
  else if off = 0x4048 then setDev s { d with sevring := v &&& 0x001F_FFFF_FFFF_FFE0 }
  else if off = 0x7000 then setDev s { d with pwrcfg := pwrStore v }
  else if 0x3_0000 ≤ off ∧ off < 0x3_0800 then
    let n := (off - 0x3_0000) / 8
    let b := blockAt s n
    setBlock s n { b with ce := field v 63 48, ue := field v 47 32, chk := field v 31 16, mxf := field v 7 0, mxfTick := d.time / 10 ^ 9 }
  else if off = 0x3_0800 then setDev s { d with ras256 := v &&& 0xFFFF_FFFF_FFFF_00FF }
  else if 0x6_0000 ≤ off ∧ off < 0x6_0000 + 64 * 291 then
    let o := off - 0x6_0000
    let bytes := leBytes 64 (accessBits d (o / 64))
    setDev s { d with access := mapSet d.access (o / 64) (bytes.take (o % 64) ++ leBytes 8 v.toNat ++ bytes.drop (o % 64 + 8)) }
  else if 0x200_0000 ≤ off ∧ off < 0x210_0000 then
    let n := (off - 0x200_0000) / 0x1000
    let b := blockAt s n
    let o := off % 0x1000
    let room (b b1 : Block) : Block := if ringFull b then b1.noteLost d.time else b1
    if o = 0 then setBlock s n { b with traceCtl := v &&& 0xFF01 }
    else if o = 8 then setBlock s n (room b { b with rbase := v &&& 0x001F_FFFF_FFFF_FFFF })
    else if o = 0x18 then setBlock s n (room b { b with trd := field v 31 0 })
    else s
  else if 0x400_0000 ≤ off ∧ off < 0xC00_0000 then
    let c := (off - 0x400_0000) / 0x80
    let k := coreOf s c
    let g := k.dbg
    let o := off % 0x80
    let put (g' : Debug) : State := setCore s c { k with dbg := g' }
    if o = 0 then put { g with ctl := mergeMask g.ctl v 0x0000_0007_0000_0000 }
    else if o = 8 then put { g with save := v &&& 0x0000_FFFF_FFFE_0000 }
    else if 0x10 ≤ o ∧ o < 0x30 then
      put { g with bp := Vector.ofFn fun i => if i.val = (o - 0x10) / 8 then v &&& 0x80FF_FFFF_FFFF_FFF8 else g.bp[i] }
    else if 0x30 ≤ o ∧ o < 0x40 then
      put { g with wp := Vector.ofFn fun i => if i.val = (o - 0x30) / 8 then wpStore v else g.wp[i] }
    else s
  else s

/-- A write of the debug control word's request bits (R426): hreq of a running core; rreq and sreq of a halted core,
both taking the step. -/
def dbgRequest (s : State) (c : Nat) (v : Word) : State :=
  let g := (coreOf s c).dbg
  if g.halted then
    if v.getLsbD 61 then post s (.sreq c) else if v.getLsbD 62 then post s (.rreq c) else s
  else if v.getLsbD 63 then post s (.hreq c) else s

/-- A notify write (R386, R423): a value with bits above 31 set changes nothing; the latest value stands. -/
def notifyStore (s : State) (q : Nat) (v : Word) : State :=
  if v.toNat < 2 ^ 32 then
    post (setDev s { s.dev with notify := mapSet s.dev.notify q v }) (.notifyWrite q v)
  else s

/-- A write of one 64-bit word of rim space. -/
def regWriteWord (s : State) (off : Nat) (v : Word) : State :=
  if off = 0x2010 then
    if v.getLsbD 63 then
      let d := shootdownGo s.dev v
      if !s.dev.sdBusy && d.sdBusy then post (setDev s d) (shootdownStep d.sdReq.2.2) else setDev s d
    else setDev s { s.dev with sdGo := v &&& 0x003B_FFFF }
  else if off = 0x4000 then svcWrite s v
  else if off = 0x8000 then setDev s { s.dev with waitcfg := v &&& 0xFFFF_FFFF }
  else if 0x2_0000 ≤ off ∧ off < 0x2_8000 then notifyStore s ((off - 0x2_0000) / 8) v
  else if 0x400_0000 ≤ off ∧ off < 0xC00_0000 ∧ off % 0x80 = 0 then
    dbgRequest (regStore s off v) ((off - 0x400_0000) / 0x80) v
  else regStore s off v

/-- Is a rim offset within a block's trace port (R430)? -/
def isTracePort (off : Nat) : Bool := decide (0x200_0000 ≤ off ∧ off < 0x210_0000 ∧ 0x800 ≤ off % 0x1000)

/-- A part of a store to a block's trace port (R434): a naturally aligned store of 16 bytes writes a software record; any other counts
as lost, once, at its first part there. `total` is the store's length, `lead` how much of it precedes the part. -/
def tracePortStore (s : State) (off : Nat) (core : Nat) (mt : Bool) (bytes : List Byte) (total lead : Nat) : State :=
  let n := (off - 0x200_0000) / 0x1000
  if 0 < lead && isTracePort (off - 1) then s
  else if off % 16 = 0 && bytes.length == 16 && total == 16 then
    let kind := 0x80 + (off % 0x1000 - 0x800) / 16
    traceAdd s n kind (traceWord0 kind mt (slotOf s core) core 0) (BitVec.ofNat 64 (leNat (bytes.take 8)))
      (BitVec.ofNat 64 (leNat (bytes.drop 8)))
  else
    let b := blockAt s n
    setBlock s n { b with tlost := (b.tlost + 1) % 2 ^ 32 }

/-- Part of a write to rim space by a core or a link. A register written in part keeps its other bytes. (DESIGN CHOICE: log 20.) -/
def regWritePart (s : State) (off : Nat) (core : Nat) (mt : Bool) (bytes : List Byte) (total lead : Nat) : State :=
  if isTracePort off then tracePortStore s off core mt bytes total lead
  else
    let base := off / 8 * 8
    let nw := (off + bytes.length + 7) / 8 - off / 8
    let old := ((List.range nw).map (fun i => leBytes 8 (((regValue s (base + 8 * i)).getD 0).toNat))).flatten
    let new := old.take (off - base) ++ bytes ++ old.drop (off - base + bytes.length)
    (List.range nw).foldl (fun st i =>
      regWriteWord st (base + 8 * i) (BitVec.ofNat 64 (leNat ((new.drop (8 * i)).take 8)))) s

/-- A whole write of bytes to rim space. -/
def regWrite (s : State) (off : Nat) (core : Nat) (mt : Bool) (bytes : List Byte) : State :=
  regWritePart s off core mt bytes bytes.length 0

end Sys2Proof.Machine
end

