-- ==== Sys2Proof/Machine/Slice.lean ====
section
/-!
DEFINITION. The slices: lines and homes (R83 to R87), translation (R95 to R104), the slice cache and its classes (R88 to
R91), copy-on-write and lazy restore (R135 to R140), apertures (R73 to R78), and an access performed at its home.
-/

namespace Sys2Proof.Machine

/-! ## Cores, running or saved -/

/-- The cores that are saved. -/
def allSavedCores (s : State) : List Saved := (s.ctxs.map (fun c => (c.2.saved.map (·.cores)).flatten)).flatten

/-- A core that runs, or one that is saved under the number that names its accesses in flight (R48, R49). -/
def coreAny (s : State) (core : Nat) : Core :=
  if core < 2 ^ 20 then coreOf s core else ((allSavedCores s).find? (fun x => x.pos == core)).elim Core.reset (·.core)

/-- The state with a core changed, one that runs or one that is saved. -/
def setAny (s : State) (core : Nat) (k : Core) : State :=
  if core < 2 ^ 20 then setCore s core k
  else { s with ctxs := s.ctxs.map (fun c => (c.1, { c.2 with saved := c.2.saved.map (fun r =>
    { r with cores := r.cores.map (fun x => if x.pos = core then { x with core := k } else x) }) })) }

/-- The walk point that a core is bound to or runs: context, walk, point (R152). -/
def pointOf (k : Core) : Option (Nat × Nat × Nat) :=
  k.walkAtt.bind (fun a => match a.bound, k.task with
    | some p, _ => some (a.asid, a.wid, p)
    | none, .point p => some (a.asid, a.wid, p)
    | none, _ => none)

/-! ## Lines and homes -/

/-- LineBase(va) (R83). -/
def lineBase (va : Nat) : Nat := va / 65536 * 65536 + va % 65536 / 192 * 192

/-- LineNo(va) (R83). -/
def lineNo (va : Nat) : Nat := va / 65536 * 342 + va % 65536 / 192

/-- Bytes of the line at a base: 64 for a tail line (R83). -/
def lineLen (lb : Nat) : Nat := if lb % 65536 = 65472 then 64 else 192

/-- The parts of an access at line boundaries (R101): address, bytes, offset within the access. -/
def splitFrom : Nat → Nat → Nat → Nat → List (Nat × Nat × Nat)
  | 0, _, _, _ => []
  | f + 1, va, n, off =>
    if n = 0 then []
    else
      let room := lineBase va + lineLen (lineBase va) - va
      if n ≤ room then [(va, n, off)] else (va, room, off) :: splitFrom f (va + room) (n - room) (off + room)

/-- The parts of an access of n bytes. -/
def splitLines (va n : Nat) : List (Nat × Nat × Nat) := splitFrom (n + 1) va n 0

/-- h of R84. -/
def homeHash (lb : Nat) : Nat :=
  let g := lb / 256 % 2 ^ 40
  (g % 256) ^^^ (g / 2 ^ 8 % 256) ^^^ (g / 2 ^ 16 % 256) ^^^ (g / 2 ^ 24 % 256) ^^^ (g / 2 ^ 32)

/-- HOME_TABLE[h]; an empty table is the identity (R84). -/
def homeTable (d : Device) (h : Nat) : Nat := if d.home.isEmpty then h else d.home.getD h h

/-- Does a placement window hold an address (R86)? -/
def PWin.holds (w : PWin) (va : Nat) : Bool := decide (w.base ≤ va) && decide (va < w.base + w.size)

/-- The blocks of a window in row-major order (R86). -/
def PWin.blocks (w : PWin) : List Nat :=
  let cols := w.bc1 + 1 - w.bc0
  (List.range ((w.br1 + 1 - w.br0) * cols)).map (fun k => (w.br0 + k / cols) * 16 + w.bc0 + k % cols)

/-- The window of a context that holds an address. -/
def windowAt (s : State) (asid va : Nat) : Option PWin :=
  match ctxOf s asid with
  | some c => c.windows.find? (fun w => w.holds va)
  | none => none

/-- Home(va) for a context (R84, R86). -/
def homeOf (s : State) (asid va : Nat) : Nat :=
  let lb := lineBase va
  match windowAt s asid lb with
  | some w =>
    let bs := w.blocks
    bs.getD ((lineNo lb - lineNo w.base) % max 1 bs.length) 0
  | none => homeTable s.dev (homeHash lb)

/-! ## Apertures (R73 to R78, R80) -/

/-- Is the address in the aperture space (R73)? -/
def isAperture (va : Nat) : Bool := va / 2 ^ 52 == 15

/-- Bytes of a core's scratchpad (R76). -/
def padSize (k : Core) : Nat := 98304 - (k.win + k.l1kb) * 1024

/-- The unit that holds bytes of an aperture. -/
inductive ApHome where
  | core (c : Nat)
  | block (b : Nat)
  deriving DecidableEq, Repr

/-- A run of bytes of an aperture access within one unit: where they stand in memory. -/
structure ApPiece where
  home : ApHome
  key : Nat
  n : Nat
  off : Nat
  deriving DecidableEq, Repr

/-- The pieces of a window access (R78): offset o lies in member o div w. -/
def windowPieces : Nat → Nat → Nat → Nat → Nat → Nat → List ApPiece
  | 0, _, _, _, _, _ => []
  | f + 1, core, wb, pad, o, n =>
    if n = 0 then []
    else
      let m := octetCore core (o / wb)
      let room := wb - o % wb
      let k := min n room
      ⟨.core m, localKey m (pad + o % wb), k, 0⟩ :: windowPieces f core wb pad (o + k) (n - k)

/-- Offsets of pieces within the access. -/
def offsetPieces (off : Nat) : List ApPiece → List ApPiece
  | [] => []
  | p :: ps => { p with off := off } :: offsetPieces (off + p.n) ps

/-- Is a granted rectangle in force: it is one, and meets no withdrawn block (R475)? -/
def grantLive (s : State) (g : Word) : Bool :=
  g != 0xFFFF_FFFF_FFFF_FFFF && !s.blocks.any (fun b => b.2.wdn && rectMeetsBlock (rectOf g) b.1)

/-- Does some rectangle granted to the context hold the core (R74)? -/
def grantHolds (s : State) (asid core : Nat) : Bool :=
  match ctxOf s asid with
  | some c => c.tab.grants.any (fun g => grantLive s g && coreIn core g)
  | none => false

/-- Does a rectangle lie within one that is granted to a context (R32)? -/
def rectGranted (s : State) (asid : Nat) (x : Word) : Bool :=
  match ctxOf s asid with
  | some c => c.tab.grants.any (fun g => grantLive s g && rectWithin (rectOf x) (rectOf g))
  | none => false

/-- The pieces of an aperture access of a core's thread or engine; none where R74 gives the aperture fault. -/
def apPieces (s : State) (core asid va n : Nat) : Option (List ApPiece) :=
  let off := va % 2 ^ 20
  let k := coreOf s core
  match va / 2 ^ 48 % 16 with
  | 0 => if va / 2 ^ 20 % 2 ^ 28 = 0 ∧ off + n ≤ padSize k then some [⟨.core core, localKey core off, n, 0⟩] else none
  | 1 =>
    if va / 2 ^ 20 % 2 ^ 28 = 0 ∧ off + n ≤ 8 * (k.win * 1024) then
      some (offsetPieces 0 (windowPieces 10 core (k.win * 1024) (padSize k) off n))
    else none
  | 2 =>
    let t := va / 2 ^ 20 % 2 ^ 20
    if va / 2 ^ 40 % 2 ^ 8 = 0 ∧ grantHolds s asid t = true ∧ off + n ≤ padSize (coreOf s t) then
      some [⟨.core t, localKey t off, n, 0⟩] else none
  | 3 =>
    let b := va / 2 ^ 32 % 2 ^ 8
    let x := va % 2 ^ 32
    match ctxOf s asid with
    | some c =>
      if va / 2 ^ 40 % 2 ^ 8 = 0 ∧ (blockAt s b).wdn = false ∧ x + n ≤ c.tab.bssize * 65536 then
        some [⟨.block b, bsKey b (c.tab.bsbase * 65536 + x), n, 0⟩] else none
    | none => none
  | _ => none

/-- Bytes of the pieces of an aperture access. -/
def readPieces (m : List Host.Cell) (ps : List ApPiece) : List Byte := (ps.map (fun p => readBytes m p.key p.n)).flatten

/-- The state with bytes written to the pieces of an aperture access. -/
def writePieces (m : List Host.Cell) (bytes : List Byte) : List ApPiece → List Host.Cell
  | [] => m
  | p :: ps => writePieces (writeBytes m p.key ((bytes.drop p.off).take p.n)) bytes ps

/-! ## Poison of memory (R470) -/

/-- Start of the 8-byte granule of local memory or the block store, or of the sector of HBM, that holds a byte. -/
def unitOf (a : Nat) : Nat :=
  if 2 ^ 60 ≤ a then a / 8 * 8 else lineBase a + (a - lineBase a) / 48 * 48

/-- Bytes of the unit at a start. -/
def unitLen (a : Nat) : Nat := if 2 ^ 60 ≤ a then 8 else if a % 65536 = 65520 then 16 else 48

/-- Does a range of memory hold a poisoned unit? -/
def poisonedIn (s : State) (a n : Nat) : Bool := s.poisoned.any (fun u => decide (u < a + n) && decide (a < u + unitLen u))

/-- A write of n bytes clears the poison of every unit it covers whole (R470). -/
def unpoison (s : State) (a n : Nat) : State :=
  if s.poisoned.isEmpty then s
  else { s with poisoned := s.poisoned.filter (fun u => !(decide (a ≤ u) && decide (u + unitLen u ≤ a + n))) }

/-- A unit of memory becomes poisoned. -/
def addPoison (s : State) (u : Nat) : State := if s.poisoned.contains u then s else { s with poisoned := s.poisoned ++ [u] }

/-- Memory written with the poison it covers cleared. -/
def storeMem (s : State) (a : Nat) (bytes : List Byte) : State :=
  unpoison { s with mem := writeBytes s.mem a bytes } a bytes.length

/-- Bytes that the Hive writes in memory; a controller that denies the write drops it (R409). -/
def hivePut (s : State) (pa : Nat) (bytes : List Byte) : State := if hiveMay s.dev pa true then storeMem s pa bytes else s

/-! ## The page table (R97 to R102) -/

/-- The needs of an access at its home (R98, R99). -/
structure Req where
  asid : Nat
  priv : Bool
  blk : Option Nat           -- requester's block, where the block-group check applies
  ch : BitVec 3
  r : Bool
  w : Bool
  x : Bool
  hive : Bool                -- the Hive or another master that R99 does not check
  cow : Bool := true         -- a write that snapshots capture; not so a reduction unit's spills (R135)
  master : Option Nat := none -- a master that is neither the Hive nor the context's slot (R408)
  who : Option Latch := none -- the request that a slice's walk queue lists where the access misses (R102)
  total : Nat := 0           -- bytes of the whole access, of which this is the part from `lead` on (R434); 0 where it is the whole
  lead : Nat := 0
  deriving DecidableEq, Repr

/-- Outcome of one walk. -/
inductive WalkRes where
  | fault (cause : BitVec 16)
  | leaf (e : TEntry) (a : Bool) (tables : List (Nat × Nat × Nat))
  deriving DecidableEq, Repr

/-- The index of a level (R95). -/
def ptIndex (va l : Nat) : Nat := va / 2 ^ (16 + 10 * (4 - l)) % 1024

/-- Reserved bits of a main word (Table 5.2). -/
def pteReserved (w : Word) : Bool := (w &&& 0xFFFF_0000_0000_3800) != 0

/-- The key of a table in the walk cache: its level and the indices above it. -/
def walkKey (va l : Nat) : Nat := va / 2 ^ (16 + 10 * (5 - l)) * 8 + l

/-- A leaf entry at level 3 or 4, with the checks of Tables 5.4 and 5.5 orders 2 and 3; `bad` tells of a malformed entry
above it. -/
def leafEntry (m : List Host.Cell) (asid va l base : Nat) (bad : Bool) (tables : List (Nat × Nat × Nat)) : WalkRes :=
  let ix := ptIndex va l
  let a := base + 16 * ix
  let w := readW m a
  let run := w.getLsbD 2
  let addr := (w &&& 0x0000_FFFF_FFFF_C000).toNat
  let unit := if l = 4 then 2 ^ 16 else 2 ^ 26
  let group := if l = 4 then 32 else 64
  let misaligned := addr % unit != 0 || (run && addr / unit % group != ix % group)
  if bad || pteReserved w || field w 10 9 == 3 || misaligned then .fault causeMalformed
  else if (decide (2 ^ 41 ≤ addr) && decide (addr < 0xFFFF_0000_0000)) ||
      (decide (0xFFFF_0000_0000 ≤ addr) && (w.getLsbD 6 || field w 10 9 != 1)) then .fault causeMalformed
  else
    let size := if run then unit * group else unit
    let frame := if run then addr - ix % group * unit else addr
    let pte := if run then base + 16 * (ix / group * group) else a
    .leaf { asid := asid, vpage := va / size * size, size := size, frame := frame, r := w.getLsbD 3, w := w.getLsbD 4
            x := w.getLsbD 5, u := w.getLsbD 6, ok := BitVec.ofNat 2 (field w 10 9), bgm := readW m (a + 8)
            d := w.getLsbD 8, pte := pte, leafAddr := frame }
      (w.getLsbD 7) tables

/-- The walk from a level on (R102): not-present is found before any other fault of the path (Table 5.5). A table whose address lies
outside HBM is read where that address stands in State.mem. (DESIGN CHOICE: log 86.) -/
def walkFrom (m : List Host.Cell) (asid va : Nat) : List Nat → Nat → Bool → List (Nat × Nat × Nat) → WalkRes
  | [], _, _, _ => .fault causeMalformed
  | l :: ls, base, bad, tables =>
    let a := base + 16 * ptIndex va l
    let w := readW m a
    if !w.getLsbD 0 then .fault causeNotPresent
    else if w.getLsbD 1 then
      if l ≤ 2 then .fault causeMalformed else leafEntry m asid va l base bad tables
    else if l = 4 then .fault causeMalformed
    else
      let bad' := bad || pteReserved w || field w 10 9 == 3 || (w.getLsbD 2 && decide (l ≤ 2)) || readW m (a + 8) != 0
      let t := (w &&& 0x0000_FFFF_FFFF_C000).toNat
      walkFrom m asid va ls t bad' (if bad' then tables else tables ++ [(asid, walkKey va (l + 1), t)])

/-- A table that the walk cache holds. -/
def walkCached (b : Block) (asid va l : Nat) : Option Nat :=
  (b.wcache.find? (fun e => e.1 == asid && e.2.1 == walkKey va l)).map (·.2.2)

/-- One walk at a block, from the deepest table that its walk cache holds; the walker reads nothing for aperture space (R95). -/
def walkOnce (s : State) (blk asid va : Nat) : WalkRes :=
  let b := blockAt s blk
  let root := match ctxOf s asid with
    | some c => c.tab.ptroot
    | none => 0
  if isAperture va then .fault causeAperture
  else if (ctxOf s asid).isNone then .fault causeNotPresent
  else match walkCached b asid va 4, walkCached b asid va 3, walkCached b asid va 2 with
    | some t, _, _ => walkFrom s.mem asid va [4] t false []
    | none, some t, _ => walkFrom s.mem asid va [3, 4] t false []
    | none, none, some t => walkFrom s.mem asid va [2, 3, 4] t false []
    | none, none, none => walkFrom s.mem asid va [1, 2, 3, 4] root false []

/-- The block group of a block (R98). -/
def groupOf (blk : Nat) : Nat := blk / 16 / 2 * 8 + blk % 16 / 2

/-- Steps 4 and 5 of Table 5.5 against a translation. -/
def permFault (e : TEntry) (q : Req) : Option (BitVec 16) :=
  let group := match q.blk with
    | some b => !e.bgm.getLsbD (groupOf b)
    | none => false
  if group then some causeBlockGroup
  else if !q.hive && ((q.r && !e.r) || (q.w && !e.w) || (q.x && !e.x)) then some causePermission
  else if !q.hive && !q.priv && !e.u then some causePermission
  else none

/-- A translation that the block's cache holds. -/
def tlbFind (b : Block) (asid va : Nat) : Option TEntry :=
  b.tcache.find? (fun e => e.asid == asid && decide (e.vpage ≤ va) && decide (va < e.vpage + e.size))

/-- The block with a translation as the most recently used of at most 4,096 (R101). -/
def Block.putEntry (b : Block) (e : TEntry) : Block :=
  { b with tcache := (e :: b.tcache.filter (fun f => !(f.asid == e.asid && f.vpage == e.vpage && f.size == e.size))).take 4096 }

/-- The block without a translation. -/
def Block.dropEntry (b : Block) (e : TEntry) : Block :=
  { b with tcache := b.tcache.filter (fun f => !(f.asid == e.asid && f.vpage == e.vpage && f.size == e.size)) }

/-- The block with the tables of a walk in its walk cache of 256 entries (R101). -/
def Block.putTables (b : Block) (ts : List (Nat × Nat × Nat)) : Block :=
  { b with wcache := (ts ++ b.wcache.filter (fun t => !ts.any (fun u => u.1 == t.1 && u.2.1 == t.2.1))).take 256 }

/-- The atomic OR of a bit into a main word (R104): does the old word match what the walk read? -/
def orPte (s : State) (e : TEntry) (bit : Nat) : Bool × State :=
  let old := readW s.mem e.pte
  (old.getLsbD 0 && (old &&& 0x0000_FFFF_FFFF_C000).toNat == e.leafAddr,
   { s with mem := writeW s.mem e.pte (setBit old bit true) })

/-- A walk that installs its translation; `again` allows one more walk where the comparison of R104 fails. -/
def walkInstallWith (s : State) (blk : Nat) (q : Req) (va : Nat)
    (again : Option (State → State × Except (BitVec 16) TEntry)) : State × Except (BitVec 16) TEntry :=
  match walkOnce s blk q.asid va with
  | .fault c => (s, .error c)
  | .leaf e a tables =>
    match permFault e q with
    | some c => (s, .error c)
    | none =>
      let keep (s1 : State) : State × Except (BitVec 16) TEntry :=
        (setBlock s1 blk (((blockAt s1 blk).putTables tables).putEntry e), .ok e)
      if a then keep s
      else
        let r := orPte s e 7
        match again with
        | some f => if r.1 then keep r.2 else f r.2
        | none => keep r.2

/-- The second walk of R104. -/
def walkAgain (s : State) (blk : Nat) (q : Req) (va : Nat) : State × Except (BitVec 16) TEntry :=
  walkInstallWith s blk q va none

/-- A walk and its installation (R102, R104). -/
def walkInstall (s : State) (blk : Nat) (q : Req) (va : Nat) : State × Except (BitVec 16) TEntry :=
  walkInstallWith s blk q va (some (fun s1 => walkAgain s1 blk q va))

/-- The first write through a translation whose D is 0 (R104). -/
def setDirty (s : State) (blk : Nat) (q : Req) (va : Nat) (e : TEntry) : State × Except (BitVec 16) TEntry :=
  if !q.w || e.d then (s, .ok e)
  else
    let r := orPte s e 8
    let keep (s1 : State) (e1 : TEntry) : State × Except (BitVec 16) TEntry :=
      (setBlock s1 blk ((blockAt s1 blk).putEntry { e1 with d := true }), .ok e1)
    if r.1 then keep r.2 e
    else
      let s2 := setBlock r.2 blk ((blockAt r.2 blk).dropEntry e)
      match walkAgain s2 blk q va with
      | (s3, .error c) => (s3, .error c)
      | (s3, .ok e2) => if e2.d then (s3, .ok e2) else keep (orPte s3 e2 8).2 e2

/-- A translation hit (R103): checks, and D. None where the cache misses. (DEDUCED: log 18.) -/
def translateHit (s : State) (blk : Nat) (q : Req) (va : Nat) : Option (State × Except (BitVec 16) TEntry) :=
  match tlbFind (blockAt s blk) q.asid va with
  | none => none
  | some e =>
    match permFault e q with
    | some c => some (s, .error c)
    | none => some (setDirty (setBlock s blk ((blockAt s blk).putEntry e)) blk q va e)

/-- A translation, or the walk that its miss waited for (R102). (DEDUCED: log 18.) -/
def translateWalk (s : State) (blk : Nat) (q : Req) (va : Nat) : State × Except (BitVec 16) TEntry :=
  match translateHit s blk q va with
  | some r => r
  | none =>
    match walkInstall s blk q va with
    | (s1, .error c) => (s1, .error c)
    | (s1, .ok e) => setDirty s1 blk q va e

/-- A translation with its walk done at once; a miss counts among the slice's walks (R103). (DEDUCED: log 18.) -/
def translate (s : State) (blk : Nat) (q : Req) (va : Nat) : State × Except (BitVec 16) TEntry :=
  let b := blockAt s blk
  translateWalk (if (tlbFind b q.asid va).isNone then setBlock s blk { b with walkStat := b.walkStat + 1 } else s) blk q va

/-- The physical address of an address under its translation. -/
def physOf (e : TEntry) (va : Nat) : Nat := e.frame + (va - e.vpage)

/-- Is a physical address in rim register space (Table 5.1)? -/
def isRim (pa : Nat) : Bool := decide (0xFFFF_0000_0000 ≤ pa)

/-- The ordering kind of an address's page as its table stands; RC where it has none, in aperture space, and for the key of an
aperture piece (R75, R112). -/
def pageKind (s : State) (asid va : Nat) : BitVec 2 :=
  if isAperture va || decide (2 ^ 56 ≤ va) then 0
  else match walkFrom s.mem asid va [1, 2, 3, 4] ((ctxOf s asid).map (·.tab.ptroot) |>.getD 0) false [] with
    | .leaf e _ _ => e.ok
    | .fault _ => 0

/-- U of the page of an address, for what L1 and the instruction buffer keep of it (R97, R253). -/
def pageUser (s : State) (asid va : Nat) : Bool :=
  match walkFrom s.mem asid va [1, 2, 3, 4] ((ctxOf s asid).map (·.tab.ptroot) |>.getD 0) false [] with
  | .leaf e _ _ => e.u
  | .fault _ => false

/-! ## The slice cache (R88 to R92) -/

/-- Bytes of a line from an offset. -/
def lineBytes (d : LineVal) (off n : Nat) : List Byte := leBytes n (d.toNat / 2 ^ (8 * off))

/-- A line with bytes written at an offset. -/
def lineSet (d : LineVal) (off : Nat) (bytes : List Byte) : LineVal :=
  let m : LineVal := BitVec.ofNat 1536 (2 ^ (8 * bytes.length) - 1) <<< (8 * off)
  (d &&& ~~~m) ||| ((BitVec.ofNat 1536 (leNat bytes) <<< (8 * off)) &&& m)

/-- The sectors that a range of a line touches. -/
def sectorsOf (off n : Nat) : BitVec 4 :=
  BitVec.ofNat 4 ((List.range 4).foldl (fun acc k =>
    if off < 48 * (k + 1) ∧ 48 * k < off + n then acc + 2 ^ k else acc) 0)

/-- Bytes of a sector of a line. -/
def sectorLen (lb k : Nat) : Nat := min 48 (lineLen lb - 48 * k)

/-- The sectors that a line has: two in a tail line (R83). -/
def sectorCount (lb : Nat) : Nat := if lineLen lb = 64 then 2 else 4

/-- The whole of a line that memory holds. -/
def hbmLine (m : List Host.Cell) (pa : Nat) : LineVal := BitVec.ofNat 1536 (readLe m pa (lineLen pa))

/-- A line with its missing sectors among `need` filled from HBM (R93, R94): a sector that is there stays. -/
def SliceLine.fill (ln : SliceLine) (s : State) (pa : Nat) (need : BitVec 4) : SliceLine :=
  (List.range (sectorCount pa)).foldl (fun l k =>
    if need.getLsbD k && !l.valid.getLsbD k then
      { l with
        data := lineSet l.data (48 * k) (readBytes s.mem (pa + 48 * k) (sectorLen pa k))
        valid := setBit l.valid k true
        poison := setBit l.poison k (s.poisoned.contains (pa + 48 * k)) }
    else l) ln

/-- A line's dirty sectors written back to HBM, with their poison (R88, R470). -/
def writeBack (s : State) (pa : Nat) (ln : SliceLine) : State :=
  (List.range (sectorCount pa)).foldl (fun st k =>
    if ln.dirty.getLsbD k then
      let a := pa + 48 * k
      let st1 := { st with mem := writeBytes st.mem a (lineBytes ln.data (48 * k) (sectorLen pa k))
                           poisoned := st.poisoned.filter (· != a) }
      if ln.poison.getLsbD k then addPoison st1 a else st1
    else st) s

/-- Does a line await a restore at a block (R140)? -/
def awaitsRestore (b : Block) (pa : Nat) : Bool := b.shadow.any (fun x => x.pa == pa && x.restore.isSome)

/-- A line leaves a slice: dirty sectors are written back, unless the line awaits a restore (R140). -/
def dropLine (s : State) (blk pa : Nat) : State :=
  let b := blockAt s blk
  match mapGet b.lines pa with
  | none => s
  | some ln =>
    let s1 := setBlock s blk { b with lines := mapErase b.lines pa }
    if awaitsRestore b pa then s1 else writeBack s1 pa ln

/-- Lines of cache that a slice has (R13, R88). -/
def cacheLines (b : Block) : Nat := 21504 * (8 - b.bsz)

/-- The set of a line (R88). (DESIGN CHOICE: log 12.) -/
def setOf (b : Block) (blk pa : Nat) : Nat := Config.sliceSet blk pa % (1344 * (8 - b.bsz))

/-- The class a fill installs for a hint; none where it does not install (Table 4.4). Every line that is filled in a pinned window
is pinned, whatever the hint (R90). (DESIGN CHOICE: log 79.) -/
def fillClass (ch : BitVec 3) (pinned : Bool) : Option LineCls :=
  if pinned then some .pinned
  else match ch.toNat with
  | 0 => some .normal
  | 1 => some .keep
  | 2 => some .evictFirst
  | 3 => none
  | 4 => some .normal
  | 5 => none
  | _ => some .keep

/-- The class of a present line after a hint (R91), before the bound on keep lines (R89). -/
def hitClass (ch : BitVec 3) (pinned : Bool) (c : LineCls) : LineCls :=
  if c = .pinned ∨ pinned = true then .pinned
  else match ch.toNat with
    | 1 => .keep
    | 2 => .evictFirst
    | 6 => .keep
    | _ => c

/-- Rank of a class among victims (R89). -/
def LineCls.rank : LineCls → Nat
  | .evictFirst => 0 | .normal => 1 | .keep => 2 | .pinned => 3

/-- Does a line hold a lease now (R157)? -/
def leased (ln : SliceLine) (now : Nat) : Bool := ln.leases.any (fun l => decide (now < l.until_))

/-- The better victim of two lines: lower class, then less recently used. -/
def victimOf (x y : Nat × SliceLine) : Nat × SliceLine :=
  if x.2.cls.rank < y.2.cls.rank ∨ (x.2.cls.rank = y.2.cls.rank ∧ x.2.used ≤ y.2.used) then x else y

/-- The stamp of the next use of a line in a block. -/
def useStamp (b : Block) : Nat := 1 + b.lines.foldl (fun n l => max n l.2.used) 0

/-- The lines of a block that share a line's set, beside the pinned directory (R88, R90). (DESIGN CHOICE: log 79.) -/
def setLines (b : Block) (blk pa : Nat) : List (Nat × SliceLine) :=
  b.lines.filter (fun l => l.2.cls != .pinned && setOf b blk l.1 == setOf b blk pa)

/-- Has a set its 12 keep lines (R89), beside the line at a base? -/
def keepFull (b : Block) (blk pa : Nat) : Bool :=
  decide (12 ≤ ((setLines b blk pa).filter (fun l => l.1 != pa && l.2.cls == .keep)).length)

/-- The class that a set gives a line: a keep line beyond its 12 is normal (R89). -/
def capClass (b : Block) (blk pa : Nat) (c : LineCls) : LineCls := if c = .keep ∧ keepFull b blk pa = true then .normal else c

/-- The victim of a set (R89); none where no line is eligible. -/
def setVictim (s : State) (ls : List (Nat × SliceLine)) : Option (Nat × SliceLine) :=
  match ls.filter (fun l => !leased l.2 s.dev.time) with
  | [] => none
  | v :: vs => some (vs.foldl victimOf v)

/-- The set of a line brought back to its 16 ways after lines came into it that no fill installed (R88): its victim leaves, or the
line itself where the set has none. (DESIGN CHOICE: log 79.) -/
def trimSet (blk : Nat) (s : State) (pa : Nat) : State :=
  let b := blockAt s blk
  if (mapGet b.lines pa).isNone || decide ((setLines b blk pa).length ≤ 16) then s
  else match setVictim s (setLines b blk pa) with
    | some v => dropLine s blk v.1
    | none => dropLine s blk pa

/-- Every set of a slice brought back to its 16 ways. -/
def trimSets (s : State) (blk : Nat) : State := ((blockAt s blk).lines.map (·.1)).foldl (trimSet blk) s

/-- Does the pinned directory hold half of a slice's lines (R90)? -/
def pinsFull (b : Block) : Bool := decide (cacheLines b < 2 * ((b.lines.filter (fun l => l.2.cls == .pinned)).length + 1))

/-- A line comes into a slice under R89 and R90; false where no way is eligible. A fill in a pinned window that finds half of the
slice's lines pinned installs as keep; the slice never holds more than its lines. (DESIGN CHOICE: log 79.) -/
def installLine (s : State) (blk pa va asid : Nat) (cls : LineCls) : State × Bool :=
  let b := blockAt s blk
  let fresh (c : LineCls) (st : State) : State :=
    let b1 := blockAt st blk
    let ln : SliceLine :=
      { va := va, asid := asid, cls := c, valid := 0, dirty := 0, data := 0, poison := 0, used := useStamp b1, leases := [] }
    setBlock st blk { b1 with lines := mapSet b1.lines pa ln }
  if cls = .pinned ∧ pinsFull b = false then
    if b.lines.length < cacheLines b then (fresh .pinned s, true)
    else match setVictim s (b.lines.filter (fun l => l.2.cls != .pinned)) with
      | none => (s, false)
      | some v => (fresh .pinned (dropLine s blk v.1), true)
  else
    let inSet := setLines b blk pa
    let c := capClass b blk pa (if cls = .pinned then .keep else cls)
    if inSet.length < 16 ∧ b.lines.length < cacheLines b then (fresh c s, true)
    else match setVictim s inSet with
      | none => (s, false)
      | some v => (fresh c (dropLine s blk v.1), true)

/-- Is an address in a pinned window of the context (R90)? -/
def inPinned (s : State) (asid va : Nat) : Bool :=
  match windowAt s asid va with
  | some w => w.pin && w.pinned
  | none => false

/-- The line of an access made present with the sectors it needs; false where it is served without a line. A line of a pinned window that
the full pinned directory cannot take is kept, as at a fill. (DESIGN CHOICE: log 79.) -/
def ensureLine (s : State) (blk : Nat) (q : Req) (va pa : Nat) (need : BitVec 4) : State × Bool :=
  let lb := lineBase pa
  let pinned := inPinned s q.asid va
  let b := blockAt s blk
  let touch (st : State) (hit : Bool) : State :=
    let b1 := blockAt st blk
    match mapGet b1.lines lb with
    | none => st
    | some ln =>
      let c0 := hitClass q.ch pinned ln.cls
      let c := capClass b1 blk lb (if c0 = .pinned ∧ ln.cls ≠ .pinned ∧ pinsFull b1 = true then .keep else c0)
      let pins := hit && c == .pinned && ln.cls != .pinned
      let ln0 := if pins then { ln with va := lineBase va, asid := q.asid } else ln
      let ln1 := (if hit then { ln0 with cls := c } else ln0).fill st lb need
      setBlock st blk { b1 with lines := mapSet b1.lines lb { ln1 with used := useStamp b1 } }
  if (mapGet b.lines lb).isSome then (touch s true, true)
  else match fillClass q.ch pinned with
    | none => (s, false)
    | some c =>
      match installLine s blk lb (lineBase va) q.asid c with
      | (s1, true) => (touch s1 false, true)
      | (s1, false) => (s1, false)

/-- The value of a whole line at its home, with its poisoned sectors. -/
def lineValue (s : State) (blk pa : Nat) : LineVal × BitVec 4 :=
  match mapGet (blockAt s blk).lines pa with
  | some ln => let l := ln.fill s pa 0xF; (l.data, l.poison)
  | none =>
    (hbmLine s.mem pa, BitVec.ofNat 4 ((List.range (sectorCount pa)).foldl (fun acc k =>
      if s.poisoned.contains (pa + 48 * k) then acc + 2 ^ k else acc) 0))

/-- Bytes written into a line at its home, or into HBM where the slice does not hold it; poison of whole sectors is
cleared (R470). -/
def putBytes (s : State) (blk pa : Nat) (bytes : List Byte) : State :=
  let lb := lineBase pa
  let off := pa - lb
  let b := blockAt s blk
  match mapGet b.lines lb with
  | none => storeMem s pa bytes
  | some ln0 =>
    let touched := sectorsOf off bytes.length
    let ln := ln0.fill s lb touched
    let whole := (List.range 4).foldl (fun (acc : BitVec 4) k =>
      if off ≤ 48 * k ∧ 48 * k + sectorLen lb k ≤ off + bytes.length then setBit acc k true else acc) 0
    let ln1 := { ln with
      data := lineSet ln.data off bytes, dirty := ln.dirty ||| touched, poison := ln.poison &&& ~~~whole }
    setBlock s blk { b with lines := mapSet b.lines lb ln1 }

/-! ## Copy-on-write and restore (R135 to R140) -/

/-- Does a level's range list hold a line (R133)? -/
def inRanges (lb : Nat) (rs : List (Nat × Nat)) : Bool := rs.any (fun r => decide (r.1 ≤ lb) && decide (lb < r.1 + r.2))

/-- The 1-based numbers of the levels that hold a line, outermost first, with their og. -/
def levelsOf (lv : List Level) (lb : Nat) : List (Nat × Nat) :=
  ((List.range lv.length).zip lv).filterMap (fun kl => if inRanges lb kl.2.ranges then some (kl.1 + 1, kl.2.og) else none)

/-- The shadow state of a line for a context at a block. -/
def shadowOf (b : Block) (asid va pa : Nat) : ShadowLine :=
  (b.shadow.find? (fun x => x.asid == asid && x.pa == pa)).getD
    { asid := asid, va := va, vas := [], pa := pa, lw := 0, e := [], restore := none }

/-- The block with a line's shadow state changed. -/
def Block.putShadow (b : Block) (x : ShadowLine) : Block :=
  { b with shadow := b.shadow.filter (fun y => !(y.asid == x.asid && y.pa == x.pa)) ++ [x] }

/-- One due restore of a line is carried out (R139, R140). -/
def restoreOne (blk : Nat) (s : State) (x : ShadowLine) : State :=
  match x.restore with
  | none => s
  | some v => putBytes (setBlock s blk ((blockAt s blk).putShadow { x with restore := none })) blk x.pa (lineBytes v 0 (lineLen x.pa))

/-- Every restore that a line awaits is carried out (R140, R144). -/
def restoreDue (s : State) (blk pa : Nat) : State :=
  ((blockAt s blk).shadow.filter (fun x => x.pa == pa && x.restore.isSome)).foldl (restoreOne blk) s

/-- What R135 asks of one context before a write: its view, whether it must push, and the level of the push. -/
structure Capture where
  view : SnapView
  shadow : ShadowLine
  push : Option Nat
  deriving DecidableEq, Repr

/-- The captures that a write to a line needs (R135). -/
def capturesOf (b : Block) (va pa : Nat) : List Capture :=
  b.snapViews.filterMap (fun v =>
    let ls := levelsOf v.levels va
    match ls.getLast? with
    | none => none
    | some (c, ogc) =>
      let x := shadowOf b v.asid va pa
      if c > 0 ∧ x.lw < ogc then
        match x.e with
        | t :: _ => if t.lwb = x.lw then some ⟨v, x, none⟩
                    else some ⟨v, x, some (((ls.filter (fun l => decide (l.2 > x.lw))).head?.map (·.1)).getD c)⟩
        | [] => some ⟨v, x, some (((ls.filter (fun l => decide (l.2 > x.lw))).head?.map (·.1)).getD c)⟩
      else some ⟨v, x, none⟩)

/-- Does the quota of a capture's context refuse its push (R137)? -/
def captureRefused (s : State) (c : Capture) : Bool :=
  c.push.isSome && (match ctxOf s c.view.asid with
    | some x => decide (x.tab.shlim ≤ x.shUsed)
    | none => false)

/-- The shadow-exhausted event, once until a push succeeds (R464). -/
def raiseShadow (s : State) (asid lb writer level : Nat) : State :=
  match ctxOf s asid with
  | none => s
  | some c =>
    if c.shRaised then s
    else raiseEvent (setCtx s asid { c with shRaised := true }) asid 9 (BitVec.ofNat 64 lb)
      (BitVec.ofNat 64 (c.tab.shlim % 2 ^ 32 + level * 2 ^ 32 + writer % 2 ^ 16 * 2 ^ 48))

/-- The slots of a context's shadow pool that live entries take (R145). -/
def poolSlots (s : State) (asid : Nat) : List Nat :=
  (s.blocks.map (fun b => ((b.2.shadow.filter (fun x => x.asid == asid)).map (fun x => x.e.map (·.slot))).flatten)).flatten

/-- The lowest slot of a context's shadow pool that no live entry takes. (DESIGN CHOICE: log 81.) -/
def poolFree (s : State) (asid : Nat) : Nat :=
  let used := poolSlots s asid
  ((List.range (used.length + 1)).find? (fun n => !used.contains n)).getD used.length

/-- The shadow line with the level's G as lw, also of the address it was written through (R135, R136). -/
def ShadowLine.wrote (x : ShadowLine) (lb g : Nat) : ShadowLine :=
  { x with lw := g, vas := (lb, g) :: x.vas.filter (fun p => p.1 != lb) }

/-- One capture carried out: the push, its copy in the pool, and lw := G. -/
def captureOne (blk lb : Nat) (value : LineVal) (s : State) (c : Capture) : State :=
  match c.push, ctxOf s c.view.asid with
  | some j, some k =>
    let n := poolFree s c.view.asid
    let x := { c.shadow with e := ⟨j, value, c.shadow.lw, n⟩ :: c.shadow.e }
    let s1 := setBlock s blk ((blockAt s blk).putShadow (x.wrote lb c.view.applied))
    storeMem (setCtx s1 c.view.asid { k with shUsed := k.shUsed + 1, shRaised := false }) (k.tab.shpool + 256 * n)
      (lineBytes value 0 192)
  | some j, none =>
    setBlock s blk ((blockAt s blk).putShadow
      ({ c.shadow with e := ⟨j, value, c.shadow.lw, 0⟩ :: c.shadow.e }.wrote lb c.view.applied))
  | none, _ => setBlock s blk ((blockAt s blk).putShadow (c.shadow.wrote lb c.view.applied))

/-- Copy-on-write before a write to a line; false where a quota refuses (R135, R137). -/
def captureWrite (s : State) (blk va pa writer : Nat) : State × Bool :=
  let lb := lineBase va
  let pl := lineBase pa
  let cs := capturesOf (blockAt s blk) lb pl
  match cs.filter (captureRefused s) with
  | [] => (cs.foldl (captureOne blk lb (lineValue s blk pl).1) s, true)
  | rs => (rs.foldl (fun st c => raiseShadow st c.view.asid lb writer (((levelsOf c.view.levels lb).getLast?.map (·.1)).getD 0)) s, false)

/-! ## An access performed at its home -/

/-- What an access does at its home. -/
inductive HomeOp where
  | read
  | write (bytes : List Byte)
  | rmw (f : List Byte → Option (List Byte))

/-- Does the operation write? -/
def HomeOp.writes : HomeOp → Bool
  | .read => false
  | .write _ => true
  | .rmw _ => true

/-- Does the operation read? -/
def HomeOp.reads : HomeOp → Bool
  | .read => true
  | .write _ => false
  | .rmw _ => true

/-- The answer of a home: bytes read, a cause, or none yet: the access waits and is made again. -/
inductive HomeAns where
  | bytes (l : List Byte)
  | fault (c : BitVec 16)
  | wait
  deriving DecidableEq, Repr

/-- A write to a line with its capture (R135). -/
def writeLine (s : State) (blk : Nat) (q : Req) (va pa : Nat) (bytes : List Byte) : State × HomeAns :=
  match (if q.cow then captureWrite s blk va pa q.asid else (s, true)) with
  | (s1, false) => (s1, .fault causeShadow)
  | (s1, true) => (putBytes (ensureLine s1 blk q va pa 0).1 blk pa bytes, .bytes [])

/-- A read of a line; poison is the data error of unit 0 (R470). -/
def readLine (s : State) (blk : Nat) (q : Req) (va pa n : Nat) : State × HomeAns :=
  let off := pa - lineBase pa
  let need := sectorsOf off n
  let s1 := (ensureLine s blk q va pa need).1
  let v := lineValue s1 blk (lineBase pa)
  if v.2 &&& need != 0 then (s1, .fault causeDataError) else (s1, .bytes (lineBytes v.1 off n))

/-- Is a lease one for a walk point? -/
def Lease.of (l : Lease) (p : Nat × Nat × Nat) : Bool := l.asid == p.1 && l.wid == p.2.1 && l.p == p.2.2

/-- The leases for a core's point on a line end at the core's first access to it, wherever the core stands by then (R157). -/
def endLeases (s : State) (blk pa core : Nat) : State :=
  let b := blockAt s blk
  match mapGet b.lines pa with
  | some ln =>
    if ln.leases.isEmpty then s
    else match pointOf (coreAny s core) with
      | some p =>
        if ln.leases.any (fun l => l.of p) then
          setBlock s blk { b with lines := mapSet b.lines pa { ln with leases := ln.leases.filter (fun l => !l.of p) } }
        else s
      | none => s
  | none => s

/-- Does a physical range meet the saved seed stack of a context, in the area it has or one that it had before, which no master reads
(R405)? (DEDUCED: log 83.) -/
def sealedSeeds (s : State) (pa n : Nat) : Bool :=
  (s.ctxs.map (·.2.tab.eng) ++ s.dev.sealed).any (fun e => decide (e + 0x1_4840 < pa + n) && decide (pa < e + 0x1_4940))

/-- The master of a request: a link port, the Hive, or its context's slot (R408). -/
def reqMaster (s : State) (q : Req) : Nat := q.master.getD (if q.blk.isNone then 0 else masterOf s q.asid)

/-- A translated access within one line performed in HBM or rim space (R88, R94, R126, R409). -/
def performAt (s : State) (blk core : Nat) (mt : Bool) (q : Req) (va : Nat) (e : TEntry) (op : HomeOp) (n : Nat) :
    State × HomeAns :=
  let pa := physOf e va
  let master := reqMaster s q
  let denied (t : Nat) : Bool := (op.reads && !granted s.dev t master false) || (op.writes && !granted s.dev t master true)
  if isRim pa then
    let off := pa - 0xFFFF_0000_0000
    if denied (regTarget off) then (s, .fault causePermission)
    else match op with
      | .read => let r := regRead s off n; (r.2, .bytes r.1)
      | .write bytes => (regWritePart s off core mt bytes (if q.total = 0 then bytes.length else q.total) q.lead, .bytes [])
      | .rmw f =>
        let r := regRead s off n
        match f r.1 with
        | none => (r.2, .bytes r.1)
        | some new => (regWrite r.2 off core mt new, .bytes r.1)
  else if (!q.hive || q.cow) && denied blk then (s, .fault causePermission)
  else if !q.hive && sealedSeeds s pa n then (s, .fault causePermission)
  else
    let s0 := if q.hive then s else endLeases s blk (lineBase pa) core
    let s1 := restoreDue s0 blk (lineBase pa)
    match op with
    | .read => readLine s1 blk q va pa n
    | .write bytes => writeLine s1 blk q va pa bytes
    | .rmw f =>
      match readLine s1 blk q va pa n with
      | (s2, .bytes old) =>
        match f old with
        | none => (s2, .bytes old)
        | some new =>
          match writeLine s2 blk q va pa new with
          | (s3, .bytes _) => (s3, .bytes old)
          | r => r
      | r => r

/-- Is it the turn of a request that waited at a slice's walk queue (R102)? -/
def servedNow (b : Block) (who : Option Latch) : Bool := who.isSome && b.serving == who

/-- Must a miss wait: a walk of its page is pending, every entry of the walk queue is busy, or other misses wait for one (R102)? -/
def walkBusy (s : State) (blk : Nat) (who : Option Latch) (asid va : Nat) : Bool :=
  let b := blockAt s blk
  (tlbFind b asid va).isNone && !servedNow b who &&
  (decide (16 ≤ b.walkq.length) || !b.walkWait.isEmpty || b.walkq.any (fun w => w.asid == asid && w.vpage == va / 65536 * 65536))

/-- A miss of a request, counted among its slice's walks (R103), joins the pending walk of its page, starts one, or waits behind the
others where all 16 entries are busy (R102); one that waits there already stays. While no walk has found a page's size, a page is
its 64 KiB. (DESIGN CHOICE: log 94.) -/
def joinWalk (s : State) (blk : Nat) (who : Latch) (asid va : Nat) : State :=
  let b := { blockAt s blk with walkStat := (blockAt s blk).walkStat + 1 }
  let vp := va / 65536 * 65536
  if b.walkWait.contains who || b.walkq.any (fun w => w.waiters.contains who) then s
  else if b.walkq.any (fun w => w.asid == asid && w.vpage == vp) then
    setBlock s blk { b with walkq := b.walkq.map (fun x =>
      if x.asid = asid ∧ x.vpage = vp then { x with waiters := x.waiters ++ [who] } else x) }
  else if b.walkq.length ≥ 16 ∨ b.walkWait ≠ [] then setBlock s blk { b with walkWait := b.walkWait ++ [who] }
  else post (setBlock s blk { b with walkq := b.walkq ++ [⟨asid, vp, [who]⟩] }) (.translationWalk blk asid vp)

/-- What a request finds at its home's translation: none where it waits at the walk queue. The request of an instruction that has not
issued is not listed there: it has its walk at once where no other miss is ahead of it, else it is made again. (DESIGN CHOICE: log 94.) -/
def translateFor (s : State) (blk : Nat) (q : Req) (va : Nat) : State × Option (Except (BitVec 16) TEntry) :=
  let b := blockAt s blk
  if (tlbFind b q.asid va).isSome || servedNow b q.who then let r := translateWalk s blk q va; (r.1, some r.2)
  else match q.who with
    | some w => (joinWalk s blk w q.asid va, none)
    | none => if walkBusy s blk none q.asid va then (s, none) else let r := translate s blk q va; (r.1, some r.2)

/-- Does an earlier access to a line wait at its home for a fill (R94)? -/
def lineBusy (s : State) (blk pa : Nat) : Bool := s.net.any (fun a => a.stage == .filling blk (lineBase pa))

/-- An access within one line performed at once at its home, with its fill; it waits for its walk (R102) and behind the accesses to
its line (R94) that came before it. An aperture address has no home here (R95). -/
def homeDo (s : State) (core : Nat) (mt : Bool) (q : Req) (va : Nat) (op : HomeOp) (n : Nat) : State × HomeAns :=
  let blk := homeOf s q.asid va
  if isAperture va then (s, .fault causeAperture)
  else match translateFor s blk q va with
  | (s1, none) => (s1, .wait)
  | (s1, some (.error c)) => (s1, .fault c)
  | (s1, some (.ok e)) => if lineBusy s1 blk (physOf e va) then (s1, .wait) else performAt s1 blk core mt q va e op n

/-- Parts of a global read in order; it stops at the first fault. -/
def readParts (core : Nat) (mt : Bool) (q : Req) : List (Nat × Nat × Nat) → State → List Byte → State × HomeAns
  | [], s, acc => (s, .bytes acc)
  | p :: ps, s, acc =>
    match homeDo s core mt q p.1 .read p.2.1 with
    | (s1, .bytes b) => readParts core mt q ps s1 (acc ++ b)
    | r => r

/-- Parts of a global write in order; it stops at the first fault. -/
def writeParts (core : Nat) (mt : Bool) (q : Req) (bytes : List Byte) : List (Nat × Nat × Nat) → State → State × HomeAns
  | [], s => (s, .bytes [])
  | p :: ps, s =>
    match homeDo s core mt q p.1 (.write ((bytes.drop p.2.2).take p.2.1)) p.2.1 with
    | (s1, .bytes _) => writeParts core mt q bytes ps s1
    | r => r

/-! ## An aperture piece at the memory that holds it -/

/-- The core that holds an aperture piece, or the block (R75). -/
def keyHome (k : Nat) : ApHome :=
  if k < 2 ^ 61 then .core ((k - 2 ^ 60) / 2 ^ 17) else .block ((k - 2 ^ 61) / 2 ^ 25)

/-- A message to a core that its debug module has halted (R429): a store to its scratchpad is held. -/
def holdMessage (s : State) (target : Nat) (m : Msg) : State :=
  let b := blockAt s (blockOf target)
  setBlock s (blockOf target) { b with held := b.held ++ [⟨target, m, false⟩] }

/-- The base of the ring slot that a message names in its receiver's scratchpad. -/
def ringSlotOff (k : Core) (h : HReg) (slot : Nat) : Nat := (hget k h).base + (hget k h).z * slot

/-- Bytes that a message takes in a held-message area: 16 and those it brings. (DESIGN CHOICE: log 90.) -/
def msgSize : Msg → Nat
  | .store _ bytes => 16 + bytes.length
  | .send _ _ _ bytes => 16 + bytes.length
  | .commit _ _ => 16
  | .wake => 16

/-- Bytes of a core's held-message area in use. -/
def heldBytes (b : Block) (target : Nat) : Nat :=
  (b.held.filter (fun h => h.core == target)).foldl (fun n h => n + msgSize h.msg) 0

/-- Pages of 4 KiB of the block's pool in use (R429). -/
def heldPages (b : Block) : Nat :=
  let cores := (b.held.map (·.core)).eraseDups
  cores.foldl (fun n c => n + (heldBytes b c + 4095) / 4096) 0

/-- Does the area accept one more message (R429)? -/
def heldAccepts (b : Block) (target : Nat) (m : Msg) : Bool :=
  let after := heldBytes b target + msgSize m
  decide (after ≤ 65536) &&
  decide (heldPages b + ((after + 4095) / 4096 - (heldBytes b target + 4095) / 4096) ≤ 512)

/-- The bytes of a halted core's scratchpad with its held stores and the bytes of held SENDs laid over them (R429). -/
def heldOverlay (k : Core) (b : Block) (target off : Nat) (bytes : List Byte) : List Byte :=
  b.held.foldl (fun acc h =>
    let lay (o : Nat) (bs : List Byte) : List Byte :=
      (acc.zip (List.range acc.length)).map (fun c =>
        let p := off + c.2
        if o ≤ p ∧ p < o + bs.length then bs.getD (p - o) c.1 else c.1)
    if h.core = target then
      match h.msg with
      | .store o bs => lay o bs
      | .send x slot cur bs => lay (ringSlotOff k x slot + cur) bs
      | _ => acc
    else acc) bytes

/-- Do bytes of a halted core's scratchpad come from a held message that an error spoiled (R429, R469)? -/
def heldBad (k : Core) (b : Block) (target off n : Nat) : Bool :=
  b.held.any (fun h =>
    let meets (o z : Nat) : Bool := decide (o < off + n) && decide (off < o + z)
    h.core == target && h.bad &&
    (match h.msg with
      | .store o bs => meets o bs.length
      | .send x slot cur bs => meets (ringSlotOff k x slot + cur) bs.length
      | _ => false))

/-- A gated block is asked to wake for a request, which its always-on domain latches in arrival order (R28, R82, R422). -/
def wakeFor (s : State) (blk : Nat) (req : Option Latch) : State :=
  let b := blockAt s blk
  let s1 := match req with
    | some l => if b.latched.contains l then s else setBlock s blk { b with latched := b.latched ++ [l] }
    | none => s
  if b.waking || s1.pending.contains (.wakeBlock blk none) then s1 else post s1 (.wakeBlock blk none)

/-- Bytes of an aperture piece read, written or exchanged at their home for an access from a core (R75, R78, R79): `f` gives what
is written for the bytes found. A gated block is woken first (R82, R422), a block store's access table is asked (R409), a contained
core turns the access away (R477), a pre-empted one answers remote-absent, a halted one holds what is written (R429). -/
def keyDo (s : State) (core master : Nat) (reads writes : Bool) (req : Option Latch) (key n : Nat)
    (f : List Byte → Option (List Byte)) : State × HomeAns :=
  let old := readBytes s.mem key n
  match keyHome key with
  | .block b =>
    if (blockAt s b).gated then (wakeFor s b req, .wait)
    else if (reads && !granted s.dev b master false) || (writes && !granted s.dev b master true) then (s, .fault causePermission)
    else if reads && poisonedIn s key n then (s, .fault (withKind causeDataError 1))
    else match f old with
      | some new => (storeMem s key new, .bytes old)
      | none => (s, .bytes old)
  | .core c =>
    let k := coreOf s c
    let far := decide (c ≠ core % 2 ^ 20) || decide (2 ^ 20 ≤ core)
    let b := blockOf c
    if far && k.contained then (s, .fault causeContained)
    else if far && k.stopped then (s, .fault causeRemoteAbsent)
    else if far && (blockAt s b).gated then (wakeFor s b req, .wait)
    else if reads && (poisonedIn s key n || (k.dbg.halted && heldBad k (blockAt s b) c ((key - 2 ^ 60) % 2 ^ 17) n)) then
      (s, .fault (withKind causeDataError 1))
    else
      let off := (key - 2 ^ 60) % 2 ^ 17
      let seen := if k.dbg.halted then heldOverlay k (blockAt s b) c off old else old
      match f seen with
      | none => (s, .bytes seen)
      | some new =>
        if far && k.dbg.halted then
          if heldAccepts (blockAt s b) c (.store off new) then (holdMessage s c (.store off new), .bytes seen) else (s, .wait)
        else (storeMem s key new, .bytes seen)

/-- Is an access of a core to an aperture piece performed with no wait: its octet's own memory, of a core that runs (R78, R79)? -/
def padServes (s : State) (core : Nat) (h : ApHome) : Bool :=
  match h with
  | .core c =>
    blockOf c == blockOf core && octetOf c == octetOf core &&
    (c == core || (!(coreOf s c).contained && !(coreOf s c).stopped && !(coreOf s c).dbg.halted))
  | .block _ => false

/-- The pieces of an engine's aperture read in order; it stops at the first that does not answer. -/
def keyReads (core master : Nat) (req : Option Latch) : List ApPiece → State → List Byte → State × HomeAns
  | [], s, acc => (s, .bytes acc)
  | p :: ps, s, acc =>
    match keyDo s core master true false req p.key p.n (fun _ => none) with
    | (s1, .bytes b) => keyReads core master req ps s1 (acc ++ b)
    | r => r

/-- The pieces of an engine's aperture write in order; it stops at the first that does not answer. -/
def keyWrites (core master : Nat) (req : Option Latch) (bytes : List Byte) : List ApPiece → State → State × HomeAns
  | [], s => (s, .bytes [])
  | p :: ps, s =>
    match keyDo s core master false true req p.key p.n (fun _ => some ((bytes.drop p.off).take p.n)) with
    | (s1, .bytes _) => keyWrites core master req bytes ps s1
    | r => r

/-- An engine's read, performed at once (R99): aperture or global. `req` names the operation where a gated block latches it. -/
def engineReadFor (s : State) (core : Nat) (mt : Bool) (q : Req) (req : Option Latch) (va n : Nat) : State × HomeAns :=
  if isAperture va then
    match apPieces s (core % 2 ^ 20) q.asid va n with
    | none => (s, .fault causeAperture)
    | some ps => keyReads core (reqMaster s q) req ps s []
  else readParts core mt { q with r := true } (splitLines va n) s []

/-- An engine's write, performed at once. -/
def engineWriteFor (s : State) (core : Nat) (mt : Bool) (q : Req) (req : Option Latch) (va : Nat) (bytes : List Byte) :
    State × HomeAns :=
  if isAperture va then
    match apPieces s (core % 2 ^ 20) q.asid va bytes.length with
    | none => (s, .fault causeAperture)
    | some ps => keyWrites core (reqMaster s q) req bytes ps s
  else writeParts core mt { q with w := true } bytes (splitLines va bytes.length) s

/-- An engine's read that no block latches. -/
def engineRead (s : State) (core : Nat) (mt : Bool) (q : Req) (va n : Nat) : State × HomeAns := engineReadFor s core mt q none va n

/-- An engine's write that no block latches. -/
def engineWrite (s : State) (core : Nat) (mt : Bool) (q : Req) (va : Nat) (bytes : List Byte) : State × HomeAns :=
  engineWriteFor s core mt q none va bytes

/-- A request of a core's thread or of an engine that it started. -/
def coreReq (s : State) (core : Nat) (priv : Bool) (ch : BitVec 3) : Req :=
  { asid := (coreOf s core).ctx.getD 0, priv := priv, blk := some (blockOf core), ch := ch, r := false, w := false
    x := false, hive := false }

/-- A request of the Hive under a context's translation (R99). -/
def hiveReq (asid : Nat) : Req :=
  { asid := asid, priv := true, blk := none, ch := 0, r := false, w := false, x := false, hive := true }

/-- A request of a sequencer, checked against its own block (R98) and, as a task's is, for U. (DESIGN CHOICE: log 93.) -/
def seqReq (asid blk : Nat) : Req :=
  { asid := asid, priv := false, blk := some blk, ch := 0, r := true, w := false, x := false, hive := false }

/-! ## A word without side effects -/

/-- The bytes at an address as the home holds them now, a restore that is due carried out (R140), with no effect; none where the table
maps nothing or the page lacks a permission. -/
def peekBytes (s : State) (core : Nat) (q : Req) (va n : Nat) : Option (List Byte) :=
  if isAperture va then (apPieces s core q.asid va n).map (readPieces s.mem)
  else if (ctxOf s q.asid).isNone then none
  else match walkFrom s.mem q.asid va [1, 2, 3, 4] ((ctxOf s q.asid).map (·.tab.ptroot) |>.getD 0) false [] with
    | .fault _ => none
    | .leaf e _ _ =>
      if (permFault e q).isSome || isRim (physOf e va) then none
      else
        let pa := physOf e va
        let blk := homeOf s q.asid va
        let v := lineValue (restoreDue s blk (lineBase pa)) blk (lineBase pa)
        some (lineBytes v.1 (pa - lineBase pa) n)

/-- The cause that a read of an address meets where `peekBytes` finds none. -/
def peekCause (s : State) (q : Req) (va : Nat) : BitVec 16 :=
  if isAperture va then causeAperture
  else match walkFrom s.mem q.asid va [1, 2, 3, 4] ((ctxOf s q.asid).map (·.tab.ptroot) |>.getD 0) false [] with
    | .fault c => c
    | .leaf e _ _ => (permFault e q).getD causePermission

/-! ## L1 (R93, R114) -/

/-- Sets of an L1 (R93). -/
def l1Sets (k : Core) : Nat := if k.l1kb = 0 then 0 else k.l1kb / 12 * 16

/-- The L1 line of an address. -/
def l1Find (k : Core) (asid va : Nat) : Option L1Line := k.l1.find? (fun l => l.asid == asid && l.line == lineBase va)

/-- Bytes that the L1 holds, within one line; a task reads no line that came from a page with U = 0 (R253). (DEDUCED: log 21.) -/
def l1Hit (k : Core) (priv : Bool) (asid va n : Nat) : Option (List Byte) :=
  match l1Find k asid va with
  | none => none
  | some l =>
    let off := va - lineBase va
    let need := sectorsOf off n
    if need &&& ~~~l.valid = 0 ∧ (priv || l.u) = true then some (lineBytes l.data off n) else none

/-- The core with the line of an address as the most recently used of its L1 (R93). -/
def Core.l1Touch (k : Core) (asid va : Nat) : Core :=
  match l1Find k asid va with
  | none => k
  | some l => { k with l1 := l :: k.l1.filter (fun m => !(m.asid == l.asid && m.line == l.line)) }

/-- The core with an L1 line as the most recently used; a new line pushes out the least recently used of four ways. -/
def Core.l1Put (k : Core) (l : L1Line) : Core :=
  let rest := k.l1.filter (fun m => !(m.asid == l.asid && m.line == l.line))
  let same (m : L1Line) : Bool := lineNo m.line % max 1 (l1Sets k) == lineNo l.line % max 1 (l1Sets k)
  let victim := if (rest.filter same).length < 4 then none else (rest.filter same).getLast?
  { k with l1 := l :: (match victim with
      | some v => rest.filter (fun m => !(m.asid == v.asid && m.line == v.line))
      | none => rest) }

/-- The sectors of a line of L1 set from a line's value (R93, R114). -/
def L1Line.fillFrom (l : L1Line) (v : LineVal) (need : BitVec 4) : L1Line :=
  (List.range 4).foldl (fun m j =>
    if need.getLsbD j then { m with data := lineSet m.data (48 * j) (lineBytes v (48 * j) 48), valid := setBit m.valid j true }
    else m) l

/-- The core after its L1 got sectors of a line that the home served; `alloc` where a miss allocates (R93, R114). -/
def Core.l1Load (k : Core) (asid va : Nat) (u : Bool) (need : BitVec 4) (v : LineVal) (alloc : Bool) : Core :=
  if l1Sets k = 0 ∨ need = 0 then k
  else
    match l1Find k asid va with
    | some l => k.l1Put (L1Line.fillFrom { l with u := u } v need)
    | none =>
      if alloc then k.l1Put (L1Line.fillFrom { asid := asid, line := lineBase va, u := u, valid := 0, data := 0 } v need) else k

/-- A store updates the sectors it finds in L1, and its line is the most recently used (R93); what it leaves in a sector that is not
there, the sector's fill overwrites. -/
def Core.l1Store (k0 : Core) (asid va : Nat) (bytes : List Byte) : Core :=
  let k := k0.l1Touch asid va
  { k with l1 := k.l1.map (fun l =>
      if l.asid == asid && l.line == lineBase va then { l with data := lineSet l.data (va - l.line) bytes } else l) }

/-- An atomic drops the line's sectors (R114). -/
def Core.l1Drop (k : Core) (asid va : Nat) : Core :=
  { k with l1 := k.l1.filter (fun l => !(l.asid == asid && l.line == lineBase va)) }

/-- An acquire's effect on L1: lines homed in the scope leave (R122). -/
def Core.l1Acquire (k : Core) (s : State) (scope : Word) : Core :=
  { k with l1 := k.l1.filter (fun l => !scopeHasBlock scope (homeOf s l.asid l.line)) }

end Sys2Proof.Machine
end

