-- ==== Sys2Proof/Machine/Access.lean ====
section
/-!
DEFINITION. Accesses of threads between issue and response: the store queue and load slots (R113 to R117, R445), their
order, releases and acquires (R121, R122), an access performed at its home (R94, R101), responses, faults held or logged
(R443 to R452), and replay (R450).
-/

namespace Sys2Proof.Machine

/-! ## Kinds of access -/

/-- Does the access write (R113)? -/
def AccOp.writes : AccOp → Bool
  | .load => false
  | _ => true

/-- Does the access return a value that the thread binds? -/
def AccOp.reads : AccOp → Bool
  | .load => true
  | .atom _ _ => true
  | .cas _ => true
  | _ => false

/-- Is the access an aperture piece, held under its key of memory? -/
def Access.isKey (a : Access) : Bool := decide (2 ^ 60 ≤ a.va)

/-- May the access enter the side log (R449)? -/
def AccOp.logs : AccOp → Bool
  | .store => true
  | .red _ _ => true
  | _ => false

/-- Performed or bound (R111). -/
def Access.performed (a : Access) : Bool :=
  match a.stage with
  | .performed _ => true
  | _ => false

/-- Held in the side log (R449). -/
def Access.logged (a : Access) : Bool :=
  match a.stage with
  | .logged _ => true
  | _ => false

/-- Queued and not sent. -/
def Access.queued (a : Access) : Bool := a.stage == .queued

/-- Held at its boundary or as a pending load (R444, R445). -/
def Access.isHeld (a : Access) : Bool :=
  match a.stage with
  | .held _ => true
  | _ => false

/-- The access with an identifier. -/
def accFind (s : State) (id : Nat) : Option Access := s.net.find? (fun a => a.id == id)

/-- The state with an access changed. -/
def accSet (s : State) (b : Access) : State := { s with net := s.net.map (fun a => if a.id = b.id then b else a) }

/-- The state without an access. -/
def accErase (s : State) (id : Nat) : State := { s with net := s.net.filter (fun a => a.id != id) }

/-- The accesses of a thread. -/
def accsOf (s : State) (core : Nat) (mt : Bool) : List Access := s.net.filter (fun a => a.core == core && a.mt == mt)

/-- Two accesses touch a common byte. -/
def overlap (a b : Access) : Bool :=
  a.asid == b.asid && decide (a.va < b.va + b.n) && decide (b.va < a.va + a.n)

/-- Two accesses lie in one line (R451); aperture pieces have no lines. -/
def sameLine (a b : Access) : Bool :=
  a.asid == b.asid && ((!a.isKey && !b.isKey && lineBase a.va == lineBase b.va) || overlap a b)

/-- Is the access homed in a scope (R119)? -/
def homedIn (s : State) (scope : Word) (a : Access) : Bool :=
  if a.isKey then
    match keyHome a.va with
    | .core c => scopeHasCore scope c
    | .block b => scopeHasBlock scope b
  else scopeHasBlock scope (homeOf s a.asid a.va)

/-! ## Order (R113 to R116, R121) -/

/-- An earlier access that is not performed holds a later one of its thread back. An entry of the log holds back the SO accesses of
its thread where it is an SO store itself (R115), and no access else: those to its line follow it into the log (R451). -/
def holdsBack (a b : Access) : Bool :=
  if b.performed || (b.logged && sameLine a b) then false
  else if a.kind == 1 && b.kind == 1 then true
  else if b.logged then false
  else if overlap a b then true
  else if a.kind == 2 || b.kind == 2 then false
  else a.op.writes

/-- An earlier access that a release scoped to S waits for: every load, whatever its page's kind, and the RC and SO writes homed in
S (R121). (DEDUCED: log 87.) -/
def releaseWaits (s : State) (scope : Word) (b : Access) : Bool :=
  !b.performed && (b.op.reads || (b.op.writes && b.kind != 2 && homedIn s scope b))

/-- The engine operations of a core that runs, or of a saved one under its number. -/
def opsOf (s : State) (core : Nat) : List EngOp :=
  if core < 2 ^ 20 then (coreOf s core).ops else ((allSavedCores s).find? (fun x => x.pos == core)).elim [] (·.core.ops)

/-- The device that an operation writes over a peer link; none for the others (R120). -/
def EOp.peerDev : EOp → Option Nat
  | .peer dev _ _ _ => some dev
  | .coll _ dev _ _ _ _ => some dev
  | _ => none

/-- Does a fabric scope take in a device (R120)? -/
def inFabric (s : State) (scope : Word) (dev : Nat) : Bool :=
  let x := (mapGet s.dev.scope dev).getD 0
  isFabric scope && decide (field x 7 0 ≤ field scope 3 0) && x.getLsbD 63

/-- The phase of an operation that has done its work and awaits its completion on its timeline. -/
def phaseDone : Nat := 255

/-- A release of a thread scoped to S is complete for the accesses numbered below `upTo` (R121) and, at fabric scope, for the core's
peer-link writes numbered below `mark` (R120). -/
def releaseAt (s : State) (core : Nat) (mt : Bool) (scope : Word) (upTo mark : Nat) : Bool :=
  !((accsOf s core mt).filter (fun b => decide (b.seq < upTo))).any (releaseWaits s scope) &&
  (!isFabric scope ||
    !(opsOf s core).any (fun o => decide (o.id < mark) && o.phase != phaseDone && o.op.peerDev.any (inFabric s scope)))

/-- The number that separates the engine operations before a thread's waiting release from those after it: the one the core would
give next, or gave when the wait began. -/
def markOf (k : Core) : Nat := (k.ct.relMark.map (·.2)).getD k.opId

/-- A release that a thread of a core waits for is complete (R121, R120). -/
def releaseDone (s : State) (core : Nat) (mt : Bool) (scope : Word) (upTo : Nat) : Bool :=
  releaseAt s core mt scope upTo (markOf (coreOf s core))

/-- A release of a thread: its scope, the accesses and operations before it by number, and the first access after it. -/
structure Release where
  scope : Word
  upTo : Nat
  mark : Nat
  start : Nat
  deriving DecidableEq, Repr

/-- The releases of a thread that may be pending: those before a store or atomic in flight, those of TLS, and the one at which the
thread waits (R123). -/
def releasesOf (s : State) (core : Nat) (mt : Bool) : List Release :=
  (accsOf s core mt).filterMap (fun b =>
    if b.performed then none else b.rel.map (fun scope => ⟨scope, b.seq, b.opMark, b.seq + 1⟩)) ++
  (if mt then [] else
    (opsOf s core).filterMap (fun o => match o.op with
      | .release scope before => some ⟨scope, before, o.id, before⟩
      | _ => none) ++
    ((coreOf s core).ct.relMark.map (fun r => Release.mk r.1 (coreOf s core).ct.seq r.2 (coreOf s core).ct.seq)).toList)

/-- Does a release of a thread that satisfies a test still wait for something (R121)? -/
def releasePending (s : State) (core : Nat) (mt : Bool) (p : Release → Bool) : Bool :=
  (releasesOf s core mt).any (fun r => p r && !releaseAt s core mt r.scope r.upTo r.mark)

/-- Logged entries that a core holds (R449). -/
def loggedOf (s : State) (core : Nat) : Nat := (s.net.filter (fun a => a.core == core && a.logged)).length

/-- Entries of the pool of a block's hub (R449). -/
def loggedIn (s : State) (blk : Nat) : Nat := (s.net.filter (fun a => blockOf a.core == blk && a.logged)).length

/-- Does a core, or its block's hub, have no room for one more entry of the log (R449)? -/
def logFull (s : State) (core : Nat) : Bool := decide (64 ≤ loggedOf s core) || decide (8192 ≤ loggedIn s (blockOf core))

/-- May a queued access be sent? A write that could enter the log waits while the log is full, and with it every later write of its
thread (R449). (DESIGN CHOICE: log 22, DEDUCED: log 24, DEDUCED: log 73.) -/
def sendable (s : State) (a : Access) : Bool :=
  let before := (accsOf s a.core a.mt).filter (fun b => decide (b.seq < a.seq))
  a.queued && !before.any (holdsBack a) &&
  (match a.rel with
    | none => true
    | some scope => releaseAt s a.core a.mt scope a.seq a.opMark) &&
  !(a.op.writes && releasePending s a.core a.mt (fun r => decide (r.start ≤ a.seq))) &&
  !(a.op.writes && logFull s a.core && (a.op.logs || before.any (fun b => b.queued && b.op.logs)))

/-- A load part that only held loads of the same bytes hold back is sent to its home all the same: there its translation
may fault, and it becomes a pending load too (R445); it is performed after them (R113). -/
def behindHeld (s : State) (a : Access) : Bool :=
  let back := (accsOf s a.core a.mt).filter (fun b => decide (b.seq < a.seq) && holdsBack a b)
  a.queued && !a.isKey && a.rel.isNone && !back.isEmpty && back.all (fun b => b.isHeld && overlap a b) &&
  (match a.op with | .load => true | _ => false)

/-- Writes of a thread that stand in its store queue of 16 (R445). (DEDUCED: log 26.) -/
def queuedWrites (s : State) (core : Nat) (mt : Bool) : Nat :=
  ((accsOf s core mt).filter (fun a => a.op.writes && !a.op.reads && !a.performed && !a.logged)).length

/-- Every earlier load of a thread is bound. (DEDUCED: log 76.) -/
def loadsBound (s : State) (core : Nat) (mt : Bool) : Bool := !(accsOf s core mt).any (fun b => b.op.reads && !b.performed)

/-- FENCE.ALL's conditions for a thread (R340): nothing of it is unperformed and its log is empty. (DEDUCED: log 76.) -/
def fenceAllDone (s : State) (core : Nat) (mt : Bool) : Bool := !(accsOf s core mt).any (fun b => !b.performed)

/-- A release that waits for entries of the side log starts one replay pass (R450). -/
def startPass (s : State) (core : Nat) (mt : Bool) : State :=
  if (accsOf s core mt).any Access.logged then post s (.replayPass core mt) else s

/-- An acquire of the focused core scoped to S (R122). -/
def acquire (s : State) (scope : Word) : State := { s with core := s.core.l1Acquire s scope }

/-- An acquire of any core (R122). -/
def acquireAt (s : State) (core : Nat) (scope : Word) : State := setCore s core ((coreOf s core).l1Acquire s scope)

/-! ## Any thread of any core -/

/-- A thread of a core. -/
def threadOf (s : State) (core : Nat) (mt : Bool) : Thread := if mt then (coreOf s core).mt else (coreOf s core).ct

/-- The state with a thread of a core changed. -/
def setThread (s : State) (core : Nat) (mt : Bool) (t : Thread) : State :=
  let k := coreOf s core
  setCore s core (if mt then { k with mt := t } else { k with ct := t })

/-- The cores that a core's gang mask names, ascending; the core alone outside a gang (R42). (DEDUCED: log 14.) -/
def gangOf (s : State) (core : Nat) : List Nat :=
  let g := (coreOf s core).gang
  let ms := (List.range 8).filter (fun m => g.getLsbD m)
  if ms.length ≤ 1 then [core] else ms.map (octetCore core)

/-- The leader of a core's gang: the lowest member (R43). -/
def leaderOf (s : State) (core : Nat) : Nat := (gangOf s core).headD core

/-- The block in a core's instruction buffer with a header address. -/
def bufBlock (k : Core) (head : Nat) : Option IBlock := k.ibuf.find? (fun b => b.head == head)

/-- The address after the last word of a thread's current block, from the leader's buffer (R201). -/
def blockEnd (s : State) (core : Nat) (mt : Bool) : Option Nat :=
  let l := if mt then core else leaderOf s core
  let t := threadOf s l mt
  (bufBlock (coreOf s l) t.blk.toNat).map (fun b => b.head + 8 * b.words.length)

/-- Does the instruction of n words at a thread's program counter end its block? -/
def endsBlock (s : State) (core : Nat) (mt : Bool) (words : Nat) : Bool :=
  blockEnd s core mt == some ((threadOf s core mt).pc.toNat + 8 * words)

/-- A thread past the instruction of n words at its program counter; `last` where that ends the block. -/
def Thread.step (t : Thread) (words : Nat) (last : Bool) : Thread :=
  { t with pc := t.pc + BitVec.ofNat 64 (8 * words), entry := if last then .header else .word, wait := .none
           waitRaised := false, relPass := false, relMark := none, got := [] }

/-- A waiting thread completes the one-word instruction at its program counter; whether that ends its block was recorded when it began
to wait. -/
def finishWait (s : State) (core : Nat) (mt : Bool) : State :=
  setThread s core mt ((threadOf s core mt).step 1 (threadOf s core mt).parkEnds)

/-! ## Issue of accesses -/

/-- A watchpoint that an access of the core touches halts the core after the instruction (R427). -/
def watch (s : State) (core va n : Nat) (rd wr : Bool) : State :=
  let k := coreOf s core
  let g := k.dbg
  let hit := g.ctl.getLsbD 33 && g.wp.toList.any (fun w =>
    let sz := 2 ^ field w 60 56
    let base := field w 55 0 / sz * sz
    w.getLsbD 63 && ((rd && w.getLsbD 62) || (wr && w.getLsbD 61)) && decide (base < va + n) && decide (va < base + sz))
  if hit ∧ g.halted = false ∧ g.pendHalt = none then setCore s core { k with dbg := { g with pendHalt := some 5 } } else s

/-- An access of the issuing thread before it is numbered. -/
def newAccess (s : State) (op : AccOp) (va addr n : Nat) (data : List Byte) (ch : BitVec 3) (slot off : Nat) : Access :=
  let asid := myAsid s
  { id := s.netId, core := s.me, mt := s.onMt, asid := asid, priv := (thr s).priv, op := op, va := va, addr := addr, n := n
    data := data, ch := ch, slot := slot, off := off, seq := (thr s).seq, whole := (addr, n), arrived := 0, kind := pageKind s asid va, rel := none
    opMark := s.core.opId, eng := false
    snapG := ((myCtx s).map (·.snapG)).getD 0, stage := .queued, trapped := false, reported := false }

/-- An access enters the store queue or is sent. -/
def enqueue (s : State) (a : Access) : State := { s with net := s.net ++ [{ a with id := s.netId }], netId := s.netId + 1 }

/-- The next access of the thread takes the next place in its program order. -/
def nextSeq (s : State) : State := setThr s { thr s with seq := (thr s).seq + 1 }

/-- Does nothing of the thread stand before an access that would be performed at once: no access that holds it back, no entry of the log
that it lies behind (R451), and for a load no load of its bytes whose response is on its way (R114)? -/
def atOnce (s : State) (a : Access) : Bool :=
  !(accsOf s a.core a.mt).any (fun b => holdsBack a b || (b.logged && sameLine a b) || (b.performed && b.op.reads && overlap a b)) &&
  !(a.op.writes && releasePending s a.core a.mt (fun r => decide (r.start ≤ a.seq)))

/-- What the parts of a load came to: bytes bound at once by offset, identifiers of the parts sent. -/
structure LoadParts where
  st : State
  buf : List Byte
  ids : List Nat

/-- Bytes placed in a buffer at an offset. -/
def placeBytes (buf : List Byte) (off : Nat) (bytes : List Byte) : List Byte :=
  buf.take off ++ bytes ++ buf.drop (off + bytes.length)

/-- One part of a load: bound at once from the octet's own memories or L1 where nothing stands before it, else sent. A record that an
engine reads is read at its home. -/
def loadPart (eng : Bool) (ch : BitVec 3) (slot : Nat) (acc : LoadParts) (va addr n off : Nat) : LoadParts :=
  let s := acc.st
  let a := { newAccess s .load va addr n [] ch slot off with eng := eng }
  let now : Option (List Byte) :=
    if eng || !atOnce s a then none
    else if a.isKey then
      if padServes s s.me (keyHome va) && !poisonedIn s va n then some (readBytes s.mem va n) else none
    else l1Hit s.core a.priv a.asid va n
  match now with
  | some b => { acc with st := { s with core := if a.isKey then s.core else s.core.l1Touch a.asid va }, buf := placeBytes acc.buf off b }
  | none => { st := enqueue s a, buf := acc.buf, ids := acc.ids ++ [s.netId] }

/-- The parts of a range in aperture space that stands at an offset of the access. -/
def apParts (s : State) (va n off : Nat) : Option (List (Nat × Nat × Nat × Nat)) :=
  (apPieces s s.me (myAsid s) va n).map (fun ps => ps.map (fun p => (p.key, va + p.off, p.n, off + p.off)))

/-- The parts of a memory access of the issuing thread: address or key, virtual address, bytes, offset; an access that runs on into
aperture space is of apertures from there (R73). None where R74 gives the aperture fault. -/
def partsOf (s : State) (va n : Nat) : Option (List (Nat × Nat × Nat × Nat)) :=
  let ap := 15 * 2 ^ 52
  let glob (k : Nat) := (splitLines va k).map (fun p => (p.1, p.1, p.2.1, p.2.2))
  if isAperture va then apParts s va n 0
  else if va < ap ∧ ap < va + n then (apParts s ap (va + n - ap) (ap - va)).map (fun ps => glob (ap - va) ++ ps)
  else some (glob n)

/-- A load of n bytes at va into offset `base` of the buffer, in program order as one access. -/
def loadRangeFor (eng : Bool) (ch : BitVec 3) (slot base : Nat) (acc : LoadParts) (va n : Nat) : LoadParts :=
  match partsOf acc.st va n with
  | none => acc
  | some ps =>
    let r := ps.foldl (fun a p => loadPart eng ch slot a p.1 p.2.1 p.2.2.1 (base + p.2.2.2)) acc
    { r with st := watch (nextSeq r.st) r.st.me va n true false }

/-- A load of a thread itself. -/
def loadRange (ch : BitVec 3) (slot base : Nat) (acc : LoadParts) (va n : Nat) : LoadParts := loadRangeFor false ch slot base acc va n

/-- One part of a store: performed at once in the octet's own memories where nothing stands before it, else queued; a
global part updates L1 (R93). -/
def storePart (ch : BitVec 3) (va : Nat) (bytes : List Byte) (rel : Option Word) (s : State) (p : Nat × Nat × Nat × Nat) : State :=
  let data := (bytes.drop p.2.2.2).take p.2.2.1
  let a := { newAccess s .store p.1 p.2.1 p.2.2.1 data ch 0 p.2.2.2 with rel := rel, whole := (va, bytes.length) }
  if rel.isNone && a.isKey && padServes s s.me (keyHome p.1) && atOnce s a then storeMem s p.1 data
  else
    let s1 := enqueue s a
    if a.isKey then s1 else { s1 with core := s1.core.l1Store a.asid p.1 data }

/-- A store of bytes at va, in program order as one access. -/
def storeRange (s : State) (ch : BitVec 3) (va : Nat) (bytes : List Byte) (rel : Option Word) : State :=
  match partsOf s va bytes.length with
  | none => s
  | some ps => watch (nextSeq (ps.foldl (storePart ch va bytes rel) s)) s.me va bytes.length false true

/-! ## Load slots (R445) -/

/-- Does the slot belong to LD, LDV or LDX? -/
def Slot.counts (x : Slot) : Bool :=
  match x.dst with
  | .x _ _ => true
  | .v _ => true
  | _ => false

/-- Load slots in use. (DEDUCED: log 26.) -/
def slotsUsed (t : Thread) : Nat := (t.slots.filter Slot.counts).length

/-- An unused slot identifier. (DEDUCED: log 26.) -/
def freshSlot (t : Thread) : Nat := 1 + t.slots.foldl (fun n x => max n x.id) 0

/-- n bytes of a scalar, extended to 64 bits (R330). -/
def scalarOf (bytes : List Byte) (signed : Bool) : Word :=
  let w := 8 * bytes.length
  let v := leNat bytes
  if signed && decide (w < 64) && decide (2 ^ (w - 1) ≤ v) then BitVec.ofInt 64 ((v : Int) - 2 ^ w) else BitVec.ofNat 64 v

/-- A core with the value of a completed load in its destination. -/
def Core.putLoad (k : Core) (mt : Bool) (dst : LoadDst) (buf : List Byte) : Core :=
  let setX (r : XReg) (w : Word) : Core :=
    if mt then { k with mt := k.mt.xset r w } else { k with ct := k.ct.xset r w }
  match dst with
  | .x r sg => setX r (scalarOf buf sg)
  | .v r => { k with v := k.v.set r.toNat (BitVec.ofNat 4096 (leNat buf)) r.isLt }
  | .atomic r sg _ => setX r (scalarOf buf sg)
  | .lda r sg _ => setX r (scalarOf buf sg)
  | .bytes => k

/-- The scope that a completed access acquires (R333, R334). -/
def LoadDst.acquires : LoadDst → Option Word
  | .atomic _ _ a => a
  | .lda _ _ a => some a
  | _ => none

/-- Does the instruction stall its thread until it returns (Table 6.2)? -/
def LoadDst.stalls : LoadDst → Bool
  | .atomic _ _ _ => true
  | .lda _ _ _ => true
  | .bytes => true
  | _ => false

/-- A slot whose parts are all bound: the destination is written, the slot freed, an acquire made, a stalled thread
completes its instruction, or takes the bytes it waits for. -/
def finishSlot (s : State) (core : Nat) (mt : Bool) (x : Slot) : State :=
  let k := (coreOf s core).putLoad mt x.dst x.buf
  let s1 := setCore s core k
  let t := threadOf s1 core mt
  let s2 := setThread s1 core mt { t with slots := t.slots.filter (fun y => y.id != x.id) }
  let s3 := match x.dst.acquires with
    | some scope => acquireAt s2 core scope
    | none => s2
  match x.dst with
  | .bytes => setThread s3 core mt { threadOf s3 core mt with wait := .none, got := x.buf }
  | _ => if x.dst.stalls then finishWait s3 core mt else s3

/-- A part of a load is bound: its bytes enter the slot's buffer. -/
def bindPart (s : State) (a : Access) (bytes : List Byte) : State :=
  let t := threadOf s a.core a.mt
  match t.slots.find? (fun x => x.id == a.slot) with
  | none => s
  | some x =>
    let y := { x with parts := x.parts.filter (· != a.id), buf := placeBytes x.buf a.off bytes }
    if y.parts.isEmpty then finishSlot s a.core a.mt y
    else setThread s a.core a.mt { t with slots := t.slots.map (fun z => if z.id = x.id then y else z) }

/-- A load instruction of the issuing thread has sent its parts: the destination at once, or a slot. -/
def finishLoad (p : LoadParts) (slot : Nat) (dst : LoadDst) : State :=
  let x : Slot := { id := slot, dst := dst, parts := p.ids, buf := p.buf }
  if p.ids.isEmpty then { p.st with core := p.st.core.putLoad p.st.onMt dst p.buf }
  else setThr p.st { thr p.st with slots := (thr p.st).slots ++ [x] }

/-- A trap or a stop taken before an instruction whose access is held at its boundary (R444, R487): the instruction executes
again, so the access and its slot go. -/
def dropHeld (s : State) (core : Nat) (mt : Bool) : State :=
  match (threadOf s core mt).wait with
  | .access slot =>
    let s1 := { s with net := s.net.filter (fun a => !(a.core == core && a.mt == mt && a.slot == slot)) }
    let t := threadOf s1 core mt
    setThread s1 core mt { t with slots := t.slots.filter (fun x => x.id != slot), wait := .none }
  | _ => s

/-! ## Traps that are due (R443) -/

/-- Order of traps due at one boundary: data errors and held faults in the order they arose. A saved core takes its own when it runs
again. -/
def addTrap (s : State) (core : Nat) (mt : Bool) (cause : BitVec 16) (addr : Word) : State :=
  let k := coreAny s core
  let t := if mt then k.mt else k.ct
  let t1 := { t with pendTraps := t.pendTraps ++ [⟨cause, addr⟩] }
  setAny s core (if mt then { k with mt := t1 } else { k with ct := t1 })

/-- Does a cause raise the trap of class H, then T (Table 26.1)? -/
def trapsAfterHold (cause : BitVec 16) : Bool :=
  let c := causeCode cause
  c == causeMalformed || c == causeBlockGroup || c == causePermission || c == causeDataError

/-- Causes that keep an entry in the log without a trap (R450). -/
def quietCause (cause : BitVec 16) : Bool :=
  let c := causeCode cause
  c == causeNotPresent || c == causeRemoteAbsent || c == causeShadow

/-- The access kind of Table 26.2. -/
def accKind (a : Access) (t : Thread) : Nat :=
  match a.op with
  | .load => if (t.slots.find? (fun x => x.id == a.slot)).any (fun x => x.dst.stalls) then 3 else 0
  | .atom _ _ => 3
  | .cas _ => 3
  | .red _ _ => 2
  | _ => 1

/-- A cause as TRAP_CAUSE holds it (R442). -/
def causeFor (s : State) (a : Access) (c : BitVec 16) : BitVec 16 :=
  if c == causeNotPresent || c == causeMalformed || c == causeBlockGroup || c == causePermission then
    withKind c (accKind a (threadOf s a.core a.mt))
  else c

/-- An access, with a load's other parts, has had its first fault reported (R454): one event for a pending load, one for
a side-log entry, one for a held instruction. -/
def markReported (s : State) (a : Access) : State :=
  if a.op.reads then
    { s with net := s.net.map (fun b =>
        if b.core = a.core ∧ b.mt = a.mt ∧ b.slot = a.slot ∧ b.op.reads = true then { b with reported := true } else b) }
  else accSet s { a with reported := true }

/-- Event kind 1 for the first fault of an access; none for shadow exhaustion and remote absence (R454, R464). -/
def reportFault (s : State) (a : Access) (cause : BitVec 16) : State :=
  if a.reported then s
  else
    let s1 := markReported s a
    let c := causeCode cause
    if c == causeShadow || c == causeRemoteAbsent then s1
    else if c == causeDataError then
      raiseEvent s1 a.asid 14 (BitVec.ofNat 64 a.addr)
        (BitVec.ofNat 64 ((cause.toNat / 256 % 8) * 256 + a.core % 2 ^ 20 * 2 ^ 16 + blockOf a.core * 2 ^ 40))
    else raiseEvent s1 a.asid 1 (BitVec.ofNat 64 a.addr) (eventThr cause a.core a.mt)

/-- Does the thread of an access wait in END, which discards its pending loads (R446)? (DEDUCED: log 38.) -/
def endWaits (s : State) (core : Nat) (mt : Bool) : Bool := !mt && (coreOf s core).ct.wait == .ending

/-- The pending-load records of a core's compute thread are discarded (R446). -/
def discardHeld (s : State) (core : Nat) : State :=
  { s with net := s.net.filter (fun a => !(a.core == core && !a.mt && a.op.reads && a.isHeld)) }

/-- The slot that a part of a load belongs to. -/
def slotOfAcc (s : State) (a : Access) : Option Slot := (threadOf s a.core a.mt).slots.find? (fun x => x.id == a.slot)

/-- The other parts of an instruction of access kind 3. -/
def sibling (a b : Access) : Bool := b.core == a.core && b.mt == a.mt && b.slot == a.slot && b.op.reads && b.id != a.id

/-- Every part of an instruction of access kind 3 is held with the one that met a fault: no part of it is performed (R444). -/
def holdWhole (s : State) (a : Access) (cause : BitVec 16) : State :=
  if (slotOfAcc s a).any (fun x => x.dst.stalls) then
    { s with net := s.net.map (fun b => if sibling a b && b.performed then { b with stage := .held cause } else b) }
  else s

/-- A part of a load, or an instruction of access kind 3, meets a fault: it is held (R444, R445). -/
def holdLoad (s : State) (id : Nat) (cause : BitVec 16) : State :=
  match accFind s id with
  | none => s
  | some a =>
    let a1 := { a with stage := .held cause }
    let s1 := reportFault (holdWhole (accSet s a1) a1 cause) a1 cause
    if endWaits s a.core a.mt then accErase s1 id
    else if trapsAfterHold cause && !a.trapped then
      match accFind s1 id with
      | some a2 => addTrap (accSet s1 { a2 with trapped := true }) a.core a.mt cause (BitVec.ofNat 64 a.addr)
      | none => s1
    else s1

/-- An entry of the side log meets a cause: its first fault is reported, and its one trap becomes due (R450, R454). -/
def logMet (s : State) (a : Access) (cause : BitVec 16) : State :=
  let a1 := { a with stage := .logged cause }
  let s1 := reportFault (accSet s a1) a1 cause
  if trapsAfterHold cause && !a.trapped then
    match accFind s1 a.id with
    | some a2 => addTrap (accSet s1 { a2 with trapped := true }) a.core a.mt cause (BitVec.ofNat 64 a.addr)
    | none => s1
  else s1

/-- The store-discarded event and the end of an entry (R450). -/
def discardEntry (s : State) (a : Access) (cause : BitVec 16) : State :=
  raiseEvent (accErase s a.id) a.asid 2 (BitVec.ofNat 64 a.addr) (eventThr cause a.core a.mt)

/-- An entry's first fault, or one that its replay meets: once it has raised its trap, a cause other than the quiet ones discards it
(R450). -/
def replayFault (s : State) (a : Access) (cause : BitVec 16) : State :=
  if quietCause cause || !a.trapped then logMet s a cause else discardEntry s a cause

/-- Does a thread wait in an instruction that is a release, beside those that issue again? -/
def parkedRelease (t : Thread) : Bool :=
  match t.wait with
  | .bar _ false => true
  | .gbar false _ => true
  | .ending => true
  | _ => false

/-- A release that waits already now waits on a new entry of its thread's log too, and that is the first wait on it: a replay pass starts
(R450); one whose instruction issues again starts it then. -/
def passFor (s : State) (a : Access) : State :=
  let t := threadOf s a.core a.mt
  let s1 := if t.relPass then setThread s a.core a.mt { t with relPass := false } else s
  if parkedRelease t || (releasesOf s a.core a.mt).any (fun r => decide (a.seq < r.upTo) && releaseWaits s r.scope a) then
    post s1 (.replayPass a.core a.mt)
  else s1

/-- A store part or RED update that met a fault is recorded in the side log (R449, R450), if it still stands there. -/
def logStore (s : State) (id : Nat) (cause : BitVec 16) : State :=
  match accFind s id with
  | none => s
  | some a => if a.logged then passFor (replayFault s a cause) a else s

/-- A request turned away at the boundary of a contained rectangle is abandoned (R477): a load part reads all ones, a
store is discarded, and the thread takes cause 0x26. -/
def nackContained (s : State) (a : Access) : State :=
  let s1 := addTrap (accErase s a.id) a.core a.mt causeContained (BitVec.ofNat 64 a.addr)
  if a.op.reads then bindPart s1 a (List.replicate a.n 0xFF) else s1

/-- A fault that a home answers: the step that records it follows (rows PENDING_LOAD_FAULT and SIDE_LOG_ENTRY); until
then the part is marked. A store part that finds no room in the log stays in the store queue (R449). -/
def faultAccess (s : State) (a : Access) (c : BitVec 16) : State :=
  let cause := causeFor s a c
  if causeCode c == causeContained then nackContained s a
  else if a.op.reads then post (accSet s { a with stage := .held cause }) (.pendingLoadFault a.id cause)
  else if logFull s a.core then accSet s { a with stage := .queued }
  else post (accSet s { a with stage := .logged cause }) (.sideLogEntry a.id cause)

/-! ## Atomics at the home (R334, R335) -/

/-- F of Table 16.2 on n-byte values. -/
def atomF (op : AtomOp) (signed : Bool) (n old y : Nat) : Nat :=
  let w := 8 * n
  let sg (v : Nat) : Int := if signed ∧ 2 ^ (w - 1) ≤ v then (v : Int) - 2 ^ w else v
  match op with
  | .add => (old + y) % 2 ^ w
  | .and => old &&& y
  | .or => old ||| y
  | .xor => old ^^^ y
  | .min => if sg old ≤ sg y then old else y
  | .max => if sg old ≥ sg y then old else y
  | .xchg => y

/-- What an access writes for the bytes it finds; none where it writes nothing. -/
def accWrites (a : Access) (old : List Byte) : Option (List Byte) :=
  match a.op with
  | .atom op sg => some (leBytes a.n (atomF op sg a.n (leNat old) (leNat a.data)))
  | .cas expect => if old = expect then some a.data else none
  | .store => some a.data
  | .send _ _ _ _ => some a.data
  | _ => none

/-- The operation of an access at its home. -/
def accHomeOp (a : Access) : HomeOp :=
  match a.op with
  | .load => .read
  | .store => .write a.data
  | .atom _ _ => .rmw (accWrites a)
  | .cas _ => .rmw (accWrites a)
  | .send _ _ _ _ => .write a.data
  | _ => .read

/-- The request of an access (R97, R98). -/
def accReq (a : Access) : Req :=
  { asid := a.asid, priv := a.priv, blk := some (blockOf a.core), ch := a.ch, r := a.op.reads, w := a.op.writes, x := false
    hive := false, who := some (.acc a.id), total := a.whole.2, lead := a.addr - a.whole.1 }

/-! ## Performing at the home -/

/-- Do the bytes of an aperture piece still lie in the part of a local memory that its address names, whatever split the core has by
then (R74, R79)? -/
def keyFits (s : State) (a : Access) : Bool :=
  match keyHome a.va, a.op with
  | .block _, _ => true
  | .core _, .send _ _ _ _ => true
  | .core c, _ =>
    let k := coreOf s c
    let off := (a.va - 2 ^ 60) % 2 ^ 17
    if a.addr / 2 ^ 48 % 16 = 1 then decide (padSize k ≤ off) && decide (off + a.n ≤ padSize k + k.win * 1024)
    else decide (off + a.n ≤ padSize k)

/-- What the home of an aperture piece answers to an access. -/
def accKey (s : State) (a : Access) : State × HomeAns :=
  if keyFits s a then keyDo s a.core (masterOf s a.asid) a.op.reads a.op.writes (some (.acc a.id)) a.va a.n (accWrites a)
  else (s, .fault causeAperture)

/-- An entry of the log that an access of its thread lies behind (R451). (DEDUCED: log 73.) -/
def lineLogged (s : State) (a : Access) : Option (BitVec 16) :=
  ((accsOf s a.core a.mt).find? (fun b => decide (b.seq < a.seq) && b.logged && sameLine a b)).bind (fun b =>
    match b.stage with
    | .logged c => some c
    | _ => none)

/-- A miss of an access at a slice. -/
def missWalk (s : State) (blk : Nat) (a : Access) : State :=
  joinWalk (accSet s { a with stage := .walking }) blk (.acc a.id) a.asid a.va

/-- Does an access need sectors that its slice does not hold? -/
def needsFill (s : State) (blk : Nat) (a : Access) (pa : Nat) : Bool :=
  let lb := lineBase pa
  let need := sectorsOf (pa - lb) a.n
  match mapGet (blockAt s blk).lines lb with
  | some ln => a.op.reads && (need &&& ~~~ln.valid) != 0
  | none => a.op.reads && !isRim pa

/-- The answer of a home recorded in its access. -/
def settle (s : State) (a : Access) (ans : HomeAns) : State :=
  match ans with
  | .fault c => faultAccess s a c
  | .bytes b => accSet s { a with stage := .performed b }
  | .wait => s

/-- A load part behind held loads is translated at its home (R101, R445). -/
def checkAhead (s : State) (a : Access) : State :=
  let blk := homeOf s a.asid a.va
  match translateHit s blk (accReq a) a.va with
  | none => missWalk s blk a
  | some (s1, .error c) => faultAccess s1 a c
  | some (_, .ok _) => s

/-- Has a load part behind held loads a translation to look up? -/
def aheadOpen (s : State) (a : Access) : Bool :=
  behindHeld s a &&
  (match translateHit s (homeOf s a.asid a.va) (accReq a) a.va with
    | some (_, .ok _) => false
    | _ => true)

/-- An access waits at a block for a line, behind those that wait there for it already. -/
def waitLine (s : State) (blk lb : Nat) (a : Access) : State :=
  { accSet s { a with stage := .filling blk lb, arrived := s.netId } with netId := s.netId + 1 }

/-- A queued access is performed at its home, waits for a walk, for a fill or behind the accesses to its line that came before it, or
meets a fault (R94, R101, R103). The kind of its page is that of its translation (R112). -/
def performHome (s : State) (id : Nat) : State :=
  match accFind s id with
  | none => s
  | some a =>
    if !sendable s a then s
    else match lineLogged s a with
    | some c =>
      if !a.op.reads then accSet s { a with stage := .logged c }
      else if endWaits s a.core a.mt then accErase s id
      else accSet s { a with stage := .held c }
    | none =>
      if a.isKey then
        let r := accKey s a
        settle r.1 a r.2
      else
        let blk := homeOf s a.asid a.va
        match translateHit s blk (accReq a) a.va with
        | none => missWalk s blk a
        | some (s1, .error c) => faultAccess s1 a c
        | some (s1, .ok e) =>
          let lb := lineBase (physOf e a.va)
          if e.ok ≠ a.kind then accSet s { a with kind := e.ok }
          else if lineBusy s1 blk lb then waitLine s1 blk lb a
          else if needsFill s1 blk a (physOf e a.va) then
            post (waitLine s1 blk lb a) (.hbmFillComplete blk lb a.id)
          else
            let r := performAt s1 blk a.core a.mt (accReq a) a.va e (accHomeOp a) a.n
            settle r.1 a r.2

/-- An access that waits at a block for a line is performed there, or goes back where its home has changed or its page lost its
translation (R94). -/
def lineTurn (s : State) (blk pa : Nat) (a : Access) : State :=
  let s0 := accSet s { a with stage := .queued }
  match translateHit s0 blk (accReq a) a.va with
  | some (s1, .ok e) =>
    if homeOf s a.asid a.va = blk ∧ lineBase (physOf e a.va) = pa then
      let r := performAt s1 blk a.core a.mt (accReq a) a.va e (accHomeOp a) a.n
      settle r.1 a r.2
    else s0
  | _ => s0

/-- The earlier of two accesses that wait for a line. -/
def earlier (x : Option Access) (a : Access) : Option Access :=
  match x with
  | none => some a
  | some b => if a.arrived < b.arrived then some a else some b

/-- The access that has waited longest at a block for a line (R94). -/
def lineHead (s : State) (blk pa : Nat) : Option Access :=
  (s.net.filter (fun a => a.stage == .filling blk pa)).foldl earlier none

/-- The accesses that wait for a line are performed in arrival order, up to one that needs a fill of its own (R94). -/
def serveLine (blk pa : Nat) : Nat → State → State
  | 0, s => s
  | f + 1, s =>
    match lineHead s blk pa with
    | none => s
    | some a => if needsFill s blk a pa then post s (.hbmFillComplete blk pa a.id) else serveLine blk pa f (lineTurn s blk pa a)

/-- A fill arrives at a block: the access that waited for it is performed, then those that came to the line after it (R94). -/
def fillArrives (s : State) (blk pa id : Nat) : State :=
  match accFind s id with
  | none => s
  | some a => if a.stage ≠ .filling blk pa then s else serveLine blk pa s.net.length (lineTurn s blk pa a)

/-- A request that is no access takes its turn at a slice's walk queue: `go` makes it go on. -/
def serveOther (go : State → Latch → State) (blk : Nat) (s : State) (w : Latch) : State :=
  let s1 := go (setBlock s blk { blockAt s blk with serving := some w }) w
  setBlock s1 blk { blockAt s1 blk with serving := none }

/-- One waiter of a walk takes its result; the accesses go on in arrival order (R94, R102). -/
def walkWaiter (go : State → Latch → State) (blk : Nat) (s : State) (w : Latch) : State :=
  match w with
  | .acc id =>
    match accFind s id with
    | none => s
    | some a =>
      match a.op with
      | .red _ _ => serveOther go blk s w
      | _ =>
        match translateWalk s blk (accReq a) a.va with
        | (s1, .error c) => faultAccess s1 a c
        | (s1, .ok e) => performHome (accSet s1 { a with stage := .queued, kind := e.ok }) id
  | _ => serveOther go blk s w

/-- A request that waits for an entry of the walk queue looks its translation up again: it goes on, joins a walk or starts one. -/
def walkNext (go : State → Latch → State) (blk : Nat) (s : State) (w : Latch) : State :=
  match w with
  | .acc id =>
    match accFind s id with
    | none => s
    | some a =>
      if (tlbFind (blockAt s blk) a.asid a.va).isSome then walkWaiter go blk s w else joinWalk s blk w a.asid a.va
  | _ => go s w

/-- The walk of a queue entry ends in one outcome; then those that wait for an entry go on in arrival order (R102). -/
def finishWalk (go : State → Latch → State) (s : State) (blk asid vpage : Nat) : State :=
  let b := blockAt s blk
  match b.walkq.find? (fun w => w.asid == asid && w.vpage == vpage) with
  | none => s
  | some w =>
    let s1 := w.waiters.foldl (walkWaiter go blk)
      (setBlock s blk { b with walkq := b.walkq.filter (fun x => !(x.asid == asid && x.vpage == vpage)) })
    let b1 := blockAt s1 blk
    b1.walkWait.foldl (walkNext go blk) (setBlock s1 blk { b1 with walkWait := [] })

/-! ## Responses -/

/-- A line as its home holds it, with a core's own stores to it that are not performed yet, oldest first: L1 takes no older value of
their bytes (R113). -/
def withOwn (s : State) (core asid va : Nat) (l : BitVec 1536) : BitVec 1536 :=
  (s.net.filter (fun b => b.core == core && b.asid == asid && !b.isKey && b.op == .store && !b.performed &&
      lineBase b.va == lineBase va)).foldl (fun d b => lineSet d (b.va - lineBase b.va) b.data) l

/-- A core's L1 refreshed with the sectors of bytes that a home served, as they stand there now (R93, R114). -/
def refreshL1 (s : State) (core : Nat) (q : Req) (va n : Nat) (alloc : Bool) : State :=
  match peekBytes s core { q with hive := true } (lineBase va) (lineLen (lineBase va)) with
  | some l =>
    setCore s core ((coreOf s core).l1Load q.asid va (pageUser s q.asid va) (sectorsOf (va - lineBase va) n)
      (withOwn s core q.asid va (BitVec.ofNat 1536 (leNat l))) alloc)
  | none => s

/-- Do the bytes of a performed access go to its core yet? Those of an instruction of access kind 3 go once every part is performed
(R444). -/
def responds (s : State) (a : Access) : Bool :=
  !(slotOfAcc s a).any (fun x => x.dst == .bytes) || !s.net.any (fun b => sibling a b && !b.performed)

/-- A response reaches its core (R113, R114): a load part is bound and its sectors refresh L1, an atomic drops the line,
a store is acknowledged. -/
def respond (s : State) (id : Nat) : State :=
  match (accFind s id).filter (responds s) with
  | none => s
  | some a =>
    match a.stage with
    | .performed bytes =>
      let s1 := accErase s id
      match a.op with
      | .load =>
        let s2 := if !a.isKey && !a.eng && a.kind == 0 then refreshL1 s1 a.core (accReq a) a.va a.n (a.ch != 4 && a.ch != 5) else s1
        bindPart s2 a bytes
      | .atom _ _ => bindPart (setCore s1 a.core ((coreOf s1 a.core).l1Drop a.asid a.va)) a bytes
      | .cas _ => bindPart (setCore s1 a.core ((coreOf s1 a.core).l1Drop a.asid a.va)) a bytes
      | _ => s1
    | _ => s

/-! ## Replay (R450) -/

/-- Is a logged store discarded by a reject (R143)? -/
def rejectedSince (s : State) (a : Access) : Bool :=
  match ctxOf s a.asid with
  | none => false
  | some c => c.snapOps.any (fun o =>
      o.2.1 == 2 && decide (a.snapG < o.1) &&
      (match (mapGet c.snapLevels (o.1 - 1)).bind List.getLast? with
        | some lv => decide (lv.og ≤ a.snapG) && inRanges (lineBase a.va) lv.ranges
        | none => false))

/-- One entry of a thread is retried as a fresh access, of the kind that its page has by now (R112): it stays behind the entries that it
must follow, and waits in the store queue for other accesses that hold it back (R113, R115). -/
def replayOne (red : State → Access → State × HomeAns) (s : State) (id : Nat) : State :=
  match accFind s id with
  | none => s
  | some a0 =>
    let a := { a0 with kind := pageKind s a0.asid a0.va }
    if a.logged then
      let before := (accsOf s a.core a.mt).filter (fun b => decide (b.seq < a.seq))
      if before.any (fun b => b.logged && (sameLine a b || holdsBack a b)) then s
      else if before.any (holdsBack a) then accSet s { a with stage := .queued }
      else if rejectedSince s a && !a.isKey && (match a.op with | .store => true | _ => false) then accErase s id
      else
        let r := match a.op with
          | .red _ _ => red s a
          | _ => if a.isKey then accKey s a else homeDo s a.core a.mt { accReq a with who := none } a.va (accHomeOp a) a.n
        match r.2 with
        | .fault c => if causeCode c = causeContained then nackContained r.1 a else replayFault r.1 a (causeFor r.1 a c)
        | .bytes b => accSet r.1 { a with stage := .performed b }
        | .wait => accSet r.1 { a with stage := .queued }
    else match a.stage with
      | .held _ => if (lineLogged s a).isSome || decide (2 ^ 20 ≤ a.core) then s else accSet s { a with stage := .queued, trapped := false }
      | _ => s

/-- A replay pass over the entries and held parts of a thread, oldest first. -/
def replayThread (red : State → Access → State × HomeAns) (s : State) (core : Nat) (mt : Bool) : State :=
  ((accsOf s core mt).filter (fun a => a.logged || a.isHeld)).foldl (fun st a => replayOne red st a.id) s

/-- SIDELOG_STAT of a thread (Table 26.3). -/
def sidelogStat (s : State) (core : Nat) (mt : Bool) : Word :=
  let mine := accsOf s core mt
  let log := mine.filter Access.logged
  let cause := match log with
    | a :: _ => (match a.stage with | .logged c => c.toNat | _ => 0)
    | [] => 0
  let held := (threadOf s core mt).slots.filter (fun x => x.counts && mine.any (fun a => a.isHeld && a.slot == x.id))
  let stall := logFull s core && mine.any (fun a => a.op.logs && a.queued)
  BitVec.ofNat 64 (cause * 2 ^ 48 + (if log.isEmpty then 0 else blockOf core) * 2 ^ 40 + stall.toNat * 2 ^ 16 +
    held.length * 2 ^ 8 + log.length)

end Sys2Proof.Machine
end

