-- ==== Sys2Proof/Machine/Issue.lean ====
section
/-!
DEFINITION. How an instruction issues (R41, R44, R194, R196, R201, R205, R210, R443, R447): the checks around its effect,
gangs, fall-through and transfers; and how the word at a thread's program counter comes to issue: blocks entered and
refetched (R201 to R204), traps taken at a boundary, decode faults (Table 10.9).
-/

namespace Sys2Proof.Machine

/-- The registers an instruction reads and writes. -/
structure Uses where
  xr : List XReg := []
  xw : List XReg := []
  vr : List VReg := []
  vw : List VReg := []
  vk : List VReg := []     -- written in part by what memory holds: an error of it stands (R470)
  kr : List KReg := []
  kw : List KReg := []
  pr : List PReg := []
  pw : List PReg := []
  deriving DecidableEq, Repr

/-- An optional register as a list. -/
def optReg {α : Type} : Option α → List α
  | none => []
  | some r => [r]

/-- Does a load of the thread still await a register that the instruction reads or writes (R196, R445)? (DEDUCED: log 15.) -/
def awaited (t : Thread) (u : Uses) : Bool :=
  t.slots.any (fun x =>
    match x.dst with
    | .x r _ => r != 0 && (u.xr.contains r || u.xw.contains r)
    | .v r => u.vr.contains r || u.vw.contains r || u.vk.contains r
    | _ => false)

/-- Does the instruction read a register with an uncorrectable error (R470)? (DEDUCED: log 30.) -/
def readsPoison (k : Core) (mt : Bool) (u : Uses) : Bool :=
  (k.xPoison != 0 && u.xr.any (fun r => k.xPoison.getLsbD (r.toNat + if mt then 32 else 0))) ||
  (k.vPoison != 0 && u.vr.any (fun r => k.vPoison.getLsbD r.toNat)) ||
  (k.kPoison != 0 && u.kr.any (fun r => k.kPoison.getLsbD r.toNat)) ||
  (k.pPoison != 0 && u.pr.any (fun r => k.pPoison.getLsbD (r.toNat + if mt then 8 else 0)))

/-- Does a guard name a predicate with an uncorrectable error? -/
def guardPoison (k : Core) (mt : Bool) (h : Hdr) : Bool :=
  k.pPoison != 0 && [h.g0, h.g1].any (fun g => k.pPoison.getLsbD (g.toNat % 8 + if mt then 8 else 0))

/-- A register that an instruction writes holds a good value again. -/
def clearPoison (k : Core) (mt : Bool) (u : Uses) : Core :=
  if k.xPoison = 0 ∧ k.vPoison = 0 ∧ k.kPoison = 0 ∧ k.pPoison = 0 then k
  else
    { k with
      xPoison := u.xw.foldl (fun p r => setBit p (r.toNat + if mt then 32 else 0) false) k.xPoison
      vPoison := u.vw.foldl (fun p r => setBit p r.toNat false) k.vPoison
      kPoison := u.kw.foldl (fun p r => setBit p r.toNat false) k.kPoison
      pPoison := u.pw.foldl (fun p r => setBit p (r.toNat + if mt then 8 else 0) false) k.pPoison }

/-- Guard(g) of the issuing thread (R194). -/
def guardBit (t : Thread) (g : BitVec 4) : Bool := t.pget (g.setWidth 3) != g.getLsbD 3

/-- Both guards of an instruction (R194). -/
def guards (t : Thread) (h : Hdr) : Bool := guardBit t h.g0 && guardBit t h.g1

/-- Does a member of a gang execute an instruction: by its own guards, or by the leader's where all of it is control (R44)? (DEDUCED: log 14.) -/
def memberTakes (inf : Info) (h : Hdr) (s : State) (c : Nat) : Bool :=
  guards (threadOf s (if inf.led then leaderOf s c else c) false) h

/-- Is the timer trap due (R255)? -/
def timerDue (s : State) (k : Core) : Bool := decide (k.timerCmp.toNat ≤ s.dev.time) && !k.ct.priv

/-- The request of an instruction fetch (R204). -/
def fetchReq (s : State) (core : Nat) (priv : Bool) : Req := { coreReq s core priv 0 with x := true }

/-- The same as a thread sends it: a slice's walk queue lists it (R102). -/
def threadFetch (s : State) (core : Nat) (mt priv : Bool) : Req := { fetchReq s core priv with who := some (.fetch core mt) }

/-- The word at an address as the thread's buffer or the address's home holds it, with no effect; 0 where neither does. -/
def probeWord (s : State) (core : Nat) (t : Thread) (a : Word) : Word :=
  match (bufBlock (coreOf s core) t.blk.toNat).bind (fun b =>
      if b.head ≤ a.toNat then b.words[(a.toNat - b.head) / 8]? else none) with
  | some w => w
  | none =>
    match peekBytes s core (fetchReq s core t.priv) a.toNat 8 with
    | some bs => BitVec.ofNat 64 (leNat bs)
    | none => 0

/-- Is the word at an address a block header (R201)? None where it cannot be fetched; an address that is not that of a
word is no header. (DEDUCED: log 21.) -/
def headerAt (s : State) (core : Nat) (t : Thread) (a : Word) : Option Bool :=
  if a.toNat % 8 ≠ 0 ∨ 2 ^ 56 ≤ a.toNat then some false
  else if (bufBlock (coreOf s core) a.toNat).isSome then some true
  else (peekBytes s core (fetchReq s core t.priv) a.toNat 8).map (fun bs => isHeader (BitVec.ofNat 64 (leNat bs)))

/-- The members that issue with the issuing thread: its gang, or the core alone (R44). -/
def issueSet (s : State) : List Nat := if s.onMt then [s.me] else gangOf s s.me

/-- A trap of every core of a list at its program counter, each with its own cause (R447). -/
def trapAll (s : State) (ms : List Nat) (f : Nat → BitVec 16 × Word) : State :=
  ms.foldl (fun st c =>
    let t := threadOf st c s.onMt
    setThread st c s.onMt (t.trapEnter (f c).1 t.pc (t.entry != .word) (f c).2 (cycleNow st (blockOf c)))) s

/-- A trap of one core of a gang: the others record the partner cause (R447). -/
def trapWith (s : State) (ms : List Nat) (who : Nat) (cause : BitVec 16) (addr : Word) : State :=
  trapAll s ms (fun c => if c = who then (cause, addr) else (causePartner, 0))

/-- The cycle of an issue and the y of its instruction are recorded (R196, R197). -/
def noteCycle (s : State) (h : Hdr) : State :=
  setThr s { thr s with lastIssue := cycleNow s (blockOf s.me), yielded := h.y == 1, bkptSkip := none }

/-- The issue of an instruction that completes is recorded: its cycle, its y, and the step of a debugger (R426). -/
def noteIssue (s : State) (h : Hdr) : State :=
  let s1 := setThr s { thr s with lastIssue := cycleNow s (blockOf s.me), yielded := h.y == 1, waitKept := none, bkptSkip := none }
  let g := s1.core.dbg
  let g1 := if g.step && !s.onMt then { g with step := false, pendHalt := some 2 } else g
  { s1 with core := { s1.core with dbg := g1 } }

/-- A debugger's step ends too where the instruction waits or traps (R426). -/
def stepDone (s : State) : State :=
  let g := s.core.dbg
  if g.step && !s.onMt then
    { s with core := { s.core with dbg := { g with step := false, pendHalt := some (g.pendHalt.getD 2) } } }
  else s

/-- The issuing thread moves past an instruction of n words. -/
def retire (s : State) (words : Nat) : State :=
  setThr s ((thr s).step words (endsBlock s s.me s.onMt words))

/-- The issuing thread transfers control to a block (R201). -/
def enterAt (s : State) (target : Word) : State :=
  setThr s { thr s with pc := target, entry := .header, wait := .none, waitRaised := false, relPass := false, relMark := none, got := [] }

/-- The header that the instruction would fall into, with whether the word there is no header (R201). (DEDUCED: log 15.) -/
def badFall (s : State) (words : Nat) : Option Word :=
  if endsBlock s s.me s.onMt words then
    let l := if s.onMt then s.me else leaderOf s s.me
    let t := threadOf s l s.onMt
    let a := t.pc + BitVec.ofNat 64 (8 * words)
    if headerAt s l t a == some false then some a else none
  else none

/-- The boundary after a TRAP or BKPT (R270): its address, and whether it is a header. -/
def boundaryAfter (s : State) (words : Nat) : Word × Bool :=
  ((thr s).pc + BitVec.ofNat 64 (8 * words), endsBlock s s.me s.onMt words)

/-- Effect and retirement on the focused core once every check has passed; `fall` is the fall-through address that holds
no header. -/
def conclude (inf : Info) (h : Hdr) (u : Uses) (s : State) (r : Res) : State :=
  let clear (st : State) : State := { st with core := clearPoison st.core st.onMt u }
  match r with
  | .done s1 => noteIssue (retire (clear s1) inf.words) h
  | .jump s1 a => noteIssue (enterAt (clear s1) a) h
  | .goto s1 => noteIssue (clear s1) h
  | .wait => s
  | .park s1 =>
    let ends := endsBlock s s.me s.onMt inf.words
    stepDone (noteCycle (setThr s1 { thr s1 with parkEnds := ends }) h)
  | .again s1 => s1
  | .trap c a => stepDone (takeTrap s c (thr s).pc false a)
  | .after s1 c a =>
    let b := boundaryAfter s inf.words
    noteIssue (takeTrap s1 c b.1 b.2 a) h

/-- One core issues outside a gang. -/
def issueOne (inf : Info) (h : Hdr) (u : Uses) (body : State → Res) (s : State) : State :=
  let t := thr s
  if awaited t u then s
  else if guardPoison s.core s.onMt h then takeTrap (errorFound 2 s s.me) (withKind causeDataError 2) t.pc false 0
  else if !guards t h then
    match badFall s inf.words with
    | some a => takeTrap s causeBlockStructure t.pc false a
    | none => noteIssue (retire s inf.words) h
  else if readsPoison s.core s.onMt u then takeTrap (errorFound 2 s s.me) (withKind causeDataError 2) t.pc false 0
  else match (if inf.transfer then none else badFall s inf.words) with
  | some a => takeTrap s causeBlockStructure t.pc false a
  | none =>
    match body s with
    | .jump s1 a =>
      if headerAt s s.me t a == some false then takeTrap s causeBranchTarget t.pc false a
      else conclude inf h u s (.jump s1 a)
    | r => conclude inf h u s r

/-- Does a member of a gang find a register error? -/
def memberHurt (inf : Info) (h : Hdr) (u : Uses) (s : State) (c : Nat) : Bool :=
  guardPoison (coreOf s c) false h || (memberTakes inf h s c && readsPoison (coreOf s c) false u)

/-- What a member of a gang contributes before any effect begins. -/
def memberTrap (inf : Info) (h : Hdr) (u : Uses) (body : State → Res) (s : State) (c : Nat) : Option (BitVec 16 × Word) :=
  let sc := focusOn s c false
  if memberHurt inf h u s c then some (withKind causeDataError 2, 0)
  else if !memberTakes inf h s c then none
  else match body sc with
    | .trap cause a => some (cause, a)
    | _ => none

/-- Does a member of a gang hold the gang before any effect begins? -/
def memberWaits (inf : Info) (h : Hdr) (body : State → Res) (s : State) (c : Nat) : Bool :=
  let sc := focusOn s c false
  memberTakes inf h s c && (match body sc with | .wait => true | .again _ => true | _ => false)

/-- What a member that executes again later has begun while its gang holds. -/
def memberAgain (inf : Info) (h : Hdr) (body : State → Res) (s : State) (c : Nat) : State :=
  let sc := focusOn s c false
  if !memberTakes inf h s c then s
  else match body sc with
    | .again s1 => s1
    | _ => s

/-- Does a member of a gang execute an instruction that traps after itself (class A of R443)? -/
def memberAfter (inf : Info) (h : Hdr) (body : State → Res) (s : State) (c : Nat) : Bool :=
  let sc := focusOn s c false
  memberTakes inf h s c && (match body sc with | .after _ _ _ => true | _ => false)

/-- The effect of one member of a gang; control follows the leader's target `tgt` (R44). Where another member traps after the
instruction (`soft`), a member whose guard is false takes the partner cause at the same boundary. (DEDUCED: log 14.) -/
def memberDo (inf : Info) (h : Hdr) (u : Uses) (body : State → Res) (soft : Bool) (tgt : Option Word) (s : State) (c : Nat) :
    State :=
  let sc := focusOn s c false
  let moved (st : State) : State :=
    match tgt with
    | some a => noteIssue (enterAt st a) h
    | none => noteIssue (retire st inf.words) h
  if !memberTakes inf h s c then
    if soft then
      let b := boundaryAfter sc inf.words
      noteIssue (takeTrap sc causePartner b.1 b.2 0) h
    else moved sc
  else match body sc with
    | .done s1 => moved { s1 with core := clearPoison s1.core false u }
    | .jump s1 _ => moved { s1 with core := clearPoison s1.core false u }
    | r => conclude inf h u sc r

/-- The members of a gang act in member order; a member whose value checks fail after what the members before it do (a second
REDO of one session) is listed with its fault. (DEDUCED: log 14.) -/
def gangActs (inf : Info) (h : Hdr) (u : Uses) (body : State → Res) (soft : Bool) (tgt : Option Word) (s : State) :
    List Nat → State × List (Nat × BitVec 16 × Word)
  | [] => (s, [])
  | c :: cs =>
    let sc := focusOn s c false
    let fault : List (Nat × BitVec 16 × Word) :=
      if memberTakes inf h s c then
        match body sc with
        | .trap cause a => [(c, cause, a)]
        | _ => []
      else []
    let r := gangActs inf h u body soft tgt (memberDo inf h u body soft tgt s c) cs
    (r.1, fault ++ r.2)

/-- The effect of a gang's instruction: no member performs any part of it where a member's check fails (R44, R447). -/
def gangEffect (inf : Info) (h : Hdr) (u : Uses) (body : State → Res) (soft : Bool) (tgt : Option Word) (ms : List Nat)
    (s : State) : State :=
  let r := gangActs inf h u body soft tgt s ms
  if r.2.isEmpty then focusOn r.1 s.me s.onMt
  else trapAll s ms (fun c => ((r.2.find? (fun f => f.1 == c)).map (·.2)).getD (causePartner, 0))

/-- A gang issues: every member's checks precede every member's effect, and control follows the leader (R44, R447). The check of
the header that follows the block precedes what any member sends (R201). -/
def issueGang (inf : Info) (h : Hdr) (u : Uses) (body : State → Res) (ms : List Nat) (s : State) : State :=
  let lead := ms.headD s.me
  let sl := focusOn s lead false
  let tgt : Option Word :=
    if guards (thr sl) h then
      match body sl with
      | .jump _ a => some a
      | _ => none
    else none
  let soft := ms.any (memberAfter inf h body s)
  let falls := if soft || tgt.isSome || (inf.transfer && guards (thr sl) h) then none else badFall sl inf.words
  let traps (st : State) : State := trapAll st ms (fun c => (memberTrap inf h u body s c).getD (causePartner, 0))
  if ms.any (fun c => awaited (threadOf s c false) u) then s
  else if ms.any (memberHurt inf h u s) then traps ((ms.filter (memberHurt inf h u s)).foldl (errorFound 2) s)
  else match falls with
  | some a => trapWith s ms lead causeBlockStructure a
  | none =>
    if ms.any (fun c => (memberTrap inf h u body s c).isSome) then traps s
    else if ms.any (memberWaits inf h body s) then focusOn (ms.foldl (memberAgain inf h body) s) s.me s.onMt
    else if tgt.any (fun a => headerAt sl lead (thr sl) a == some false) then trapWith s ms lead causeBranchTarget (tgt.getD 0)
    else gangEffect inf h u body soft tgt ms s

/-- The issue of an instruction by the issuing thread (Table 10.9 orders 2 and 3, R194, R205, R210). (DEDUCED: log 8.) -/
def issueS (inf : Info) (h : Hdr) (u : Uses) (body : State → Res) (s : State) : State :=
  let t := thr s
  let ms := issueSet s
  let word := probeWord s s.me t t.pc
  if !(if s.onMt then inf.thr.movement else inf.thr.compute) then trapAll s ms (fun _ => (causeIllegalThread, word))
  else if inf.priv && ms.any (fun c => !(threadOf s c s.onMt).priv) then
    trapAll s ms (fun c => if (threadOf s c s.onMt).priv then (causePartner, 0) else (causePrivilege, word))
  else if ms.length ≤ 1 then issueOne inf h u body s
  else issueGang inf h u body ms s

/-- The issue of an instruction as an outcome. (DESIGN CHOICE: log 7, DEDUCED: log 14, DEDUCED: log 15.) -/
def issue (inf : Info) (h : Hdr) (u : Uses) (body : State → Res) (s : State) : Host.Outcome State Fault Refusal :=
  .next (issueS inf h u body s)

/-! ## Blocks (R201 to R204) -/

/-- Bytes of a block in the instruction buffer. -/
def blockBytes (b : IBlock) : Nat := 8 * b.words.length

/-- The blocks kept from the front of the buffer within its 4 KiB (R204, R266). -/
def keepBlocks : List IBlock → Nat → List IBlock
  | [], _ => []
  | b :: bs, room => if blockBytes b ≤ room then b :: keepBlocks bs (room - blockBytes b) else []

/-- The core with a block as the most recently entered. -/
def Core.putBlock (k : Core) (b : IBlock) : Core :=
  { k with ibuf := keepBlocks (b :: k.ibuf.filter (fun c => c.head != b.head)) 4096 }

/-- A fetch of bytes through their homes (R204). -/
def fetchBytes (s : State) (core : Nat) (mt priv : Bool) (a n : Nat) : State × HomeAns :=
  if isAperture a then (s, .fault causeAperture)
  else readParts core false (threadFetch s core mt priv) (splitLines a n) s []

/-- A fetch fault's cause (Table 26.2 kind 4, R470 unit 4). -/
def fetchCause (c : BitVec 16) : BitVec 16 :=
  if c == causeAperture then c else withKind (causeCode c) 4

/-- What the fetch of a block came to. -/
inductive BlockRes where
  | ok (s : State)
  | fault (s : State) (cause : BitVec 16) (addr : Word)
  | noHeader (s : State)
  | empty (s : State)
  | wait (s : State)

/-- A block in the leader's instruction buffer, fetched where it is not there; a task uses no block that came from a page with
U = 0 (R253). (DEDUCED: log 21.) -/
def fetchBlock (s : State) (core : Nat) (mt priv : Bool) (a : Word) : BlockRes :=
  let k := coreOf s core
  match (bufBlock k a.toNat).filter (fun b => priv || b.u) with
  | some b =>
    if b.words.length ≤ 1 then .empty s else .ok (setCore s core (k.putBlock b))
  | none =>
    if a.toNat % 8 ≠ 0 ∨ 2 ^ 56 ≤ a.toNat then .noHeader s
    else match fetchBytes s core mt priv a.toNat 8 with
    | (s1, .wait) => .wait s1
    | (s1, .fault c) => .fault s1 (fetchCause c) a
    | (s1, .bytes bs) =>
      let w : Word := BitVec.ofNat 64 (leNat bs)
      if !isHeader w then .noHeader s1
      else
        let len := (Header.ofWord w).len.toNat
        if len = 0 then .empty s1
        else match fetchBytes s1 core mt priv (a.toNat + 8) (8 * len) with
        | (s2, .wait) => .wait s2
        | (s2, .fault c) => .fault s2 (fetchCause c) a
        | (s2, .bytes body) =>
          let ws := (List.range len).map (fun i => BitVec.ofNat 64 (leNat ((body.drop (8 * i)).take 8)))
          let user := pageUser s2 ((coreOf s2 core).ctx.getD 0) a.toNat && pageUser s2 ((coreOf s2 core).ctx.getD 0) (a.toNat + 8 * len)
          .ok (setCore s2 core ((coreOf s2 core).putBlock ⟨a.toNat, w :: ws, user, false⟩))

/-- A counter increment at its home, as an atomic add (R435). -/
def countAt (core : Nat) (s : State) (c : Nat × Nat) : State × HomeAns :=
  let q := { coreReq s core (threadOf s core false).priv 0 with r := true, w := true }
  homeDo s core false q c.1 (.rmw (fun old => some (leBytes 8 (leNat old + c.2)))) 8

/-- Must an increment that a core gathered wait at its home? -/
def countsWait (s : State) (core : Nat) : Bool := (coreOf s core).cnt.any (fun c => (countAt core s c).2 == .wait)

/-- A counter increment performed; one that faults is dropped and sets cdrop, one that must wait stays gathered (R435). -/
def flushCount (core : Nat) (s : State) (c : Nat × Nat) : State :=
  match countAt core s c with
  | (s1, .bytes _) => s1
  | (s1, .wait) => let k := coreOf s1 core; setCore s1 core { k with cnt := mapSet k.cnt c.1 ((mapGet k.cnt c.1).getD 0 + c.2) }
  | (s1, .fault _) =>
    let k := coreOf s1 core
    setCore s1 core { k with dbg := { k.dbg with ctl := setBit k.dbg.ctl 39 true } }

/-- Every gathered increment is performed (R435). -/
def flushCounts (s : State) (core : Nat) : State :=
  let k := coreOf s core
  k.cnt.foldl (flushCount core) (setCore s core { k with cnt := [] })

/-- The read of the counter index of a block (R435). -/
def countIndex (s : State) (core : Nat) (priv : Bool) (head : Word) : State × HomeAns :=
  let c := ((coreOf s core).cntBase &&& 0x00FF_FFFF_FFFF_FFF8).toNat
  engineRead s core false (coreReq s core priv 0) (c + 4 * (head.toNat / 8 % 2 ^ 24)) 4

/-- Must the count of a block wait: for its index, or for room among the increments gathered? The state then, with the wait begun. -/
def countGate (s : State) (core : Nat) (priv : Bool) (head : Word) : Option State :=
  let k := coreOf s core
  if !k.cntBase.getLsbD 0 then none
  else if k.cnt.length ≥ 8 ∧ countsWait s core = true then some s
  else match countIndex s core priv head with
    | (s1, .wait) => some s1
    | _ => none

/-- The block counter of a header with cnt = 1 (R435). -/
def countEntry (s : State) (core : Nat) (priv : Bool) (head : Word) : State :=
  let k := coreOf s core
  if !k.cntBase.getLsbD 0 then s
  else
    let c := (k.cntBase &&& 0x00FF_FFFF_FFFF_FFF8).toNat
    match countIndex s core priv head with
    | (s1, .wait) => s1
    | (s1, .fault _) =>
      let k1 := coreOf s1 core
      setCore s1 core { k1 with dbg := { k1.dbg with ctl := setBit k1.dbg.ctl 39 true } }
    | (s1, .bytes b) =>
      let ix := leNat b
      if ix = 0xFFFF_FFFF then s1
      else
        let a := c + 0x400_0000 + 8 * ix
        let s2 := if (coreOf s1 core).cnt.length ≥ 8 ∧ (mapGet (coreOf s1 core).cnt a).isNone then flushCounts s1 core else s1
        let k2 := coreOf s2 core
        setCore s2 core { k2 with cnt := mapSet k2.cnt a ((mapGet k2.cnt a).getD 0 + 1) }

/-- CYCLE of a core (R274). (DEDUCED: log 72.) -/
def cycleOf (s : State) (core : Nat) : Nat := cycleNow s (blockOf core) - (coreOf s core).cycleFrom

/-- A block-entry trace record of a core whose debug module enables them (Table 21.3). -/
def traceEntry (s : State) (core : Nat) (mt : Bool) (head w : Word) : State :=
  if (coreOf s core).dbg.ctl.getLsbD 32 then
    traceAdd s (blockOf core) 1 (traceWord0 1 mt (slotOf s core) core 0) head
      (BitVec.ofNat 32 (cycleOf s core) ++ (Header.ofWord w).live)
  else s

/-- The cores that move together with a thread: the gang of a compute thread, else the core. (DEDUCED: log 14.) -/
def together (s : State) (core : Nat) (mt : Bool) : List Nat := if mt then [core] else gangOf s core

/-- A list of cores takes each its own change to its thread. -/
def setThreads (s : State) (ms : List Nat) (mt : Bool) (f : Thread → Thread) : State :=
  ms.foldl (fun st c => setThread st c mt (f (threadOf st c mt))) s

/-- A fault at the entry of the block that TRAP_VEC names stops the thread as a debug halt with why = 0 does (R448). (DEDUCED: log 101.) -/
def trapLoop (s : State) (ms : List Nat) (mt : Bool) : State :=
  ms.foldl (fun st c =>
    let t := threadOf st c mt
    let st1 := setThread st c mt { t with looped := true }
    let k := coreOf st1 c
    raiseEvent (setCore st1 c { k with dbg := { k.dbg with pendHalt := some 0 } }) (k.ctx.getD 0) 5 t.trapVec
      (eventThr t.trapCause c mt)) s

/-- A fetch that meets a poisoned word is reported (R470). -/
def fetchReport (s : State) (core : Nat) (cause : BitVec 16) (addr : Word) : State :=
  if causeCode cause == causeDataError then dataEvent s core 4 addr else s

/-- A thread enters the block whose header its program counter addresses (R201 to R203); a fault at entry is precise
(R204, R443) or, at the handler's block, a trap loop (R448). It stands as it is while the fetch or the block's count must wait. -/
def enterBlock (s : State) (core : Nat) (mt : Bool) : State :=
  let ms := together s core mt
  let t := threadOf s core mt
  let bad (st : State) (cause : BitVec 16) (addr : Word) : State :=
    if t.entry = .handler then trapLoop st ms mt
    else ms.foldl (fun s2 c =>
      let tc := threadOf s2 c mt
      let now := cycleNow s2 (blockOf c)
      setThread s2 c mt (if c = core then tc.trapEnter cause tc.pc true addr now else tc.trapEnter causePartner tc.pc true 0 now)) st
  match fetchBlock s core mt t.priv t.pc with
  | .fault s1 c a => bad (fetchReport s1 core c a) c a
  | .noHeader s1 => bad s1 causeBranchTarget t.pc
  | .empty s1 => bad s1 causeBlockStructure t.pc
  | .wait s1 => s1
  | .ok s1 =>
    let w := ((bufBlock (coreOf s1 core) t.pc.toNat).map (·.words.headD 0)).getD 0
    let gate := if (Header.ofWord w).cnt then ms.findSome? (fun c => countGate s1 c t.priv t.pc) else none
    if gate.isSome then gate.getD s1
    else
    let s2 := setThreads s1 ms mt (fun x => { x with blk := t.pc, pc := t.pc + 8, entry := .word, entered := true })
    let s3 := ms.foldl (fun st c => traceEntry st c mt t.pc w) s2
    if (Header.ofWord w).cnt then ms.foldl (fun st c => countEntry st c t.priv t.pc) s3 else s3

/-- A thread at an instruction word has its block in the buffer; a resumption that finds no such block takes the
block-structure fault (R203). -/
def resumeBlock (s : State) (core : Nat) (mt : Bool) : State :=
  let ms := together s core mt
  let t := threadOf s core mt
  let bad (st : State) (cause : BitVec 16) (addr : Word) : State :=
    ms.foldl (fun s2 c =>
      let tc := threadOf s2 c mt
      let now := cycleNow s2 (blockOf c)
      setThread s2 c mt (if c = core then tc.trapEnter cause tc.pc false addr now else tc.trapEnter causePartner tc.pc false 0 now)) st
  match fetchBlock s core mt t.priv t.blk with
  | .fault s1 c a => bad (fetchReport s1 core c a) c t.pc
  | .noHeader s1 => bad s1 causeBlockStructure t.pc
  | .empty s1 => bad s1 causeBlockStructure t.pc
  | .wait s1 => s1
  | .ok s1 =>
    match bufBlock (coreOf s1 core) t.blk.toNat with
    | none => s1
    | some b =>
      if t.blk.toNat < t.pc.toNat ∧ t.pc.toNat < b.head + 8 * b.words.length then s1 else bad s1 causeBlockStructure t.pc

/-- A thread's block in the buffer, as it may use it: a task uses none that came from a page with U = 0 (R253). -/
def threadBlock (s : State) (core : Nat) (mt : Bool) : Option IBlock :=
  let t := threadOf s core mt
  (bufBlock (coreOf s core) t.blk.toNat).filter (fun b => t.priv || b.u)

/-- The thread stands at an instruction boundary: before an instruction word of a block in the buffer. -/
def atWord (s : State) (core : Nat) (mt : Bool) : Bool :=
  let t := threadOf s core mt
  t.entry == .word &&
  (match threadBlock s core mt with
    | some b => decide (t.blk.toNat < t.pc.toNat) && decide (t.pc.toNat < b.head + 8 * b.words.length)
    | none => false)

/-- One move of a thread toward its next instruction boundary. (DEDUCED: log 25.) -/
def reachWord (s : State) (core : Nat) (mt : Bool) : State :=
  if atWord s core mt then s
  else if (threadOf s core mt).entry = .word then resumeBlock s core mt
  else enterBlock s core mt

/-! ## The word that issues next -/

/-- What the next issue of a thread is. -/
inductive FetchRes where
  | run (s : State) (i : Instr)      -- this instruction issues
  | moved (s : State)                -- a trap was taken, a fault found at a block's entry, or the fetch waits

/-- The traps due at a boundary are taken: in a gang every member traps (R443, R447, R471). -/
def takePending (s : State) (core : Nat) (mt : Bool) : State :=
  (together s core mt).foldl (fun st0 c =>
    let st := dropHeld st0 c mt
    let t := threadOf st c mt
    match t.pendTraps with
    | p :: ps => setThread st c mt (Thread.trapEnter { t with pendTraps := ps } p.cause t.pc (t.entry != .word) p.addr (cycleNow st (blockOf c)))
    | [] => setThread st c mt (t.trapEnter causePartner t.pc (t.entry != .word) 0 (cycleNow st (blockOf c)))) s

/-- Check 3 of Table 10.9 on a word: TRET, and the accesses that Table 13.6 denies a task (R253, R272). -/
def privDenied (w : Word) : Bool :=
  let f := Fields.ofWord w
  let op := f.op.toNat
  if op = 0x059 then true
  else match sysRegOf f.imm with
    | none => false
    | some r =>
      if op = 0x05A then r.readPriv
      else if op = 0x05B then r.writable && r.writePriv
      else if op = 0x05C then r.readPriv || (r.writable && r.writePriv)
      else false

/-- The fault of a word that is not an instruction, in the order of Table 10.9. (DEDUCED: log 8.) -/
def decodeFault (mt priv : Bool) (w : Word) (e : DecErr) : BitVec 16 :=
  let op := (Fields.ofWord w).op
  let ok := threadsOfOp op
  if !assignedOp op then causeIllegalInstruction
  else if !(if mt then ok.movement else ok.compute) then causeIllegalThread
  else if privDenied w && !priv then causePrivilege
  else match e with
    | .illegalInstruction => causeIllegalInstruction
    | .reservedField => causeReservedField
    | .illegalOperand => causeIllegalOperand
    | .truncated => causeBlockStructure

/-- The word at a thread's program counter with the word after it in its block. -/
def wordsAt (s : State) (core : Nat) (mt : Bool) : Option (Word × Option Word) :=
  let t := threadOf s core mt
  match threadBlock s core mt with
  | none => none
  | some b =>
    let i := (t.pc.toNat - b.head) / 8
    match b.words[i]? with
    | none => none
    | some w => some (w, b.words[i + 1]?)

/-- The cycles by which an instruction issues after its predecessor at the earliest (R196): y = 1 gave the next cycle's slot to
the movement thread (R41, R197). (DEDUCED: log 15.) -/
def issueGap (t : Thread) (mt : Bool) (sd : Nat) : Nat := 1 + if t.yielded && !mt then max sd 1 else sd

/-- The first cycle that the higher members of a core's octet leave it: with an octet window, members that issue in one cycle do so in
ascending order, and a member behind one that has issued takes the next cycle (R78). (DEDUCED: log 15.) -/
def octetFloor (s : State) (core : Nat) : Nat :=
  if (coreOf s core).win = 0 then 0
  else
    let now := cycleNow s (blockOf core)
    ((List.range 8).filter (fun m => decide (omiOf core < m))).foldl (fun n m =>
      let k := coreOf s (octetCore core m)
      let after (t : Thread) : Nat := if t.lastIssue ≤ now then t.lastIssue + 1 else 0
      max n (max (after k.ct) (after k.mt))) 0

/-- The first cycle whose issue slot the other thread of a core, or of a member of its gang, has left: a slot goes to one thread (R41). -/
def slotFloor (s : State) : Nat :=
  (issueSet s).foldl (fun n c =>
    let t := threadOf s c (!s.onMt)
    if t.lastIssue ≤ cycleNow s (blockOf c) then max n (t.lastIssue + 1) else n) 0

/-- The cycle at which the focused thread's instruction issues at the earliest (R41, R196, R78, R443). -/
def issueAt (s : State) (sd : Nat) : Nat :=
  max (max ((thr s).lastIssue + issueGap (thr s) s.onMt sd) (octetFloor s s.me)) (max (slotFloor s) (thr s).notBefore)

/-- CYCLE starts at the issue cycle of a task's first instruction (R274). (DEDUCED: log 72.) -/
def startCycle (s : State) : State :=
  if s.core.cycleNew && !s.onMt then
    { s with core := { s.core with cycleFrom := cycleNow s (blockOf s.me), cycleNew := false } }
  else s

/-- The instruction at a thread's program counter, or the trap it takes instead (R205). The state is focused on the
thread, and time has reached the cycle that its issue delay allows (R196), unless the timer trap comes before it (R255). (DESIGN CHOICE: log 5, DEDUCED: log 8.) -/
def fetchIssue (s0 : State) : FetchRes :=
  let s := if atWord s0 s0.me s0.onMt then s0 else reachWord s0 s0.me s0.onMt
  let t := thr s
  if !atWord s s.me s.onMt then .moved s
  else if (together s s.me s.onMt).any (fun c => !(threadOf s c s.onMt).pendTraps.isEmpty) then
    .moved (takePending s s.me s.onMt)
  else match wordsAt s s.me s.onMt with
  | none => .moved s
  | some (w, lit) =>
    match decodeWord w lit with
    | .error e =>
      .moved (trapAll s (together s s.me s.onMt) (fun c =>
        let cause := decodeFault s.onMt (threadOf s c s.onMt).priv w e
        (cause, if cause == causeBlockStructure then t.pc + 8 else w)))
    | .ok i =>
      let s1 := advanceToCycle s (blockOf s.me) (issueAt s (Fields.ofWord w).sd.toNat)
      if !s.onMt && (together s s.me false).any (fun c => timerDue s1 (coreOf s1 c)) then .moved s1 else .run (startCycle s1) i

end Sys2Proof.Machine
end

