-- ==== Sys2Proof/Machine/Operands.lean ====
section
/-!
DEFINITION. Operand forms: immediates (R191, R257), the register lists of each scalar form, lanes of vector registers
(R164, R277 to R279), masks and broadcast sources.
-/

namespace Sys2Proof.Machine

/-! ## Scalar operands -/

/-- A signed immediate as a 64-bit pattern (R191). -/
def immS (imm : BitVec 18) : Word := imm.signExtend 64

/-- An unsigned immediate. -/
def immU (imm : BitVec 18) : Word := imm.setWidth 64

/-- Registers of a three-operand scalar form. -/
def usesDAB (d a b : XReg) : Uses := { xr := [a, b], xw := [d] }

/-- Registers of a two-operand scalar form. -/
def usesDA (d a : XReg) : Uses := { xr := [a], xw := [d] }

/-- The effect of an instruction that writes one x register. -/
def writeX (d : XReg) (v : Word) (s : State) : Res := .done (xset s d v)

/-- The effect of an instruction that writes one predicate. -/
def writeP (d : PReg) (b : Bool) (s : State) : Res := .done (pset s d b)

/-- A word of a code address, n words from a program counter (R264). -/
def relTarget (pc : Word) (imm : BitVec 18) : Word := pc + 8 * immS imm

/-! ## Lanes (R164, R277) -/

/-- Lane i of a register, for elements of z bits. -/
def laneBits (v : VecVal) (z i : Nat) : Nat := v.toNat / 2 ^ (z * i) % 2 ^ z

/-- Lane(r, i, ty). -/
def lane (v : VecVal) (t : Ty) (i : Nat) : Nat := laneBits v t.width i

/-- A register's value from its lanes, lane 0 first. -/
def ofLanes (z : Nat) (ls : List Nat) : VecVal :=
  BitVec.ofNat 4096 (ls.foldr (fun x acc => x % 2 ^ z + acc * 2 ^ z) 0)

/-- A register rewritten lane by lane: lanes below n for which `new` gives a value take it, the others keep theirs. -/
def updLanes (v : VecVal) (z n : Nat) (new : Nat → Option Nat) : VecVal :=
  ofLanes z ((List.range (4096 / z)).map (fun i =>
    if i < n then (new i).getD (laneBits v z i) else laneBits v z i))

/-- Sel(i): mask register e, or every lane where none is named (R278). -/
def selLane (s : State) (e : Option KReg) (i : Nat) : Bool :=
  match e with
  | none => true
  | some k => (kget s k).getLsbD i

/-- Lane i of a source that is a vector register or a broadcast x register (R279). -/
def srcLane (s : State) (b : VX) (t : Ty) (i : Nat) : Nat :=
  match b with
  | .v r => lane (vget s r) t i
  | .x r => (xget s r).toNat % 2 ^ t.width

/-- The vector registers of a source. -/
def vxV : VX → List VReg
  | .v r => [r]
  | .x _ => []

/-- The x registers of a source. -/
def vxX : VX → List XReg
  | .v _ => []
  | .x r => [r]

/-- Registers of a vector form with a vector destination. -/
def usesV (d : VReg) (vs : List VReg) (b : VX) (e : Option KReg) : Uses :=
  { vr := vs ++ vxV b, vw := [d], xr := vxX b, kr := optReg e }

/-- The effect of a vector instruction that writes selected lanes of one register from its old operands. -/
def writeLanes (d : VReg) (t : Ty) (n : Nat) (e : Option KReg) (f : Nat → Nat) (s : State) : Res :=
  .done (vset s d (updLanes (vget s d) t.width n (fun i => if selLane s e i then some (f i) else none)))

/-- A mask whose bits below n are given and whose other bits are 0. -/
def maskOfBits (n : Nat) (f : Nat → Bool) : MaskVal :=
  BitVec.ofNat 1024 ((List.range n).foldr (fun i acc => (if f i then 2 ^ i else 0) + acc) 0)

end Sys2Proof.Machine
end

