-- ==== Sys2Proof/Machine/Memory.lean ====
section
/-!
DEFINITION. Loads, stores and atomics (R327 to R335). An access is checked at issue in the order of R328, split into its
parts, and performed by the steps of Access.lean.
-/

namespace Sys2Proof.Machine

/-! ## Address checks (R328) -/

/-- Check 3: an address with bits 63:56 set, or an access that reaches 2^56. -/
def badAddress (va : Word) (n : Nat) : Bool := decide (2 ^ 56 < va.toNat + n) || decide (2 ^ 56 ≤ va.toNat)

/-- Check 5: the aperture checks of R74, for an access of which any byte lies in aperture space. -/
def badAperture (s : State) (va : Word) (n : Nat) : Bool := (partsOf s va.toNat n).isNone

/-- Checks 3 to 5 of an access of the issuing thread: the cause and TRAP_ADDR of the first that fails. -/
def checkVa (s : State) (va : Word) (n : Nat) (aligned : Bool) : Option (BitVec 16 × Word) :=
  if badAddress va n then some (causeMemOperand, va)
  else if aligned && va.toNat % n != 0 then some (causeAlignment, va)
  else if badAperture s va n then some (causeAperture, va)
  else none

/-- Check 1: a malformed scope operand. -/
def checkScope (x : Word) : Option (BitVec 16 × Word) := if malformedScope x then some (causeRectangle, x) else none

/-- A check, then another. -/
def orElse (a b : Option (BitVec 16 × Word)) : Option (BitVec 16 × Word) :=
  match a with
  | some x => some x
  | none => b

/-- The effect of an instruction whose check may fault. -/
def checked (c : Option (BitVec 16 × Word)) (r : Res) : Res :=
  match c with
  | some x => .trap x.1 x.2
  | none => r

/-- Bytes of a scalar access (R330). -/
def memBytes : MemSz → Nat
  | .ty t => t.width / 8
  | .d => 8

/-- Is the loaded value sign-extended (R330)? -/
def memSigned : MemSz → Bool
  | .ty t => t.isSigned
  | .d => false

/-- Is a place in the store queue free (R445)? (DEDUCED: log 26.) -/
def storeRoom (s : State) : Bool := decide (queuedWrites s s.me s.onMt < 16)

/-- Is a load slot free (R445)? -/
def slotRoom (s : State) : Bool := decide (slotsUsed (thr s) < 8)

/-- A new load of the issuing thread, with a buffer of bytes. -/
def startLoad (s : State) (buf : List Byte) : LoadParts := { st := s, buf := buf, ids := [] }

/-! ## LD, ST, LDV, STV (R330, R331) -/

/-- The address of LD and ST. -/
def immAddr (s : State) (a : XReg) (imm : BitVec 18) : Word := xget s a + immS imm

/-- The effect of LD. -/
def ldRes (sz : MemSz) (ch : BitVec 3) (d a : XReg) (imm : BitVec 18) (s : State) : Res :=
  let va := immAddr s a imm
  checked (checkVa s va (memBytes sz) false)
    (if !slotRoom s then .wait
     else
       let k := freshSlot (thr s)
       .done (finishLoad (loadRange ch k 0 (startLoad s (List.replicate (memBytes sz) 0)) va.toNat (memBytes sz)) k (.x d (memSigned sz))))

/-- LD. -/
def execLd (h : Hdr) (sz : MemSz) (d a : XReg) (imm : BitVec 18) (s : State) : Host.Outcome State Fault Refusal :=
  issue infoC h (usesDA d a) (ldRes sz h.ch d a imm) s

/-- The effect of ST. -/
def stRes (sz : MemSz) (ch : BitVec 3) (d a : XReg) (imm : BitVec 18) (s : State) : Res :=
  let va := immAddr s a imm
  checked (checkVa s va (memBytes sz) false)
    (if !storeRoom s then .wait else .done (storeRange s ch va.toNat (leBytes (memBytes sz) (xget s d).toNat) none))

/-- ST. -/
def execSt (h : Hdr) (sz : MemSz) (d a : XReg) (imm : BitVec 18) (s : State) : Host.Outcome State Fault Refusal :=
  issue infoC h { xr := [d, a] } (stRes sz h.ch d a imm) s

/-- Bytes of a vector register. -/
def vecBytes (v : VecVal) : List Byte := leBytes 512 v.toNat

/-- The checks of LDV and STV: a count above 512, and the access of a count that is not 0. (DEDUCED: log 31.) -/
def checkCount (s : State) (va n : Word) : Option (BitVec 16 × Word) :=
  if 512 < n.toNat then some (causeMemOperand, va) else if n = 0 then none else checkVa s va n.toNat false

/-- A vector register whose every byte a load writes holds a good value again (R470). -/
def refill (d : VReg) (all : Bool) (s : State) : State :=
  if all then { s with core := { s.core with vPoison := setBit s.core.vPoison d.toNat false } } else s

/-- The effect of LDV: bytes n to 511 keep their values. -/
def ldvRes (ch : BitVec 3) (d : VReg) (a b : XReg) (s : State) : Res :=
  let va := xget s a
  let n := xget s b
  checked (checkCount s va n)
    (if n = 0 then .done s
     else if !slotRoom s then .wait
     else
       let k := freshSlot (thr s)
       .done (refill d (n.toNat == 512)
         (finishLoad (loadRange ch k 0 (startLoad s (vecBytes (vget s d))) va.toNat n.toNat) k (.v d))))

/-- LDV. (DEDUCED: log 27.) -/
def execLdv (h : Hdr) (d : VReg) (a b : XReg) (s : State) : Host.Outcome State Fault Refusal :=
  issue infoC h { xr := [a, b], vk := [d] } (ldvRes h.ch d a b) s

/-- The effect of STV. -/
def stvRes (ch : BitVec 3) (d : VReg) (a b : XReg) (s : State) : Res :=
  let va := xget s a
  let n := xget s b
  checked (checkCount s va n)
    (if n = 0 then .done s
     else if !storeRoom s then .wait
     else .done (storeRange s ch va.toNat ((vecBytes (vget s d)).take n.toNat) none))

/-- STV. (DEDUCED: log 27.) -/
def execStv (h : Hdr) (d : VReg) (a b : XReg) (s : State) : Host.Outcome State Fault Refusal :=
  issue infoC h { xr := [a, b], vr := [d] } (stvRes h.ch d a b) s

/-! ## LDX, STX (R332) -/

/-- The lanes that take part and are selected, with their addresses, ascending. -/
def gatherLanes (s : State) (t : Ty) (a : XReg) (b : VReg) (e : Option KReg) : List (Nat × Word) :=
  ((List.range (min t.lanes 128)).filter (selLane s e)).map (fun i =>
    (i, xget s a + (BitVec.ofNat 32 (laneBits (vget s b) 32 i)).signExtend 64))

/-- The checks of every selected element: the fault is that of the lowest lane of which a check fails. (DEDUCED: log 97.) -/
def checkLanes (s : State) (n : Nat) (ls : List (Nat × Word)) : Option (BitVec 16 × Word) :=
  ls.findSome? (fun l => checkVa s l.2 n false)

/-- The effect of LDX: the elements are separate accesses in ascending lane order, of one slot. -/
def ldxRes (t : Ty) (ch : BitVec 3) (d : VReg) (a : XReg) (b : VReg) (e : Option KReg) (s : State) : Res :=
  let n := t.width / 8
  let ls := gatherLanes s t a b e
  checked (checkLanes s n ls)
    (if ls.isEmpty then .done s
     else if !slotRoom s then .wait
     else
       let k := freshSlot (thr s)
       .done (refill d (n * ls.length == 512) (finishLoad (ls.foldl (fun p l => loadRange ch k (n * l.1) p l.2.toNat n)
         (startLoad s (vecBytes (vget s d)))) k (.v d))))

/-- LDX. (DEDUCED: log 27.) -/
def execLdx (h : Hdr) (ty : Ty) (d : VReg) (a : XReg) (b : VReg) (e : Option KReg) (s : State) :
    Host.Outcome State Fault Refusal :=
  issue infoC h { xr := [a], vr := [b], vk := [d], kr := optReg e } (ldxRes ty h.ch d a b e) s

/-- The effect of STX. -/
def stxRes (t : Ty) (ch : BitVec 3) (d : VReg) (a : XReg) (b : VReg) (e : Option KReg) (s : State) : Res :=
  let n := t.width / 8
  let ls := gatherLanes s t a b e
  checked (checkLanes s n ls)
    (if ls.isEmpty then .done s
     else if !storeRoom s then .wait
     else .done (ls.foldl (fun st l => storeRange st ch l.2.toNat (leBytes n (lane (vget s d) t l.1)) none) s))

/-- STX. (DEDUCED: log 27.) -/
def execStx (h : Hdr) (ty : Ty) (d : VReg) (a : XReg) (b : VReg) (e : Option KReg) (s : State) :
    Host.Outcome State Fault Refusal :=
  issue infoC h { xr := [a], vr := [d, b], kr := optReg e } (stxRes ty h.ch d a b e) s

/-! ## LDA, STL (R333) -/

/-- The issuing thread waits for the parts of an access that stalls it; an access bound at once completes. -/
def stallOn (p : LoadParts) (k : Nat) (dst : LoadDst) : Res :=
  let s1 := finishLoad p k dst
  if p.ids.isEmpty then
    .done (match dst.acquires with
      | some scope => acquire s1 scope
      | none => s1)
  else .park (setThr s1 { thr s1 with wait := .access k, waitFrom := s1.dev.time })

/-- The effect of LDA: the load, then the acquire. -/
def ldaRes (sz : MemSz) (ch : BitVec 3) (d a b : XReg) (s : State) : Res :=
  let va := xget s a
  checked (orElse (checkScope (xget s b)) (checkVa s va (memBytes sz) true))
    (let k := freshSlot (thr s)
     stallOn (loadRange ch k 0 (startLoad s (List.replicate (memBytes sz) 0)) va.toNat (memBytes sz)) k
       (.lda d (memSigned sz) (xget s b)))

/-- LDA. -/
def execLda (h : Hdr) (sz : MemSz) (d a b : XReg) (s : State) : Host.Outcome State Fault Refusal :=
  issue infoC h (usesDAB d a b) (ldaRes sz h.ch d a b) s

/-- A release that meets entries of the thread's side log starts a replay pass (R450). -/
def releasePass (s : State) (scope : Word) : State :=
  if (accsOf s s.me s.onMt).any (fun a => a.logged && releaseWaits s scope a) then startPass s s.me s.onMt else s

/-- The effect of STL: the store waits in the store queue behind its release. -/
def stlRes (sz : MemSz) (ch : BitVec 3) (d a b : XReg) (s : State) : Res :=
  let va := xget s a
  checked (orElse (checkScope (xget s b)) (checkVa s va (memBytes sz) true))
    (if !storeRoom s then .wait
     else .done (storeRange (releasePass s (xget s b)) ch va.toNat (leBytes (memBytes sz) (xget s d).toNat) (some (xget s b))))

/-- STL. -/
def execStl (h : Hdr) (sz : MemSz) (d a b : XReg) (s : State) : Host.Outcome State Fault Refusal :=
  issue infoC h { xr := [d, a, b] } (stlRes sz h.ch d a b) s

/-! ## Atomics (R334, R335) -/

/-- The scope register of an ordering. -/
def ordReg : AtomOrd → List XReg
  | .none => []
  | .acq c => [c]
  | .rel c => [c]
  | .ar c => [c]

/-- The scope that an atomic acquires. -/
def ordAcquires (o : AtomOrd) (s : State) : Option Word :=
  match o with
  | .acq c => some (xget s c)
  | .ar c => some (xget s c)
  | _ => Option.none

/-- The scope that an atomic releases. -/
def ordReleases (o : AtomOrd) (s : State) : Option Word :=
  match o with
  | .rel c => some (xget s c)
  | .ar c => some (xget s c)
  | _ => Option.none

/-- Bytes of an atomic. -/
def atomBytes (dbl : Bool) : Nat := if dbl then 8 else 4

/-- The checks of an atomic. -/
def checkAtom (s : State) (ord : AtomOrd) (va : Word) (n : Nat) : Option (BitVec 16 × Word) :=
  orElse ((ordReg ord).findSome? (fun c => checkScope (xget s c))) (checkVa s va n true)

/-- An atomic of the issuing thread is sent: one access, one slot, and the thread stalls (R334). -/
def sendAtom (op : AccOp) (ord : AtomOrd) (signed : Bool) (ch : BitVec 3) (d : XReg) (va : Word) (n : Nat)
    (data : List Byte) (s : State) : State :=
  match partsOf s va.toNat n with
  | some [p] =>
    let k := freshSlot (thr s)
    let s0 := match ordReleases ord s with
      | some scope => releasePass s scope
      | none => s
    let a := { newAccess s0 op p.1 p.2.1 n data ch k 0 with rel := ordReleases ord s }
    let s1 := watch (nextSeq (enqueue s0 a)) s.me va.toNat n true true
    let x : Slot := { id := k, dst := .atomic d signed (ordAcquires ord s), parts := [s0.netId], buf := List.replicate n 0 }
    setThr s1 { thr s1 with slots := (thr s1).slots ++ [x], wait := .access k, waitFrom := s1.dev.time }
  | _ => s

/-- The effect of ATOM. -/
def atomRes (t : Ty) (op : AtomOp) (dbl : Bool) (ord : AtomOrd) (ch : BitVec 3) (d a b : XReg) (s : State) : Res :=
  let n := atomBytes dbl
  checked (checkAtom s ord (xget s a) n)
    (.park (sendAtom (.atom op t.isSigned) ord (t.isSigned && !dbl) ch d (xget s a) n (leBytes n (xget s b).toNat) s))

/-- ATOM. -/
def execAtom (h : Hdr) (ty : Ty) (op : AtomOp) (dbl : Bool) (ord : AtomOrd) (d a b : XReg) (s : State) :
    Host.Outcome State Fault Refusal :=
  issue infoC h { xr := a :: b :: ordReg ord, xw := [d] } (atomRes ty op dbl ord h.ch d a b) s

/-- The effect of CAS. -/
def casRes (t : Ty) (dbl : Bool) (ord : AtomOrd) (ch : BitVec 3) (d a b : XReg) (s : State) : Res :=
  let n := atomBytes dbl
  checked (checkAtom s ord (xget s a) n)
    (.park (sendAtom (.cas (leBytes n (xget s d).toNat)) ord (t.isSigned && !dbl) ch d (xget s a) n
      (leBytes n (xget s b).toNat) s))

/-- CAS. -/
def execCas (h : Hdr) (ty : Ty) (dbl : Bool) (ord : AtomOrd) (d a b : XReg) (s : State) :
    Host.Outcome State Fault Refusal :=
  issue infoC h { xr := d :: a :: b :: ordReg ord, xw := [d] } (casRes ty dbl ord h.ch d a b) s

/-! ## Reads of access kind 3 that their instruction takes (R312, R366, R377) -/

/-- The issuing thread reads n bytes at va for its instruction: the bytes where they have come, else the read is sent and the
thread waits. The instruction executes again when they have come. -/
def readHeldFor (eng : Bool) (ch : BitVec 3) (va : Word) (n : Nat) (s : State) (f : List Byte → Res) : Res :=
  if !(thr s).got.isEmpty then f (thr s).got
  else
    let k := freshSlot (thr s)
    let p := loadRangeFor eng ch k 0 (startLoad s (List.replicate n 0)) va.toNat n
    if p.ids.isEmpty then .again (setThr p.st { thr p.st with got := p.buf })
    else
      let s1 := finishLoad p k .bytes
      .again (setThr s1 { thr s1 with wait := .access k, waitFrom := s1.dev.time })

/-- The read of a thread itself (R312). -/
def readHeld (ch : BitVec 3) (va : Word) (n : Nat) (s : State) (f : List Byte → Res) : Res := readHeldFor false ch va n s f

/-- A record read as one engine read at its home (R366, R377). -/
def readRecord (ch : BitVec 3) (va : Word) (n : Nat) (s : State) (f : List Byte → Res) : Res := readHeldFor true ch va n s f

end Sys2Proof.Machine
end

