-- ==== Sys2Proof/Machine/Desc.lean ====
section
/-!
DEFINITION. Tensor descriptors (R187, R188), the loaded-descriptor table (R310 to R312) and tile coordinates (R314).
-/

namespace Sys2Proof.Machine

/-! ## Fields (Table 9.10) -/

/-- Bits of an entry, from bit `lo`, `n` of them. -/
def dBits (e : DescVal) (lo n : Nat) : Nat := e.toNat / 2 ^ lo % 2 ^ n

/-- The fields of an entry. -/
def dV (e : DescVal) : Bool := e.getLsbD 63
def dRank (e : DescVal) : Nat := dBits e 60 3
def dTy (e : DescVal) : BitVec 4 := BitVec.ofNat 4 (dBits e 56 4)
def dBase (e : DescVal) : Nat := dBits e 0 56
def dSbase (e : DescVal) : Nat := dBits e 384 56
def dSbl (e : DescVal) : Nat := dBits e (448 + 24) 8
def dMx (e : DescVal) : Bool := dBits e (448 + 23) 1 == 1
def dDph (e : DescVal) : Nat := dBits e (448 + 16) 6

/-- Extent of a dimension. -/
def dExt (e : DescVal) (m : Nat) : Nat := dBits e (64 + 32 * m) 32

/-- Byte stride of a dimension 1 to 3. -/
def dStride (e : DescVal) (m : Nat) : Nat := if m = 0 then 0 else dBits e (192 + 64 * (m - 1)) 48

/-- Tile extent of a dimension. -/
def dTx (e : DescVal) (m : Nat) : Nat := if m = 3 then dBits e 448 16 else dBits e (192 + 64 * m + 48) 16

/-- The element type; F32 for a reserved code. -/
def dType (e : DescVal) : Ty := (Ty.ofCode (dTy e)).getD .f32

/-! ## Validity (R188) -/

/-- Bytes of a run of elements of dimension 0, 4-bit rows rounded up. -/
def rowBytes (t : Ty) (n : Nat) : Nat := (n * t.width + 7) / 8

/-- The last byte of the last element. -/
def dLast (e : DescVal) : Nat :=
  dBase e + (rowBytes (dType e) (dExt e 0) - 1) +
    ([1, 2, 3].map (fun m => (dExt e m - 1) * dStride e m)).foldl (· + ·) 0

/-- A dimension at or beyond the rank has extent 1, stride 0, tile extent 1; one below it has no zero extent. -/
def dDimOk (e : DescVal) (m : Nat) : Bool :=
  if m < dRank e then dExt e m != 0 && dTx e m != 0
  else dExt e m == 1 && dTx e m == 1 && (m == 0 || dStride e m == 0)

/-- Rows do not overlap. -/
def dStrideOk (e : DescVal) (m : Nat) : Bool :=
  if m < dRank e then
    decide (dStride e m ≥ (if m = 1 then rowBytes (dType e) (dExt e 0) else dStride e (m - 1) * dExt e (m - 1)))
  else true

/-- Alignment of the base and, for a matrix operand, of the strides. -/
def dAlignOk (e : DescVal) : Bool :=
  dBase e % max 1 ((dType e).width / 8) == 0 &&
  (!dMx e || (dBase e % 64 == 0 && [1, 2, 3].all (fun m => decide (dRank e ≤ m) || dStride e m % 64 == 0)))

/-- The fields that must be zero. -/
def dReservedOk (e : DescVal) : Bool := dBits e (384 + 56) 8 == 0 && dBits e (448 + 32) 32 == 0 && dBits e (448 + 22) 1 == 0

/-- The scale fields of the type. -/
def dScaleOk (e : DescVal) : Bool :=
  if dType e == .gq4 then dExt e 0 % 64 == 0 && dSbl e == 0 && dSbase e != 0 && dSbase e % 16 == 0 else dSbase e == 0

/-- Is an entry valid (R188)? A type of 13 to 15 makes it invalid like any other defect. (DEDUCED: log 84.) -/
def descValid (e : DescVal) : Bool :=
  dV e && dReservedOk e && (Ty.ofCode (dTy e)).isSome && decide (1 ≤ dRank e) && decide (dRank e ≤ 4) &&
  [0, 1, 2, 3].all (dDimOk e) && [1, 2, 3].all (dStrideOk e) && dAlignOk e &&
  decide (dLast e < 0x00F0_0000_0000_0000) && dScaleOk e

/-! ## The loaded-descriptor table (R310) -/

/-- A loaded entry of the focused core's context. The octet's cache of the table holds the same entries. (DESIGN CHOICE: log 88.) -/
def ldtGet (s : State) (id : BitVec 8) : Option DescVal := (myCtx s).bind (fun c => mapGet c.ldt id.toNat)

/-- The state with an entry loaded. -/
def ldtSet (s : State) (id : BitVec 8) (e : DescVal) : State :=
  match myCtx s with
  | some c => setCtx s (myAsid s) { c with ldt := mapSet c.ldt id.toNat e }
  | none => s

/-- The state with an entry not loaded. -/
def ldtClear (s : State) (id : BitVec 8) : State :=
  match myCtx s with
  | some c => setCtx s (myAsid s) { c with ldt := mapErase c.ldt id.toNat }
  | none => s

/-- Address of a context's descriptor in memory. -/
def descAddr (s : State) (id : BitVec 8) : Word := s.core.tdtBase + 64 * id.setWidth 64

/-- The effect of TDLD: the entry is read, checked and loaded. -/
def tdldRes (id : BitVec 8) (ch : BitVec 3) (s : State) : Res :=
  let va := descAddr s id
  if badAperture s va 64 then .trap causeAperture va
  else readHeld ch va 64 s (fun bytes =>
    let e : DescVal := BitVec.ofNat 512 (leNat bytes)
    if descValid e then .done (ldtSet s id e) else .trap causeDescriptor va)

/-- TDLD (R312). -/
def execTdld (h : Hdr) (id : BitVec 8) (s : State) : Host.Outcome State Fault Refusal :=
  issue infoC h {} (tdldRes id h.ch) s

/-- The bytes that TDST stores: the loaded entry, or zeros. -/
def tdstBytes (s : State) (id : BitVec 8) : List Byte := leBytes 64 ((ldtGet s id).getD 0).toNat

/-- The checks of TDST (Table 26.7): alignment, memory-operand, aperture. -/
def tdstCheck (s : State) (va : Word) : Option (BitVec 16 × Word) :=
  if va.toNat % 64 ≠ 0 then some (causeAlignment, va)
  else if badAddress va 64 then some (causeMemOperand, va)
  else if badAperture s va 64 then some (causeAperture, va)
  else none

/-- TDST. -/
def execTdst (h : Hdr) (a : XReg) (id : BitVec 8) (s : State) : Host.Outcome State Fault Refusal :=
  issue infoC h { xr := [a] } (fun s =>
    checked (tdstCheck s (xget s a))
      (if !storeRoom s then .wait else .done (storeRange s h.ch (xget s a).toNat (tdstBytes s id) none))) s

/-- An entry with bits replaced. -/
def dPut (e : DescVal) (lo n v : Nat) : DescVal :=
  let m : DescVal := BitVec.ofNat 512 ((2 ^ n - 1) * 2 ^ lo)
  (e &&& ~~~m) ||| BitVec.ofNat 512 (v % 2 ^ n * 2 ^ lo)

/-- The entry that TDSET makes; none where a bit that must be zero is set. -/
def tdsetEntry (fld : TdField) (e : DescVal) (v : Word) : Option DescVal :=
  match fld with
  | .base => if 2 ^ 56 ≤ v.toNat then none else some (dPut e 0 56 v.toNat)
  | .sbase => if 2 ^ 56 ≤ v.toNat then none else some (dPut e 384 56 v.toNat)
  | .dph => if 2 ^ 6 ≤ v.toNat then none else some (dPut e (448 + 16) 6 v.toNat)

/-- The effect of TDSET. -/
def tdsetRes (fld : TdField) (a : XReg) (id : BitVec 8) (s : State) : Res :=
  match ldtGet s id with
  | none => .trap causeDescriptor 0
  | some e =>
    match tdsetEntry fld e (xget s a) with
    | none => .trap causeDescriptor 0
    | some e1 => if descValid e1 then .done (ldtSet s id e1) else .trap causeDescriptor 0

/-- TDSET. -/
def execTdset (h : Hdr) (fld : TdField) (a : XReg) (id : BitVec 8) (s : State) : Host.Outcome State Fault Refusal :=
  issue infoC h { xr := [a] } (tdsetRes fld a id) s

/-- TDINV. -/
def execTdinv (h : Hdr) (id : BitVec 8) (s : State) : Host.Outcome State Fault Refusal :=
  issue infoC h {} (fun s => .done (ldtClear s id)) s

/-! ## Tiles of a tensor (R314) -/

/-- Coordinate m of a tile coordinate register. -/
def coordOf (x : Word) (m : Nat) : Nat := x.toNat / 2 ^ (16 * m) % 65536

/-- g_m = ⌈ext_m / tx_m⌉. -/
def gridOf (e : DescVal) (m : Nat) : Nat := (dExt e m + dTx e m - 1) / max 1 (dTx e m)

/-- Does every coordinate lie in the grid? -/
def coordOk (e : DescVal) (x : Word) : Bool := [0, 1, 2, 3].all (fun m => decide (coordOf x m < gridOf e m))

/-- The tile index n. -/
def tileIndex (e : DescVal) (x : Word) : Nat :=
  coordOf x 0 + gridOf e 0 * (coordOf x 1 + gridOf e 1 * (coordOf x 2 + gridOf e 2 * coordOf x 3))

/-- Elements of a row of a tile that are not clipped; 0 for a clipped row. -/
def rowLen (e : DescVal) (x : Word) (r : Nat) : Nat :=
  if dExt e 1 ≤ coordOf x 1 * dTx e 1 + r then 0 else min (dTx e 0) (dExt e 0 - coordOf x 0 * dTx e 0)

/-- Bit address of the first element of a row of a tile: byte address, and the bit within it (0 or 4). -/
def rowStart (e : DescVal) (x : Word) (r : Nat) : Nat × Nat :=
  let bits := coordOf x 0 * dTx e 0 * (dType e).width
  (dBase e + bits / 8 + (coordOf x 1 * dTx e 1 + r) * dStride e 1 + coordOf x 2 * dStride e 2 + coordOf x 3 * dStride e 3,
   bits % 8)

/-- Linear index of an element (R174). -/
def linearIndex (e : DescVal) (i0 i1 i2 i3 : Nat) : Nat := i0 + dExt e 0 * (i1 + dExt e 1 * (i2 + dExt e 2 * i3))

/-- The GQ4 block of a row of a tile 64 elements wide. -/
def rowBlock (e : DescVal) (x : Word) (r : Nat) : Nat :=
  linearIndex e (coordOf x 0 * 64) (coordOf x 1 * dTx e 1 + r) (coordOf x 2) (coordOf x 3) / 64

/-- Address of the superscale of a block, and of its block scale (R174). -/
def scaleAddr (e : DescVal) (b : Nat) : Nat × Nat :=
  let rec0 := dSbase e + 272 * (b / 256)
  (rec0, rec0 + 16 + b % 256)

end Sys2Proof.Machine
end

