-- ==== Sys2Proof/Machine/Arbiter.lean ====
section
/-!
DEFINITION. Whether a thread of a core can act: what stops it, which waits a trap or a stop may reach (R255, R487).
-/

namespace Sys2Proof.Machine

/-- The cores whose state differs from power-on, the focused one among them. -/
def liveCores (s : State) : List Nat := s.me :: s.cores.map (·.1)

/-- May the units of a core act: powered, not stopped by pre-emption, containment or a debugger? -/
def coreRuns (k : Core) : Bool := k.powered && !k.stopped && !k.contained && !k.dbg.halted

/-- Is a wait one that a trap or stop may reach before its instruction (R255, R487)? (DEDUCED: log 38.) -/
def restartable : WaitState → Bool
  | .none => true
  | .fuse _ => true
  | .sleep _ _ => true
  | .tlw _ _ _ _ => true
  | .bar _ _ => false
  | .gbar _ _ => false
  | .ending => false
  | .access _ => false

/-- Is LDA, ATOM or CAS held at its boundary by a fault (R444)? -/
def heldAtBoundary (s : State) (core : Nat) (mt : Bool) (t : Thread) : Bool :=
  match t.wait with
  | .access slot => s.net.any (fun a => a.core == core && a.mt == mt && a.isHeld && a.slot == slot)
  | _ => false

/-- May a trap or a stop reach the waiting thread before its instruction (R487)? TDLD, TDSET, TDINV and the other readers of access
kind 3 that take their bytes later are restartable until they complete; LDA, ATOM and CAS only where a fault holds them. -/
def waitRestarts (s : State) (core : Nat) (mt : Bool) (t : Thread) : Bool :=
  restartable t.wait || heldAtBoundary s core mt t ||
  (match t.wait with
    | .access slot => t.slots.any (fun x => x.id == slot && x.dst == .bytes)
    | _ => false)

/-- The address of the word that a thread issues next. -/
def Thread.nextWord (t : Thread) : Word := t.pc + if t.entry == .word then 0 else 8

/-- Does an enabled breakpoint stand at the word that a thread is to issue (R427)? The word at which it resumed does not match again.
(DEDUCED: log 28.) -/
def atBreakpoint (k : Core) (t : Thread) : Bool :=
  k.dbg.ctl.getLsbD 34 && t.wait == .none && t.bkptSkip != some t.nextWord &&
  k.dbg.bp.toList.any (fun b => b.getLsbD 63 && (b &&& 0x00FF_FFFF_FFFF_FFF8) == t.nextWord)

/-- Can a thread of a core issue, or take a trap that is due? -/
def threadReady (s : State) (core : Nat) (mt : Bool) : Bool :=
  let k := coreOf s core
  let t := if mt then k.mt else k.ct
  coreRuns k && !k.blocked && t.active && !t.looped && k.dbg.pendHalt.isNone && !k.stopReq && !atBreakpoint k t &&
  !(mt && k.dbg.step) &&
  (match t.wait with
    | .none => true
    | _ => !t.pendTraps.isEmpty && waitRestarts s core mt t) &&
  (mt || !timerDue s k)

end Sys2Proof.Machine
end

