-- ==== Sys2Proof/Machine/Timeline.lean ====
section
/-!
DEFINITION. Timelines (R127, R128): the numbers that operations take and the value that follows their completion; and the
events of engine operations (R454).
-/

namespace Sys2Proof.Machine

/-! ## Sets and numbers -/

/-- A timeline at its creation. -/
def Timeline.zero : Timeline := { i := 0, v := 0, doneAbove := [] }

/-- A set of eight timelines at its creation. -/
def newTls (serial : Nat) : TlSet := { serial := serial, tl := Vector.replicate 8 Timeline.zero }

/-- The set of the launch a core runs. -/
def tlsNow (k : Core) : TlSet := k.tls.getD (newTls ((k.taskRec.map (·.serial)).getD 0))

/-- Is a set the one of a launch? -/
def TlSet.isOf (t : TlSet) (serial : Nat) : Bool := t.serial == serial

/-- A timeline of a set. -/
def tlGet (t : TlSet) (n : BitVec 3) : Timeline := t.tl[n.toNat]'n.isLt

/-- A set with a timeline changed. -/
def tlSet (t : TlSet) (n : BitVec 3) (x : Timeline) : TlSet := { t with tl := t.tl.set n.toNat x n.isLt }

/-- The number that the next operation of a timeline takes (R127). -/
def tlNext (k : Core) (n : BitVec 3) : Nat := (tlGet (tlsNow k) n).i + 1

/-- An operation joins a timeline: I becomes its number. -/
def tlIssue (k : Core) (n : BitVec 3) : Core :=
  let t := tlsNow k
  { k with tls := some (tlSet t n { tlGet t n with i := (tlGet t n).i + 1 }) }

/-- V moved over the unbroken run of completed numbers; `f` bounds the run. -/
def tlAdvance (v : Nat) (done : List Nat) : Nat → Timeline → Timeline
  | 0, t => { t with v := v, doneAbove := done }
  | f + 1, t =>
    if done.contains (v + 1) then tlAdvance (v + 1) (done.filter (· != v + 1)) f t else { t with v := v, doneAbove := done }

/-- The operation with a number has completed. -/
def Timeline.complete (t : Timeline) (n : Nat) : Timeline :=
  if n ≤ t.v ∨ t.doneAbove.contains n = true then t
  else tlAdvance t.v (t.doneAbove ++ [n]) (t.doneAbove.length + 1) t

/-- Completion on the set of a launch, where the core still holds it. -/
def tlComplete (k : Core) (serial : Nat) (n : BitVec 3) (num : Nat) : Core :=
  let upd (t : TlSet) : TlSet := if t.serial = serial then tlSet t n ((tlGet t n).complete num) else t
  { k with tls := k.tls.map upd, tlsPrev := k.tlsPrev.map upd }

/-- The set of a launch on a core; a set not created reads I = V = 0. -/
def tlsOf (k : Core) (serial : Nat) : TlSet :=
  ((k.tls.filter (·.isOf serial)).or (k.tlsPrev.filter (·.isOf serial))).getD (newTls serial)

/-! ## Engine operations -/

/-- A new engine operation of the issuing thread on a timeline; it takes the next number. -/
def newOp (s : State) (tl : BitVec 3) (ch : BitVec 3) (op : EOp) (tag : Option (Nat × Nat × Nat)) : EngOp :=
  { id := s.core.opId, tl := tl.toNat, num := tlNext s.core tl, serial := (tlsNow s.core).serial, asid := myAsid s
    priv := (thr s).priv, mt := s.onMt, ch := ch, op := op, cursor := 0, phase := 0, tag := tag, stopped := false
    raised := false, after := (thr s).seq, acks := 0, count := 0, buf := [], why := 0
    calls := if s.onMt then s.core.mt.stallUntil else 0 }

/-- The operation joins its timeline and the operations of the core. -/
def issueOp (s : State) (tl : BitVec 3) (ch : BitVec 3) (op : EOp) (tag : Option (Nat × Nat × Nat)) : State :=
  let o := newOp s tl ch op tag
  { s with core := { tlIssue s.core tl with ops := s.core.ops ++ [o], opId := s.core.opId + 1 } }

/-- I and V of the timelines of a set. -/
def tlWords (t : Option TlSet) : List Word :=
  match t with
  | none => List.replicate 16 0
  | some x => (x.tl.toList.map (fun l => [BitVec.ofNat 64 l.i, BitVec.ofNat 64 l.v])).flatten

/-- Words written upward from an address. -/
def writeWords (m : List Host.Cell) (a : Nat) : List Word → List Host.Cell
  | [] => m
  | w :: ws => writeWords (writeW m a w) (a + 8) ws

/-- Where the timelines stand in a save slot (Table 2.6). -/
def slotTls (slot : Nat) : Nat := slot + 0x1_F600

/-- The timelines of a saved core in its save slot, where completions go on moving them (R49, R127). -/
def slotWords (k : Core) : List Word := tlWords k.tls ++ tlWords k.tlsPrev

/-- The core that holds something: the core at a position, or the one saved from there (R127, Table 2.6). -/
def holder (s : State) (core : Nat) (p : Core → Bool) : Option Core :=
  if p (coreOf s core) then some (coreOf s core)
  else (s.ctxs.map (fun c => (c.2.saved.map (·.cores)).flatten)).flatten.findSome? (fun x =>
    if x.pos % 2 ^ 20 = core ∧ p x.core = true then some x.core else none)

/-- The holder changed; a saved one's timelines also in its save slot. -/
def setHolder (s : State) (core : Nat) (p : Core → Bool) (f : Core → Core) : State :=
  if p (coreOf s core) then setCore s core (f (coreOf s core))
  else
    let mine (x : Saved) : Bool := decide (x.pos % 2 ^ 20 = core) && p x.core
    { s with
      ctxs := s.ctxs.map (fun c => (c.1, { c.2 with saved := c.2.saved.map (fun r =>
        { r with cores := r.cores.map (fun x => if mine x then { x with core := f x.core } else x) }) }))
      mem := ((allSavedCores s).filter mine).foldl (fun m x => writeWords m (slotTls x.slot) (slotWords (f x.core))) s.mem }

/-- Does a core hold an operation that satisfies a test? -/
def holdsOp (p : EngOp → Bool) (k : Core) : Bool := k.ops.any p

/-- An operation of a core. -/
def opFind (s : State) (core id : Nat) : Option EngOp := (coreOf s core).ops.find? (fun o => o.id == id)

/-- The state with an operation of a core changed. -/
def opSet (s : State) (core : Nat) (o : EngOp) : State :=
  let k := coreOf s core
  setCore s core { k with ops := k.ops.map (fun x => if x.id = o.id then o else x) }

/-- The state without an operation of a core. -/
def opErase (s : State) (core id : Nat) : State :=
  let k := coreOf s core
  setCore s core { k with ops := k.ops.filter (fun x => x.id != id) }

/-- An operation has done its work: its completion on its timeline follows (row TIMELINE_COMPLETE). -/
def opDone (s : State) (core : Nat) (o : EngOp) : State :=
  post (opSet s core { o with phase := phaseDone }) (.timelineComplete core o.tl o.num)

/-- The operation that satisfies a test, of a core that runs or is saved, has done its work. -/
def workDone (s : State) (core : Nat) (p : EngOp → Bool) : State :=
  let q (o : EngOp) : Bool := o.phase != phaseDone && p o
  match (holder s core (holdsOp q)).bind (fun k => k.ops.find? q) with
  | none => s
  | some o =>
    post (setHolder s core (holdsOp q) (fun k =>
      { k with ops := k.ops.map (fun x => if x.id = o.id then { x with phase := phaseDone } else x) }))
      (.timelineComplete core o.tl o.num)

/-- The number under which the accesses of an operation's core are in flight: its position, or that of the saved core. -/
def opCore (s : State) (core : Nat) (o : EngOp) : Nat :=
  if (coreOf s core).ops.contains o then core
  else ((allSavedCores s).find? (fun x => x.pos % 2 ^ 20 == core && x.core.ops.contains o)).elim core (·.pos)

/-- Has an operation done its work? A TLS has when its release is complete (R128). -/
def opReady (s : State) (core : Nat) (o : EngOp) : Bool :=
  match o.op with
  | .release scope before => releaseAt s (opCore s core o) false scope before o.id
  | _ => o.phase == phaseDone

/-- The operation of a timeline and number that is ready to complete, on the set of its own launch (R127). -/
def completes (s : State) (core tl n : Nat) (o : EngOp) : Bool := o.tl == tl && o.num == n && opReady s core o

/-- A walk whose state is released (R375): its number is free, and every WVCLOSE of it has done its work. -/
def releaseWalk (s : State) (asid wid : Nat) (cores : List Nat) : State :=
  match ctxOf s asid with
  | none => s
  | some c =>
    cores.foldl (fun st core => workDone st core (fun o => o.asid == asid && o.op == .walkClose wid))
      (setCtx s asid { c with walks := mapErase c.walks wid })

/-- The WVOPEN operation of a walk has completed: a WVCLOSE that waits for it releases the walk (R375, R376). -/
def openEnded (s : State) (asid wid : Nat) : State :=
  match ctxOf s asid with
  | none => s
  | some c => match mapGet c.walks wid with
    | none => s
    | some w =>
      if w.closing.isEmpty then setCtx s asid { c with walks := mapSet c.walks wid { w with doneOp := true } }
      else releaseWalk s asid wid w.closing

/-- What the completion of an operation brings about elsewhere. -/
def afterOp (s : State) (o : EngOp) : State :=
  match o.op with
  | .walkOpen wid => openEnded s o.asid wid
  | _ => s

/-- TIMELINE_COMPLETE (R127): the operation ends and V moves over the unbroken run. -/
def execTimelineComplete (core tl n : Nat) (s : State) : Host.Outcome State Fault Refusal :=
  .next (match (holder s core (holdsOp (completes s core tl n))).bind (fun k => k.ops.find? (completes s core tl n)) with
    | none => s
    | some o =>
      afterOp (setHolder s core (holdsOp (completes s core tl n)) (fun k =>
        tlComplete { k with ops := k.ops.filter (fun x => x.id != o.id) } o.serial (BitVec.ofNat 3 tl) n)) o)

/-- The completions of releases on tl7 that a core's operations await. -/
def enabledReleases (s : State) (core : Nat) : List Ev :=
  ((coreOf s core).ops.filter (fun o =>
    (match o.op with | .release _ _ => true | _ => false) && opReady s core o)).map (fun o => Ev.timelineComplete core o.tl o.num)

/-- Those of the saved cores (R49). -/
def enabledSavedReleases (s : State) : List Ev :=
  ((allSavedCores s).map (fun x => (x.core.ops.filter (fun o =>
    (match o.op with | .release _ _ => true | _ => false) && opReady s (x.pos % 2 ^ 20) o)).map
      (fun o => Ev.timelineComplete (x.pos % 2 ^ 20) o.tl o.num))).flatten

/-! ## Engine faults (R453, R454) -/

/-- Word 3 of event kind 3. -/
def eventEng (cause : BitVec 16) (core tl num : Nat) : Word :=
  BitVec.ofNat 64 (cause.toNat + core * 2 ^ 16 + tl * 2 ^ 37 + num % 2 ^ 24 * 2 ^ 40)

/-- The engine-fault event of an operation; kind 14 for a data error (R470). -/
def raiseEngine (s : State) (asid core tl num : Nat) (cause : BitVec 16) (va : Nat) : State :=
  if causeCode cause == causeDataError then
    raiseEvent s asid 14 (BitVec.ofNat 64 va)
      (BitVec.ofNat 64 (cause.toNat / 256 % 8 * 256 + core * 2 ^ 16 + blockOf core * 2 ^ 40))
  else raiseEvent s asid 3 (BitVec.ofNat 64 va) (eventEng cause core tl num)

/-- Does a fault stop an engine operation where it stands, to be retried (R453, R464)? -/
def engineRetries (cause : BitVec 16) : Bool :=
  let c := causeCode cause
  c == causeNotPresent || c == causeShadow || c == causeRemoteAbsent

/-- Does a cause that stops an operation raise no event (R454, R464)? -/
def engineQuiet (cause : BitVec 16) : Bool := causeCode cause == causeShadow || causeCode cause == causeRemoteAbsent

/-- What retries a held engine access of a context (R450, R453, R464): the done of a shoot-down, the restore of cores, or, for a push
that was refused, the end of CTXUPD, SNACC or SNREJ. -/
inductive Trigger where
  | done
  | restore (cores : List Nat)
  | shadow
  deriving DecidableEq, Repr

/-- Does a trigger retry what a cause holds for the core that issued it? A remote-absent cause ends with the restore of its target. -/
def Trigger.retries (t : Trigger) (cause : BitVec 16) (core : Nat) : Bool :=
  match t with
  | .done => true
  | .restore cs => cs.contains core || causeCode cause == causeRemoteAbsent
  | .shadow => causeCode cause == causeShadow

end Sys2Proof.Machine
end

