-- ==== Sys2Proof/Machine/Matrix.lean ====
section
/-!
DEFINITION. The matrix unit (spec 15): tiles, accumulators, the commands of the matrix queue with their checks at issue,
their execution, the round-robin arbitration (R306 to R309) and the ramp limiter (R397).
-/

namespace Sys2Proof.Machine

/-! ## Shapes (Tables 15.1, 15.2) -/

/-- The fields of a TSHAPE word. -/
def shFmt (w : Word) : Nat := field w 23 22
def shRows (w : Word) : Nat := field w 21 16
def shCols (w : Word) : Nat := field w 15 8
def shTy (w : Word) : BitVec 4 := BitVec.ofNat 4 (field w 3 0)

/-- The type of a shape; F32 for a reserved code. -/
def shType (w : Word) : Ty := (Ty.ofCode (shTy w)).getD .f32

/-- A TSHAPE word. -/
def mkShape (fmt rows cols : Nat) (ty : BitVec 4) : Word :=
  BitVec.ofNat 64 (fmt % 4 * 2 ^ 22 + rows % 64 * 2 ^ 16 + cols % 256 * 2 ^ 8 + ty.toNat)

/-- The types of fmt 1 (Table 15.2). -/
def sparseType (t : Ty) : Bool :=
  t == .f16 || t == .bf16 || t == .e4m3 || t == .e5m2 || t == .i8 || t == .u8 || t == .i4 || t == .gq4

/-- Is a number of columns legal for a format and type? -/
def colsOk (fmt : Nat) (t : Ty) (cols : Nat) : Bool :=
  match fmt with
  | 0 => if t == .gq4 then cols == 64 else decide (1 ≤ cols) && decide (cols ≤ 512 / t.width)
  | 1 => sparseType t && (if t == .gq4 then cols == 32 else decide (1 ≤ cols) && decide (cols ≤ 256 / t.width))
  | 2 => decide (1 ≤ cols) && decide (cols ≤ 32)
  | _ => false

/-- Is a shape legal when a command reads the tile (Table 15.2)? -/
def shapeLegal (w : Word) : Bool :=
  decide (1 ≤ shRows w) && decide (shRows w ≤ 32) && colsOk (shFmt w) (shType w) (shCols w) &&
  (Ty.ofCode (shTy w)).isSome && (shFmt w != 2 || shTy w == 0)

/-! ## Elements -/

/-- The raw element (r, c) of a tile, of z bits. -/
def tileRaw (t : TileVal) (z r c : Nat) : Nat := t.toNat / 2 ^ (512 * r + z * c) % 2 ^ z

/-- A tile with a run of bits of row r replaced. -/
def tilePut (t : TileVal) (r lo n v : Nat) : TileVal :=
  let m : TileVal := BitVec.ofNat 16384 ((2 ^ n - 1) * 2 ^ (512 * r + lo))
  (t &&& ~~~m) ||| BitVec.ofNat 16384 (v % 2 ^ n * 2 ^ (512 * r + lo))

/-- S of a row of a GQ4 tile, and its s. -/
def rowSuper (t : TileVal) (r : Nat) : Nat := t.toNat / 2 ^ (512 * r + 256) % 2 ^ 32
def rowScale (t : TileVal) (r : Nat) : Nat := t.toNat / 2 ^ (512 * r + 288) % 2 ^ 8

/-- The exact value of element (r, c) of a tile (R303). -/
def tileReal (t : TileVal) (ty : Ty) (r c : Nat) : Real :=
  if ty == .gq4 then gqDecode (decodeReal .f32 (rowSuper t r)) (rowScale t r) (tileRaw t 4 r c)
  else exactOf ty (tileRaw t ty.width r c)

/-- A tile from the bits of its rows. -/
def tileOfRows (rows : List Nat) : TileVal := BitVec.ofNat 16384 (rows.foldr (fun x acc => x % 2 ^ 512 + acc * 2 ^ 512) 0)

/-- The bits of a row from its elements of z bits. -/
def rowOfElems (z : Nat) (xs : List Nat) : Nat := xs.foldr (fun x acc => x % 2 ^ z + acc * 2 ^ z) 0

/-- Element (i, j) of an accumulator (R305). -/
def accElem (a : AccVal) (i j : Nat) : Nat := a.toNat / 2 ^ (32 * (32 * i + j)) % 2 ^ 32

/-- An accumulator from its elements. -/
def accOf (f : Nat → Nat → Nat) : AccVal :=
  BitVec.ofNat 32768 ((List.range 1024).foldr (fun n acc => f (n / 32) (n % 32) % 2 ^ 32 + acc * 2 ^ 32) 0)

/-! ## Products (R175, R176, R319, R320) -/

/-- The operand types that may meet (Table 15.5). -/
def mmaPair (a b : Ty) : Bool :=
  let e8 (t : Ty) : Bool := t == .e4m3 || t == .e5m2
  (a == b && (a == .f16 || a == .bf16 || a == .gq4 || a == .i8 || a == .u8 || a == .i4)) || (e8 a && e8 b)

/-- One step of 32 along K: the incoming value, if any, and the terms, rounded once to F32 or wrapped to I32. -/
def macStep (int : Bool) (c : Option Nat) (terms : List Real) : Nat :=
  let first := match c with
    | some x => [if int then exactOf .i32 x else decodeReal .f32 x]
    | none => []
  let s := Real.sum (first ++ terms)
  if int then wrapInt 32 (floorInt s) else roundReal .f32 rne 0 s

/-- The steps along K from a number on; `terms k` lists the terms of position k. -/
def macSteps (int : Bool) (terms : Nat → List Real) (kk : Nat) : Nat → Nat → Option Nat → Option Nat
  | 0, _, c => c
  | f + 1, m, c =>
    let ks := (List.range (min 32 (kk - 32 * m))).map (fun i => 32 * m + i)
    macSteps int terms kk f (m + 1) (some (macStep int c (ks.map terms).flatten))

/-- One element of a product of length kk. -/
def macElem (int : Bool) (c : Option Nat) (terms : Nat → List Real) (kk : Nat) : Nat :=
  (macSteps int terms kk ((kk + 31) / 32) 0 c).getD 0

/-- The accumulator after a product of m × n elements (R319). -/
def product (z int : Bool) (acc : AccVal) (m n kk : Nat) (terms : Nat → Nat → Nat → List Real) : AccVal :=
  accOf (fun i j =>
    if i < m ∧ j < n then macElem int (if z then none else some (accElem acc i j)) (terms i j) kk else accElem acc i j)

/-- The terms of MMA: one for each position. -/
def denseTerms (a b : TileVal) (ta tb : Ty) (i j k : Nat) : List Real := [Real.mul (tileReal a ta i k) (tileReal b tb j k)]

/-- The terms of MMAS: none, one or two for each position (R320). -/
def sparseTerms (a b meta_ : TileVal) (ta tb : Ty) (i j k : Nat) : List Real :=
  let g := k / 4
  let nib := tileRaw meta_ 4 i g
  let y := tileReal b tb j k
  (if nib % 4 = k % 4 then [Real.mul (tileReal a ta i (2 * g)) y] else []) ++
    (if nib / 4 = k % 4 then [Real.mul (tileReal a ta i (2 * g + 1)) y] else [])

/-! ## Checks at issue -/

/-- The shape check of MMA and MMAG. -/
def mmaOk (sa sb : Word) : Bool :=
  shapeLegal sa && shapeLegal sb && shFmt sa == 0 && shFmt sb == 0 && mmaPair (shType sa) (shType sb) && shCols sa == shCols sb

/-- The shape check of MMAS. -/
def mmasOk (sa sb sc : Word) : Bool :=
  shapeLegal sa && shapeLegal sb && shapeLegal sc && shFmt sa == 1 && shFmt sb == 0 && shFmt sc == 2 &&
  mmaPair (shType sa) (shType sb) && 2 * shCols sa == shCols sb && 4 * shCols sc == shCols sb && shRows sa == shRows sc

/-- The shape check of TTRN (R317). -/
def ttrnOk (sa : Word) : Bool :=
  shapeLegal sa && shFmt sa == 0 && decide (8 ≤ (shType sa).width) && decide (shCols sa ≤ 32) &&
  decide (shRows sa * (shType sa).width ≤ 512)

/-- The shape check of TCMP (R318). -/
def tcmpOk (sa : Word) : Bool := shapeLegal sa && shFmt sa == 0 && sparseType (shType sa) && shCols sa % 4 == 0

/-- The descriptor check of a command on memory: its tile coordinate and tile extents (R314). -/
def tensorOk (e : DescVal) (x : Word) : Bool := coordOk e x && dTx e 2 == 1 && dTx e 3 == 1

/-- The tile shape of a descriptor. -/
def tileShape (e : DescVal) : Word := mkShape 0 (dTx e 1) (dTx e 0) (dTy e)

/-- Are the tile extents of a descriptor within Table 15.2? -/
def tileExtentOk (e : DescVal) : Bool := decide (dTx e 1 ≤ 32) && colsOk 0 (dType e) (dTx e 0)

/-- The types ALD reads (R323), and those AST writes (R324). -/
def aldType (t : Ty) : Bool :=
  t == .f32 || t == .i32 || t == .f16 || t == .bf16 || t == .i8 || t == .u8 || t == .i16 || t == .u16
def astType (t : Ty) : Bool := !(t == .i4 || t == .gq4)

/-- Are the tile extents within an accumulator? -/
def accExtentOk (e : DescVal) : Bool := decide (dTx e 1 ≤ 32) && decide (dTx e 0 ≤ 32)

/-- Is a place in the matrix queue free (R306)? -/
def mqRoom (k : Core) : Bool := decide (k.mq.length < 8)

/-- The first word of an instruction. -/
def wordOf (i : Instr) : Word := (encode i).headD 0

/-- A matrix command of the issuing thread. -/
def newCmd (s : State) (i : Instr) (op : MOp) (desc : DescVal) (ch : BitVec 3) : MCmd :=
  { op := op, word := wordOf i, num := tlNext s.core 2, serial := (tlsNow s.core).serial, shapes := s.core.tshape, desc := desc
    priv := (thr s).priv, ch := ch, after := (thr s).seq, cursor := 0, started := false, stopped := false, raised := false
    partners := [], proxy := false, bshape := 0, bcore := s.me, failed := false, silent := false, why := 0 }

/-- The command joins tl2 and the matrix queue. -/
def pushCmd (s : State) (c : MCmd) : State :=
  let k := tlIssue s.core 2
  { s with core := { k with mq := k.mq ++ [c] } }

/-- The effect of a matrix command at issue: its check, its place in the queue, and what it does to TSHAPE. -/
def queueRes (i : Instr) (ok : Bool) (op : MOp) (desc : DescVal) (ch : BitVec 3) (shapes : Core → Core) (s : State) : Res :=
  if !ok then .trap causeMatrix 0
  else if !mqRoom s.core then .wait
  else
    let s1 := pushCmd s (newCmd s i op desc ch)
    .done { s1 with core := shapes s1.core }

/-- The effect of a command that names a tensor. -/
def tensorRes (id : BitVec 8) (s : State) (f : DescVal → Res) : Res :=
  match ldtGet s id with
  | none => .trap causeDescriptor 0
  | some e => f e

/-! ## The commands -/

/-- TLD (R315). -/
def execTld (h : Hdr) (d : TReg) (a : XReg) (id : BitVec 8) (s : State) : Host.Outcome State Fault Refusal :=
  issue infoC h { xr := [a] } (fun s => tensorRes id s (fun e =>
    queueRes (.tld h d a id) (tensorOk e (xget s a) && tileExtentOk e) (.tld d (xget s a)) e h.ch
      (fun k => shapeSet k d (tileShape e)) s)) s

/-- TST (R316). -/
def execTst (h : Hdr) (d : TReg) (a : XReg) (id : BitVec 8) (s : State) : Host.Outcome State Fault Refusal :=
  issue infoC h { xr := [a] } (fun s => tensorRes id s (fun e =>
    queueRes (.tst h d a id) (tensorOk e (xget s a) && tileExtentOk e && shapeLegal (shapeGet s.core d) &&
        (shapeGet s.core d &&& 0xFF_FF0F) == tileShape e)
      (.tst d (xget s a)) e h.ch (fun k => k) s)) s

/-- TZERO (R317). -/
def execTzero (h : Hdr) (d : TReg) (s : State) : Host.Outcome State Fault Refusal :=
  issue infoC h {} (queueRes (.tzero h d) true (.tzero d) 0 0 (fun k => k)) s

/-- TTRN (R317). -/
def execTtrn (h : Hdr) (d a : TReg) (s : State) : Host.Outcome State Fault Refusal :=
  issue infoC h {} (fun s =>
    let sa := shapeGet s.core a
    queueRes (.ttrn h d a) (ttrnOk sa) (.ttrn d a) 0 0 (fun k => shapeSet k d (mkShape 0 (shCols sa) (shRows sa) (shTy sa))) s) s

/-- TCMP (R318); d = b is refused at decode. -/
def execTcmp (h : Hdr) (d a b : TReg) (s : State) : Host.Outcome State Fault Refusal :=
  issue infoC h {} (fun s =>
    let sa := shapeGet s.core a
    queueRes (.tcmp h d a b) (tcmpOk sa) (.tcmp d a b) 0 0 (fun k =>
      shapeSet (shapeSet k d (mkShape 1 (shRows sa) (shCols sa / 2) (shTy sa))) b
        (mkShape 2 (shRows sa) (shCols sa / 4) 0)) s) s

/-- MMA (R319). -/
def execMma (h : Hdr) (z : Bool) (d : AReg) (a b : TReg) (s : State) : Host.Outcome State Fault Refusal :=
  issue infoC h {} (fun s =>
    queueRes (.mma h z d a b) (mmaOk (shapeGet s.core a) (shapeGet s.core b)) (.mma z d a b) 0 0 (fun k => k) s) s

/-- MMAS (R320). -/
def execMmas (h : Hdr) (z : Bool) (d : AReg) (a b c : TReg) (s : State) : Host.Outcome State Fault Refusal :=
  issue infoC h {} (fun s =>
    queueRes (.mmas h z d a b c) (mmasOk (shapeGet s.core a) (shapeGet s.core b) (shapeGet s.core c)) (.mmas z d a b c) 0 0 (fun k => k) s) s

/-- The members of the issuing gang whose guard is true: the cores whose tl2 an MMAG joins. -/
def joined (h : Hdr) (s : State) : List Nat := (gangOf s s.me).filter (fun c => guards (threadOf s c false) h)

/-- The conditions of R321 on an MMAG, which the first joined member checks. -/
def mmagOk (h : Hdr) (c : XReg) (s : State) : Bool :=
  let x := (threadOf s (leaderOf s s.me) false).xget c
  decide (2 ≤ (gangOf s s.me).length) && decide (x.toNat < 256) && (x.setWidth 8 &&& ~~~s.core.gang) == 0 || (joined h s).headD s.me != s.me

/-- The participants of an MMAG as a mask over octet members. -/
def participants (h : Hdr) (c : XReg) (s : State) : BitVec 8 :=
  let x := (threadOf s (leaderOf s s.me) false).xget c
  (joined h s).foldl (fun m q => if x.getLsbD (omiOf q) then setBit m (omiOf q) true else m) 0

/-- The product of an MMAG enters the queue of its leader, whose guard is false: it joins the tl2 of the others only (R321). -/
def pushSilent (s : State) (lead : Nat) (c : MCmd) : State :=
  let k := coreOf s lead
  setCore s lead { k with mq := k.mq ++ [{ c with num := 0, serial := (tlsNow k).serial, shapes := k.tshape, silent := true }] }

/-- The effect of MMAG on one member: the product stands in the leader's queue, and every other joined member's queue holds an entry
for it. Where the leader's guard is false the first joined member puts it there. -/
def mmagRes (h : Hdr) (z : Bool) (d : AReg) (a b : TReg) (c : XReg) (s : State) : Res :=
  if (gangOf s s.me).length < 2 || !mmagOk h c s then .trap causeGang 0
  else
    let lead := leaderOf s s.me
    let ps := participants h c s
    let sb := shapeGet (coreOf s lead) b
    if ps.getLsbD (omiOf s.me) && !mmaOk (shapeGet s.core a) sb then .trap causeMatrix 0
    else if !mqRoom s.core || (s.me == (joined h s).headD s.me && !mqRoom (coreOf s lead)) then .wait
    else
      let others := ((joined h s).filter (· != lead)).map (fun q => (q, tlNext (coreOf s q) 2))
      let cmd := { newCmd s (.mmag h z d a b c) (.mmag z d a b ps) 0 0 with bshape := sb, bcore := lead }
      let main := { cmd with partners := others }
      if s.me = lead then .done (pushCmd s main)
      else
        let s1 := if s.me = (joined h s).headD s.me ∧ lead ∉ joined h s then pushSilent s lead main else s
        .done (pushCmd s1 { cmd with partners := [(lead, 0)], proxy := true })

/-- MMAG. (DEDUCED: log 14.) -/
def execMmag (h : Hdr) (z : Bool) (d : AReg) (a b : TReg) (c : XReg) (s : State) : Host.Outcome State Fault Refusal :=
  issue infoC h { xr := [c] } (mmagRes h z d a b c) s

/-- AZERO (R322). -/
def execAzero (h : Hdr) (d : AReg) (s : State) : Host.Outcome State Fault Refusal :=
  issue infoC h {} (queueRes (.azero h d) true (.azero d) 0 0 (fun k => k)) s

/-- ALD (R323). -/
def execAld (h : Hdr) (d : AReg) (a : XReg) (id : BitVec 8) (s : State) : Host.Outcome State Fault Refusal :=
  issue infoC h { xr := [a] } (fun s => tensorRes id s (fun e =>
    queueRes (.ald h d a id) (tensorOk e (xget s a) && accExtentOk e && aldType (dType e)) (.ald d (xget s a)) e h.ch (fun k => k) s)) s

/-- AST (R324). -/
def execAst (h : Hdr) (r : Rnd) (d : AReg) (a : XReg) (id : BitVec 8) (s : State) : Host.Outcome State Fault Refusal :=
  issue infoC h { xr := [a] } (fun s => tensorRes id s (fun e =>
    queueRes (.ast h r d a id) (tensorOk e (xget s a) && accExtentOk e && astType (dType e)) (.ast r d (xget s a)) e h.ch (fun k => k) s)) s

/-- ACVT (R325). -/
def execAcvt (h : Hdr) (ty : Ty) (r : Rnd) (d : TReg) (a : AReg) (s : State) : Host.Outcome State Fault Refusal :=
  issue infoC h {} (queueRes (.acvt h ty r d a) true (.acvt ty r d a) 0 0 (fun k => shapeSet k d (mkShape 0 32 32 ty.code))) s

/-- AADD (R322). -/
def execAadd (h : Hdr) (int : Bool) (d a b : AReg) (s : State) : Host.Outcome State Fault Refusal :=
  issue infoC h {} (queueRes (.aadd h int d a b) true (.aadd int d a b) 0 0 (fun k => k)) s

/-- MQRY's word (Table 15.7). -/
def mqryWord (s : State) : Word :=
  let tl := tlGet (tlsNow s.core) 2
  let busy := (List.range 8).foldl (fun n m => if (coreOf s (octetCore s.me m)).mq.isEmpty then n else n + 2 ^ m) 0
  BitVec.ofNat 64 (min 0xFFFF (tl.i - tl.v) * 2 ^ 32 + busy * 2 ^ 16 + s.core.mqWeight.toNat * 2 ^ 8 +
    (8 - s.core.mq.length))

/-- MQRY. -/
def execMqry (h : Hdr) (d : XReg) (s : State) : Host.Outcome State Fault Refusal :=
  issue infoC h { xw := [d] } (fun s => writeX d (mqryWord s) s) s

/-! ## Execution of commands on registers -/

/-- TTRN (R317). -/
def doTtrn (a : TileVal) (sa : Word) : TileVal :=
  let z := (shType sa).width
  tileOfRows ((List.range (shCols sa)).map (fun c =>
    rowOfElems z ((List.range (shRows sa)).map (fun r => tileRaw a z r c))))

/-- Is the magnitude of element x greater than that of y (R318)? -/
def magGreater (t : Ty) (x y : Nat) : Bool :=
  if t == .gq4 then decide (x % 8 > y % 8)
  else
    let rx := exactOf t x
    let ry := exactOf t y
    if rx.isNan then !ry.isNan else if ry.isNan then false else Real.lt ry.abs rx.abs

/-- The positions of a group in order of magnitude, equal magnitudes in ascending order. -/
def insertPos (t : Ty) (g : Nat → Nat) (k : Nat) : List Nat → List Nat
  | [] => [k]
  | p :: ps => if magGreater t (g k) (g p) then k :: p :: ps else p :: insertPos t g k ps

/-- The two kept positions of a group, lower first. -/
def keptPair (t : Ty) (g : Nat → Nat) : Nat × Nat :=
  let o := [0, 1, 2, 3].foldl (fun l k => insertPos t g k l) []
  let p := o.getD 0 0
  let q := o.getD 1 1
  (min p q, max p q)

/-- TCMP's values and metadata tiles (R318). -/
def doTcmp (a : TileVal) (sa : Word) : TileVal × TileVal :=
  let t := shType sa
  let z := t.width
  let rows := List.range (shRows sa)
  let groups := List.range (shCols sa / 4)
  let pair (r g : Nat) : Nat × Nat := keptPair t (fun k => tileRaw a z r (4 * g + k))
  let vrow (r : Nat) : Nat :=
    rowOfElems z ((groups.map (fun g => [tileRaw a z r (4 * g + (pair r g).1), tileRaw a z r (4 * g + (pair r g).2)])).flatten) +
      (if t == .gq4 then (rowSuper a r + rowScale a r * 2 ^ 32) * 2 ^ 256 else 0)
  (tileOfRows (rows.map vrow), tileOfRows (rows.map (fun r => rowOfElems 4 (groups.map (fun g => (pair r g).2 * 4 + (pair r g).1)))))

/-- AADD (R322). -/
def doAadd (int : Bool) (a b : AccVal) : AccVal :=
  accOf (fun i j =>
    if int then accElem a i j + accElem b i j
    else roundReal .f32 rne 0 (Real.sum [decodeReal .f32 (accElem a i j), decodeReal .f32 (accElem b i j)]))

/-- An accumulator element as the destination type reads it (R305). -/
def accReal (dst : Ty) (x : Nat) : Real := if dst.isInt then exactOf .i32 x else decodeReal .f32 x

/-- ACVT (R325). -/
def doAcvt (t : Ty) (r : Rnd) (a : AccVal) : TileVal :=
  tileOfRows ((List.range 32).map (fun i =>
    rowOfElems t.width ((List.range 32).map (fun j => roundTo t r ((32 * i + j) % 64) (accReal t (accElem a i j))))))

/-! ## Execution of commands on memory (R309, R315, R316, R323, R324) -/

/-- What a run of engine accesses came to: complete, or stopped after some bytes at a cause and an address; with no cause, it waits
at its home. -/
structure RunRes where
  st : State
  bytes : List Byte
  bad : Option (Option (BitVec 16) × Nat)

/-- A read of n bytes, part by part, up to the first fault. -/
def readRun (core : Nat) (q : Req) : List (Nat × Nat × Nat) → RunRes → RunRes
  | [], r => r
  | p :: ps, r =>
    match homeDo r.st core false { q with r := true } p.1 .read p.2.1 with
    | (s1, .fault c) => { r with st := s1, bad := some (some c, p.1) }
    | (s1, .wait) => { r with st := s1, bad := some (none, p.1) }
    | (s1, .bytes b) => readRun core q ps { r with st := s1, bytes := r.bytes ++ b }

/-- The request of a matrix command (R309). -/
def cmdReq (s : State) (core : Nat) (c : MCmd) : Req := { coreReq s core c.priv c.ch with who := some (.mat core) }

/-- n bytes of memory for a matrix command; aperture bytes through their ports. -/
def cmdRead (s0 : State) (core : Nat) (c : MCmd) (va n : Nat) : RunRes :=
  let s := watch s0 core va n true false
  if isAperture va then
    match engineRead s core false (cmdReq s core c) va n with
    | (s1, .bytes b) => { st := s1, bytes := b, bad := none }
    | (s1, .fault f) => { st := s1, bytes := [], bad := some (some f, va) }
    | (s1, .wait) => { st := s1, bytes := [], bad := some (none, va) }
  else readRun core (cmdReq s core c) (splitLines va n) { st := s, bytes := [], bad := none }

/-- The elements of a row of a tile that memory holds: those read, and the fault that ended the reading. -/
def readRow (s : State) (core : Nat) (c : MCmd) (x : Word) (r : Nat) : RunRes × List Nat :=
  let e := c.desc
  let z := (dType e).width
  let n := rowLen e x r
  if n = 0 then ({ st := s, bytes := [], bad := none }, [])
  else
    let a := rowStart e x r
    let res := cmdRead s core c a.1 ((a.2 + n * z + 7) / 8)
    let have_ := min n ((res.bytes.length * 8 - a.2) / z)
    let v := leNat res.bytes / 2 ^ a.2
    (res, (List.range have_).map (fun i => v / 2 ^ (z * i) % 2 ^ z))

/-- Where a row of a command stops: the cause, or none where it waits, the address, and the part of the row. -/
structure RowStop where
  cause : Option (BitVec 16)
  va : Nat
  part : Nat
  deriving DecidableEq, Repr

/-- The runs of n bytes at an address that one store each writes: a first or last byte with a foreign nibble stands alone (R309). -/
def wholeRuns (mask va n off : Nat) : List (Nat × Nat × Nat) :=
  let full (i : Nat) : Bool := mask / 2 ^ (8 * (off + i)) % 256 == 255
  let lo := if full 0 then 0 else 1
  let hi := if lo < n ∧ full (n - 1) = false then n - 1 else n
  (if lo = 1 then [(va, 1, off)] else []) ++ (if lo < hi then [(va + lo, hi - lo, off + lo)] else []) ++
  (if hi < n then [(va + hi, 1, off + hi)] else [])

/-- A write of runs of bytes: whole bytes in one store a run, a byte with a foreign nibble by one indivisible rewrite. -/
def writeParted (core : Nat) (q : Req) (mask val : Nat) (part : Nat) : List (Nat × Nat × Nat) → State → State × Option RowStop
  | [], s => (s, none)
  | p :: ps, s =>
    let m := mask / 2 ^ (8 * p.2.2) % 2 ^ (8 * p.2.1)
    let v := val / 2 ^ (8 * p.2.2) % 2 ^ (8 * p.2.1)
    let op : HomeOp :=
      if m = 2 ^ (8 * p.2.1) - 1 then .write (leBytes p.2.1 v)
      else .rmw (fun old => some (leBytes p.2.1 ((leNat old &&& (m ^^^ (2 ^ (8 * p.2.1) - 1))) ||| (v &&& m))))
    match homeDo s core false { q with w := true } p.1 op p.2.1 with
    | (s1, .fault c) => (s1, some ⟨some c, p.1, part⟩)
    | (s1, .wait) => (s1, some ⟨none, p.1, part⟩)
    | (s1, .bytes _) => writeParted core q mask val part ps s1

/-- The parts of a row, numbered, written in order. -/
def writeLines (core : Nat) (q : Req) (mask val : Nat) : List (Nat × Nat × Nat × Nat) → State → State × Option RowStop
  | [], s => (s, none)
  | p :: ps, s =>
    match writeParted core q mask val p.1 (wholeRuns mask p.2.1 p.2.2.1 p.2.2.2) s with
    | (s1, none) => writeLines core q mask val ps s1
    | r => r

/-- The unclipped elements of a row of a tile written to memory, from a part of the row on. -/
def writeRow (s : State) (core : Nat) (c : MCmd) (x : Word) (r start : Nat) (elems : List Nat) : State × Option RowStop :=
  let e := c.desc
  let z := (dType e).width
  let n := rowLen e x r
  if n = 0 then (s, none)
  else
    let a := rowStart e x r
    let bytes := (a.2 + n * z + 7) / 8
    let ps := splitLines a.1 bytes
    writeLines core (cmdReq s core c) ((2 ^ (n * z) - 1) * 2 ^ a.2) (rowOfElems z (elems.take n) * 2 ^ a.2)
      (((List.range ps.length).zip ps).drop start) (watch s core a.1 bytes false true)

/-- S and s of a row's block (R174). -/
def readScales (s : State) (core : Nat) (c : MCmd) (x : Word) (r : Nat) : RunRes × Nat :=
  let a := scaleAddr c.desc (rowBlock c.desc x r)
  let r1 := cmdRead s core c a.1 4
  match r1.bad with
  | some _ => (r1, 0)
  | none =>
    let r2 := cmdRead r1.st core c a.2 1
    (r2, leNat r1.bytes + leNat r2.bytes * 2 ^ 32)

/-- A command's outcome at one row. -/
structure RowRes where
  st : State
  bad : Option RowStop

/-- A row that only reads stops at its start: it is read again. -/
def rowStop (b : Option (Option (BitVec 16) × Nat)) : Option RowStop := b.map (fun x => ⟨x.1, x.2, 0⟩)

/-- One row of a TLD. -/
def tldRow (core : Nat) (c : MCmd) (d : TReg) (x : Word) (s : State) (r _start : Nat) : RowRes :=
  let t := dType c.desc
  let rr := readRow s core c x r
  let put (st : State) (lo n v : Nat) : State := setCore st core (tset (coreOf st core) d (tilePut (tget (coreOf st core) d) r lo n v))
  let s1 := put rr.1.st 0 (t.width * rr.2.length) (rowOfElems t.width rr.2)
  match rr.1.bad with
  | some b => { st := s1, bad := rowStop (some b) }
  | none =>
    if t == .gq4 ∧ rowLen c.desc x r ≠ 0 then
      let sc := readScales s1 core c x r
      { st := if sc.1.bad.isNone then put sc.1.st 256 40 sc.2 else sc.1.st, bad := rowStop sc.1.bad }
    else { st := s1, bad := none }

/-- One row of a TST: for GQ4 the codes and then the block scale, its last part. -/
def tstRow (core : Nat) (c : MCmd) (d : TReg) (x : Word) (s : State) (r start : Nat) : RowRes :=
  let t := dType c.desc
  let tile := tget (coreOf s core) d
  let w := writeRow s core c x r start ((List.range (rowLen c.desc x r)).map (fun i => tileRaw tile t.width r i))
  match w.2 with
  | some b => { st := w.1, bad := some b }
  | none =>
    if t == .gq4 ∧ rowLen c.desc x r ≠ 0 then
      let a := (scaleAddr c.desc (rowBlock c.desc x r)).2
      match engineWrite (watch w.1 core a 1 false true) core false (cmdReq s core c) a [BitVec.ofNat 8 (rowScale tile r)] with
      | (s1, .fault f) => { st := s1, bad := some ⟨some f, a, 7⟩ }
      | (s1, .wait) => { st := s1, bad := some ⟨none, a, 7⟩ }
      | (s1, .bytes _) => { st := s1, bad := none }
    else { st := w.1, bad := none }

/-- An element of ALD: F32 and I32 bit for bit, the others converted exactly (R323). -/
def aldElem (t : Ty) (x : Nat) : Nat :=
  if t == .f32 || t == .i32 then x else if t.isInt then wrapInt 32 (intOf t x) else roundReal .f32 rne 0 (decodeReal t x)

/-- One row of an ALD. -/
def aldRow (core : Nat) (c : MCmd) (d : AReg) (x : Word) (s : State) (r _start : Nat) : RowRes :=
  let rr := readRow s core c x r
  let k := coreOf rr.1.st core
  let m : AccVal := BitVec.ofNat 32768 ((2 ^ (32 * rr.2.length) - 1) * 2 ^ (1024 * r))
  let v : AccVal := BitVec.ofNat 32768 (rowOfElems 32 (rr.2.map (aldElem (dType c.desc))) * 2 ^ (1024 * r))
  { st := setCore rr.1.st core (aset k d ((aget k d &&& ~~~m) ||| v)), bad := rowStop rr.1.bad }

/-- An element of AST (R324). -/
def astElem (e : DescVal) (rnd : Rnd) (x : Word) (r c v : Nat) : Nat :=
  let t := dType e
  roundTo t (if t.isInt then rne else rnd) ((r * dTx e 0 + c) % 64 + (dDph e + 17 * tileIndex e x) % 64) (accReal t v)

/-- One row of an AST. -/
def astRow (core : Nat) (c : MCmd) (rnd : Rnd) (d : AReg) (x : Word) (s : State) (r start : Nat) : RowRes :=
  let a := aget (coreOf s core) d
  let w := writeRow s core c x r start ((List.range (rowLen c.desc x r)).map (fun i => astElem c.desc rnd x r i (accElem a r i)))
  { st := w.1, bad := w.2 }

/-- The rows of a command from its cursor on, up to the first stop: the state, the row, the stop. `start` is the part of the first row
at which it goes on. -/
def runRows (f : State → Nat → Nat → RowRes) : List Nat → Nat → State → State × Option (Nat × RowStop)
  | [], _, s => (s, none)
  | r :: rs, start, s =>
    let x := f s r start
    match x.bad with
    | some b => (x.st, some (r, b))
    | none => runRows f rs 0 x.st

/-- Tiles and accumulators that a command reads on its own core. -/
def cmdReadsT : MOp → List TReg
  | .tst d _ => [d]
  | .ttrn _ a => [a]
  | .tcmp _ a _ => [a]
  | .mma _ _ a b => [a, b]
  | .mmas _ _ a b c => [a, b, c]
  | .mmag _ _ a _ _ => [a]
  | _ => []

/-- Accumulators that a command reads. -/
def cmdReadsA : MOp → List AReg
  | .mma false d _ _ => [d]
  | .mmas false d _ _ _ => [d]
  | .mmag false d _ _ _ => [d]
  | .ast _ d _ => [d]
  | .acvt _ _ _ a => [a]
  | .aadd _ _ a b => [a, b]
  | _ => []

/-- Does a command read a tile or accumulator of a core with an uncorrectable error (R471)? -/
def cmdPoison (k : Core) (op : MOp) : Bool :=
  (cmdReadsT op).any (fun r => k.tPoison.getLsbD r.toNat) || (cmdReadsA op).any (fun r => k.aPoison.getLsbD r.toNat)

/-- The participants of an MMAG as cores. -/
def mmagCores (core : Nat) (mask : BitVec 8) : List Nat :=
  ((List.range 8).filter (fun m => mask.getLsbD m)).map (octetCore core)

/-- The core whose queue entry, tile or accumulator makes a command fail, if any (R471): of an MMAG the first found, the leader's tile
being read at the start and the participants one after the other (R321, R484). -/
def cmdFailing (s : State) (core : Nat) (c : MCmd) : List Nat :=
  match c.op with
  | .mmag _ _ _ b mask =>
    let ps := mmagCores core mask
    (if !ps.isEmpty && (coreOf s c.bcore).tPoison.getLsbD b.toNat then [c.bcore] else []) ++ (if c.failed then [core] else []) ++
      (c.partners.map (·.1)).filter (fun p => ((coreOf s p).mq.head?).any (·.failed)) ++
      ps.filter (fun p => cmdPoison (coreOf s p) c.op)
  | op => if cmdPoison (coreOf s core) op || c.failed then [core] else []

/-- A command that fails makes every core whose tl2 it joined pending for a trap of class T (R471). -/
def failTraps (s : State) (core : Nat) (c : MCmd) (bad : List Nat) : State :=
  ((if c.silent then [] else [(core, c.num)]) ++ c.partners).foldl (fun st p =>
    addTrap st p.1 false (if bad.contains p.1 then withKind causeDataError 3 else causePartner) (BitVec.ofNat 64 p.2)) s

/-- The registers a command has written hold good values again. -/
def clearTA (k : Core) (ts : List TReg) (as : List AReg) : Core :=
  { k with tPoison := ts.foldl (fun p r => setBit p r.toNat false) k.tPoison
           aPoison := as.foldl (fun p r => setBit p r.toNat false) k.aPoison }

/-- The shape of a tile that a command read at issue. -/
def cmdShape (c : MCmd) (r : TReg) : Word := c.shapes[r.toNat]'r.isLt

/-- The command with which a participant of an MMAG takes part: the entry at the head of its own queue. -/
def mmagOwn (s : State) (core : Nat) (c : MCmd) (p : Nat) : MCmd := if p = core then c else (coreOf s p).mq.headD c

/-- The product that an MMAG forms on one participant. -/
def mmagOn (s : State) (core : Nat) (c : MCmd) (z : Bool) (d : AReg) (a : TReg) (leaderB : TileVal) (p : Nat) : State :=
  let k := coreOf s p
  let own := mmagOwn s core c p
  let sa := cmdShape own a
  let sb := c.bshape
  let v := product z (shType sa).isInt (aget k d) (shRows sa) (shRows sb) (shCols sb)
    (denseTerms (tget k a) leaderB (shType sa) (shType sb))
  setCore s p (clearTA (aset k d v) [] [d])

/-- A command on registers, executed on its core. -/
def doRegs (s : State) (core : Nat) (c : MCmd) : State :=
  let k := coreOf s core
  match c.op with
  | .tzero d => setCore s core (clearTA (tset k d 0) [d] [])
  | .ttrn d a => setCore s core (clearTA (tset k d (doTtrn (tget k a) (cmdShape c a))) [d] [])
  | .tcmp d a b =>
    let r := doTcmp (tget k a) (cmdShape c a)
    setCore s core (clearTA (tset (tset k d r.1) b r.2) [d, b] [])
  | .mma z d a b =>
    let sa := cmdShape c a
    let sb := cmdShape c b
    setCore s core (clearTA (aset k d (product z (shType sa).isInt (aget k d) (shRows sa) (shRows sb) (shCols sa)
      (denseTerms (tget k a) (tget k b) (shType sa) (shType sb)))) [] [d])
  | .mmas z d a b m =>
    let sa := cmdShape c a
    let sb := cmdShape c b
    setCore s core (clearTA (aset k d (product z (shType sa).isInt (aget k d) (shRows sa) (shRows sb) (shCols sb)
      (sparseTerms (tget k a) (tget k b) (tget k m) (shType sa) (shType sb)))) [] [d])
  | .mmag z d a b mask =>
    (mmagCores core mask).foldl (fun st p => mmagOn st core c z d a (tget (coreOf s c.bcore) b) p) s
  | .azero d => setCore s core (clearTA (aset k d 0) [] [d])
  | .acvt t r d a => setCore s core (clearTA (tset k d (doAcvt t r (aget k a))) [d] [])
  | .aadd int d a b => setCore s core (clearTA (aset k d (doAadd int (aget k a) (aget k b))) [] [d])
  | _ => s

/-- The rows of a command on memory, with the destination zeroed at its start. -/
def doMem (s : State) (core : Nat) (c : MCmd) : State × Option (Nat × RowStop) :=
  let k := coreOf s core
  let rows := (List.range (dTx c.desc 1)).drop (c.cursor / 8)
  let start := c.cursor % 8
  match c.op with
  | .tld d x =>
    runRows (tldRow core c d x) rows start (if c.cursor = 0 then setCore s core (clearTA (tset k d 0) [d] []) else s)
  | .tst d x => runRows (tstRow core c d x) rows start s
  | .ald d x =>
    runRows (aldRow core c d x) rows start (if c.cursor = 0 then setCore s core (clearTA (aset k d 0) [] [d]) else s)
  | .ast r d x => runRows (astRow core c r d x) rows start s
  | _ => (s, none)

/-! ## Completion (R307, R453) -/

/-- The head of a core's matrix queue. -/
def mqHead (s : State) (core : Nat) : Option MCmd := (coreOf s core).mq.head?

/-- The head of a core's matrix queue replaced. -/
def setHead (s : State) (core : Nat) (c : MCmd) : State :=
  let k := coreOf s core
  setCore s core { k with mq := c :: k.mq.drop 1 }

/-- A core's head command leaves its queue and completes on tl2. -/
def popCmd (s : State) (core : Nat) (num : Nat) : State :=
  let k := coreOf s core
  match k.mq with
  | [] => s
  | c :: cs => setCore s core (if c.silent then { k with mq := cs } else tlComplete { k with mq := cs } c.serial 2 num)

/-- A started command ends: it completes on the tl2 of every core that it joined. -/
def endCmd (s : State) (core : Nat) (c : MCmd) : State :=
  ((core, c.num) :: c.partners).foldl (fun st p => popCmd st p.1 p.2) s

/-- A started command does its work; one that a translation fault stops keeps its place with its cursor (R453). -/
def completeCmd (s : State) (core : Nat) : State :=
  match mqHead s core with
  | none => s
  | some c =>
    if !c.started || c.stopped || c.proxy then s
    else match cmdFailing s core c with
    | b :: _ => endCmd (failTraps (errorFound 3 s b) core c [b]) core c
    | [] =>
      let r := doMem (doRegs s core c) core c
      match r.2 with
      | none => endCmd r.1 core c
      | some (row, stop) =>
        let asid := (coreOf s core).ctx.getD 0
        let here := { c with cursor := 8 * row + stop.part }
        match stop.cause with
        | none => setHead r.1 core here
        | some cause =>
          if engineRetries cause then
            let s1 := if c.raised || engineQuiet cause then r.1 else raiseEngine r.1 asid core 2 c.num cause stop.va
            setHead s1 core { here with stopped := true, raised := c.raised || !engineQuiet cause, why := cause }
          else endCmd (raiseEngine r.1 asid core 2 c.num cause stop.va) core c

/-- MATRIX_COMMAND_COMPLETE. (DESIGN CHOICE: log 32.) -/
def execMatrixCommandComplete (core : Nat) (s : State) : Host.Outcome State Fault Refusal := .next (completeCmd s core)

/-! ## Arbitration (R308) and the ramp limiter (R397) -/

/-- Operand width class of Table 15.3: multiplications a cycle. -/
def macRate (t : Ty) : Nat := if t.width = 16 then 256 else if t.width = 8 then 512 else 1024

/-- Cycles that a command occupies the unit (Table 15.3): an MMAG those of each participant's own product. (DESIGN CHOICE: log 7.) -/
def cmdCycles (s : State) (core : Nat) (c : MCmd) : Nat :=
  let mm (sa sb : Word) (kk r : Nat) : Nat := max 8 ((shRows sa * shRows sb * kk + r - 1) / r)
  match c.op with
  | .tzero _ => 4
  | .azero _ => 4
  | .ttrn _ _ => 16
  | .tcmp _ _ _ => 16
  | .acvt _ _ _ _ => 16
  | .aadd _ _ _ _ => 32
  | .mma _ _ a b => mm (cmdShape c a) (cmdShape c b) (shCols (cmdShape c a)) (macRate (shType (cmdShape c a)))
  | .mmas _ _ a b _ => mm (cmdShape c a) (cmdShape c b) (shCols (cmdShape c b)) (2 * macRate (shType (cmdShape c a)))
  | .mmag _ _ a _ mask =>
    ((mmagCores core mask).map (fun p =>
      let sa := cmdShape (mmagOwn s core c p) a
      mm sa c.bshape (shCols c.bshape) (macRate (shType sa)))).foldl (· + ·) 0
  | _ => (dTx c.desc 1 * rowBytes (dType c.desc) (dTx c.desc 0) + 63) / 64

/-- Tile operations that a command is charged: an MMAG one for each participant (R308). -/
def cmdCharge (core : Nat) (c : MCmd) : Nat :=
  match c.op with
  | .mmag _ _ _ _ mask => (mmagCores core mask).length
  | _ => 1

/-- Does the command read or write memory? -/
def cmdMem : MOp → Bool
  | .tld _ _ => true
  | .tst _ _ => true
  | .ald _ _ => true
  | .ast _ _ _ => true
  | _ => false

/-- Is the head command of a core ready to start (R307, R309)? -/
def cmdReady (s : State) (core : Nat) : Bool :=
  let k := coreOf s core
  match k.mq with
  | [] => false
  | c :: _ =>
    k.powered && !k.stopped && !k.contained && !k.dbg.halted && !k.stopReq && k.dbg.pendHalt.isNone && !c.started && !c.proxy &&
    (!cmdMem c.op || !(accsOf s core false).any (fun a => a.op.writes && decide (a.seq < c.after) && !a.performed)) &&
    c.partners.all (fun p => match mqHead s p.1 with
      | some q => q.proxy && q.num == p.2 && !(coreOf s p.1).stopped
      | none => false)

/-- The member cores of an octet of a block. -/
def octetCores (blk octet : Nat) : List Nat :=
  let base := coreAt (blk / 16 * 64 + octet / 16 * 2) (blk % 16 * 64 + octet % 16 * 4)
  (List.range 8).map (octetCore base)

/-- Does a command of the octet occupy the unit? A stopped command leaves the unit to the other cores. -/
def unitBusy (s : State) (cores : List Nat) : Bool :=
  cores.any (fun c => match mqHead s c with
    | some m => m.started && !m.stopped && !m.proxy
    | none => false)

/-- Does the limiter let a command of n cycles start? -/
def rampAllows (b : Block) (d : Device) (n : Nat) : Bool :=
  let b1 := b.rampTo d (d.time / 1000)
  !d.rampcfg.getLsbD 16 || decide (b1.rampCur + n ≤ b1.rampPrev + rampStep d)

/-- The member whose turn goes on or begins, with what is left of the turn: one more than the charges that it may still start, 0 where a
charge above the weight ended it. The present one goes on while its charge fits, else the next with a ready command has its turn, in
ascending order. (DESIGN CHOICE: log 96.) -/
def nextTurn (s : State) (cores : List Nat) (cur left : Nat) : Option (Nat × Nat) :=
  let ready (m : Nat) : Bool := cmdReady s (cores.getD m 0)
  let charge (m : Nat) : Nat := match mqHead s (cores.getD m 0) with
    | some c => cmdCharge (cores.getD m 0) c
    | none => 1
  if ready cur && decide (charge cur < left) then some (cur, left - charge cur)
  else
    ((List.range 8).map (fun i => (cur + 1 + i) % 8)).find? ready |>.map (fun m =>
      (m, (coreOf s (cores.getD m 0)).mqWeight.toNat + 1 - charge m))

/-- The unit of an octet starts one command, whose cycles count in the microsecond in which it starts. (DESIGN CHOICE: log 100.) -/
def arbitrate (s : State) (blk octet : Nat) : State :=
  let cores := octetCores blk octet
  let b := blockAt s blk
  if unitBusy s cores then s
  else match nextTurn s cores ((mapGet b.rrTurn octet).getD 0) ((mapGet b.rrLeft octet).getD 0) with
  | none => s
  | some (m, left) =>
    let core := cores.getD m 0
    match mqHead s core with
    | none => s
    | some c =>
      let n := cmdCycles s core c
      if rampAllows b s.dev n then
        let b1 := b.rampTo s.dev (s.dev.time / 1000)
        setHead (setBlock s blk { b1 with rrTurn := mapSet b1.rrTurn octet m, rrLeft := mapSet b1.rrLeft octet left
                                          rampCur := b1.rampCur + n }) core { c with started := true }
      else s

/-- MATRIX_ARBITRATION. -/
def execMatrixArbitration (blk octet : Nat) (s : State) : Host.Outcome State Fault Refusal := .next (arbitrate s blk octet)

/-- RAMP_WINDOW: the microsecond that the block counts has ended. -/
def execRampWindow (blk : Nat) (s : State) : Host.Outcome State Fault Refusal :=
  .next (setBlock s blk ((blockAt s blk).rampTo s.dev (s.dev.time / 1000)))

/-! ## What is enabled -/

/-- The steps of the matrix unit that a core's queue enables. -/
def enabledMatrix (s : State) (core : Nat) : List Ev :=
  match mqHead s core with
  | none => []
  | some c =>
    if c.started && !c.stopped && !c.proxy then [Ev.matrixCommandComplete core]
    else if cmdReady s core && !unitBusy s (octetCores (blockOf core) (octetOf core)) then
      [Ev.matrixArbitration (blockOf core) (octetOf core)]
    else []

/-- A stopped command of a core that a trigger retries (R453). -/
def retryMatrix (t : Trigger) (s : State) (core : Nat) : State :=
  match mqHead s core with
  | some c => if c.stopped && t.retries c.why core then setHead s core { c with stopped := false } else s
  | none => s

end Sys2Proof.Machine
end

