-- ==== Sys2Proof/Machine/Control.lean ====
section
/-!
DEFINITION. Control transfer (R264, R265), gangs (R43 to R45, R267, R268), sleep (R269) and the end of a task (R38); with
the device steps that complete a FUSE, a SLEEP and a wake.
-/

namespace Sys2Proof.Machine

/-! ## Transfers (Table 13.3) -/

/-- Facts of a transfer that is always taken. -/
def infoJump : Info := { infoCM with transfer := true }

/-- BR. -/
def execBr (h : Hdr) (imm : BitVec 18) (s : State) : Host.Outcome State Fault Refusal :=
  issue infoJump h {} (fun s => .jump s (relTarget (thr s).pc imm)) s

/-- BRX. -/
def execBrx (h : Hdr) (a : XReg) (s : State) : Host.Outcome State Fault Refusal :=
  issue infoJump h { xr := [a] } (fun s => .jump s (xget s a)) s

/-- CALL. -/
def execCall (h : Hdr) (d : XReg) (imm : BitVec 18) (s : State) : Host.Outcome State Fault Refusal :=
  issue infoJump h { xw := [d] } (fun s => .jump (xset s d ((thr s).pc + 8)) (relTarget (thr s).pc imm)) s

/-- CALLX: the target is read before the link is written. -/
def execCallx (h : Hdr) (d a : XReg) (s : State) : Host.Outcome State Fault Refusal :=
  issue infoJump h (usesDA d a) (fun s => .jump (xset s d ((thr s).pc + 8)) (xget s a)) s

/-- RET. -/
def execRet (h : Hdr) (a : XReg) (s : State) : Host.Outcome State Fault Refusal :=
  issue infoJump h { xr := [a] } (fun s => .jump s (xget s a)) s

/-- The counter of LOOP after its decrement (Table 13.3). -/
def loopNext (v : Word) : Word := v - 1

/-- Is a LOOP taken, by the leader of the gang? -/
def loopTaken (d : XReg) (s : State) : Bool :=
  let l := if s.onMt then s.me else leaderOf s s.me
  loopNext ((threadOf s l s.onMt).xget d) != 0

/-- The effect of LOOP on one core. -/
def loopRes (d : XReg) (imm : BitVec 18) (s : State) : Res :=
  let n := loopNext (xget s d)
  if n = 0 then .done (xset s d n) else .jump (xset s d n) (relTarget (thr s).pc imm)

/-- LOOP. -/
def execLoop (h : Hdr) (d : XReg) (imm : BitVec 18) (s : State) : Host.Outcome State Fault Refusal :=
  issue { infoCM with transfer := loopTaken d s } h { xr := [d], xw := [d] } (loopRes d imm) s

/-- NOP. -/
def execNop (h : Hdr) (s : State) : Host.Outcome State Fault Refusal :=
  issue infoCM h {} (fun s => .done s) s

/-- END (R38): the task's pending loads are discarded (R446) and it waits for its routines and its stores; the device step END_RETIRE
completes it. A gang ends whole, by its leader's guards (R44). (DEDUCED: log 14, DEDUCED: log 38.) -/
def execEndTask (h : Hdr) (s : State) : Host.Outcome State Fault Refusal :=
  issue { infoC with transfer := true, led := true } h {} (fun s =>
    .park (startPass (discardHeld (setThr s { thr s with wait := .ending, waitFrom := s.dev.time }) s.me) s.me s.onMt)) s

/-! ## Gangs -/

/-- Is an 8-bit gang mask legal (Table 2.3)? -/
def legalGang (m : BitVec 8) : Bool :=
  [0x01, 0x02, 0x04, 0x08, 0x10, 0x20, 0x40, 0x80, 0x03, 0x0C, 0x30, 0xC0, 0x0F, 0xF0, 0xFF].contains m

/-- The cores that a mask names in the octet of a core. -/
def maskCores (core : Nat) (m : BitVec 8) : List Nat :=
  ((List.range 8).filter (fun i => m.getLsbD i)).map (octetCore core)

/-- The conditions of R43, R45 and R267 on a FUSE of the focused core. -/
def fuseLegal (m : BitVec 8) (s : State) : Bool :=
  legalGang m && m.getLsbD (omiOf s.me) && (maskCores s.me m).all (fun c => coreIn c s.core.launchRect) &&
  (s.core.gang &&& ~~~m) == 0 && (mapGet s.core.rcvs m.toNat).all (fun r => r == (thr s).blk)

/-- The effect of FUSE on one core: the gang-operand fault, at once for a gang of one or the present gang, else a wait. -/
def fuseRes (m : BitVec 8) (s : State) : Res :=
  if !fuseLegal m s then .trap causeGang 0
  else if (maskCores s.me m).length ≤ 1 || s.core.gang == m then .done s
  else .park (setThr s ((thr s).beginWait (.fuse m) s.dev.time))

/-- FUSE. -/
def execFuse (h : Hdr) (mask : BitVec 8) (s : State) : Host.Outcome State Fault Refusal :=
  issue infoC h {} (fuseRes mask) s

/-- The serial number of the launch that a core runs. -/
def launchOf (k : Core) : Option Nat := k.taskRec.map (·.serial)

/-- Does a core wait in FUSE with a mask? -/
def fusing (s : State) (m : BitVec 8) (c : Nat) : Bool := (coreOf s c).ct.wait == .fuse m

/-- The mask that a core waits with in FUSE. -/
def fuseMask (s : State) (c : Nat) : Option (BitVec 8) :=
  match (coreOf s c).ct.wait with
  | .fuse m => some m
  | _ => none

/-- Are two cores of an octet in gang split mismatch: both wait in FUSE, one mask names the other core, and the masks differ (R461)? -/
def fuseClash (s : State) (c d : Nat) : Bool :=
  match fuseMask s c, fuseMask s d with
  | some m, some m' => m != m' && (m.getLsbD (omiOf d) || m'.getLsbD (omiOf c))
  | _, _ => false

/-- The cores of an octet that a mismatch holds. -/
def fuseBad (s : State) (core : Nat) : List Nat :=
  let os := (List.range 8).map (octetCore core)
  os.filter (fun c => os.any (fuseClash s c))

/-- The fusion of the cores of a mask (R43): the lowest member leads, and every member continues after its FUSE; the point that
the mask's last SPLIT recorded has served (R45). The gang issues next after the last of its members' FUSE (R196). -/
def fuseAll (s : State) (core : Nat) (m : BitVec 8) : State :=
  let ms := maskCores core m
  let lead := (coreOf s (ms.headD core)).ct
  let last0 := ms.foldl (fun n c => max n (coreOf s c).ct.lastIssue) 0
  ms.foldl (fun st c =>
    let k := coreOf st c
    let t := Thread.step { k.ct with pc := lead.pc, blk := lead.blk, entered := lead.entered } 1 lead.parkEnds
    setCore st c { k with gang := m, rcvs := mapErase k.rcvs m.toNat, ct := { t with lastIssue := last0 } }) s

/-- The gang-operand fault of every core in mismatch, in the cycle it is found; the partners of their gangs take the partner cause (R447,
R461). -/
def fuseFault (s : State) (core : Nat) : State :=
  let bad := fuseBad s core
  (((List.range 8).map (octetCore core)).filter (fun c => bad.any (fun b => (gangOf s b).contains c))).foldl (fun st c =>
    let t := threadOf st c false
    setThread st c false (t.trapEnter (if bad.contains c then causeGang else causePartner) t.pc (t.entry != .word) 0
      (cycleNow st (blockOf c)))) s

/-- What a FUSE that waits has come to: fusion, a mismatch, or neither. -/
def fuseReady (s : State) (core : Nat) : Bool :=
  match (coreOf s core).ct.wait with
  | .fuse m =>
      (maskCores core m).all (fun c => fusing s m c && launchOf (coreOf s c) == launchOf (coreOf s core) &&
        !timerDue s (coreOf s c)) || !(fuseBad s core).isEmpty
  | _ => false

/-- GANG_FUSION (R43; mismatch: spec 27). -/
def execGangFusion (core : Nat) (s : State) : Host.Outcome State Fault Refusal :=
  .next (match (coreOf s core).ct.wait with
    | .fuse m =>
      if fuseReady s core then
        if (fuseBad s core).isEmpty then fuseAll s core m else fuseFault s core
      else s
    | _ => s)

/-- The reconvergence header that a SPLIT of the leader records; none for rcv = 0 (R45). -/
def rcvOf (s : State) : Option Word :=
  let l := leaderOf s s.me
  let t := threadOf s l false
  match bufBlock (coreOf s l) t.blk.toNat with
  | none => none
  | some b =>
    let r := (Header.ofWord (b.words.headD 0)).rcv
    if r = 0 then none else some (t.blk + 8 * r.setWidth 64)

/-- A core out of its gang, with the reconvergence header that the next FUSE of the same mask is held to (R45); the points of
other masks stand. -/
def Core.unfuse (k : Core) (m : BitVec 8) (r : Option Word) : Core :=
  match r with
  | some a => { k with gang := 0, rcvs := mapSet k.rcvs m.toNat a }
  | none => { k with gang := 0, rcvs := mapErase k.rcvs m.toNat }

/-- The effect of SPLIT on one member (R45, R268). -/
def splitRes (s : State) : Res :=
  if (maskCores s.me s.core.gang).length ≤ 1 then .done s
  else
    let s1 := setThr s ((thr s).step 1 (endsBlock s s.me false 1))
    .goto { s1 with core := s1.core.unfuse s.core.gang (rcvOf s) }

/-- A gang of which any member has executed SPLIT is dissolved: a member whose guard was false leaves it too (R45). (DEDUCED: log 14.) -/
def dissolve (s t : State) : State :=
  let m := s.core.gang
  let ms := issueSet s
  if ms.length ≤ 1 then t
  else if ms.any (fun c => (coreOf t c).gang == 0) then
    ms.foldl (fun st c => setCore st c ((coreOf st c).unfuse m (rcvOf s))) t
  else t

/-- SPLIT. -/
def execSplit (h : Hdr) (s : State) : Host.Outcome State Fault Refusal :=
  .next (dissolve s (issueS infoC h {} splitRes s))

/-! ## Sleep -/

/-- What SLEEP does when it may end: the latch answers 1 and is cleared, the deadline answers 0 (R269). -/
def sleepEnd (d : XReg) (s : State) : State :=
  if s.core.wake then xset { s with core := { s.core with wake := false } } d 1 else xset s d 0

/-- The effect of SLEEP at issue. -/
def sleepRes (d a : XReg) (s : State) : Res :=
  if s.core.wake || decide ((xget s a).toNat ≤ s.dev.time) then .done (sleepEnd d s)
  else .park (setThr s { thr s with wait := .sleep d (xget s a), waitFrom := s.dev.time })

/-- SLEEP. -/
def execSleep (h : Hdr) (d a : XReg) (s : State) : Host.Outcome State Fault Refusal :=
  issue infoC h (usesDA d a) (sleepRes d a) s

/-- A sleeping core whose latch is set or whose deadline has come completes its SLEEP; a timer trap that is due comes before it
(R255). -/
def sleepFinish (s : State) (core : Nat) : State :=
  match (coreOf s core).ct.wait with
  | .sleep d dl =>
    if timerDue s (coreOf s core) then s
    else if (coreOf s core).wake || decide (dl.toNat ≤ s.dev.time) then
      let r := focusOn (sleepEnd d (focusOn s core false)) s.me s.onMt
      finishWait r core false
    else s
  | _ => s

/-- The tick to which a sleeping core's deadline moves time: the timer trap may be due before it (R255). -/
def sleepTick (k : Core) (dl : Word) : Nat := if k.ct.priv then dl.toNat else min dl.toNat k.timerCmp.toNat

/-- SLEEP_DEADLINE: time reaches the deadline of a sleeping core (R269), or the tick of its timer trap. -/
def execSleepDeadline (core : Nat) (s : State) : Host.Outcome State Fault Refusal :=
  .next (match (coreOf s core).ct.wait with
    | .sleep _ dl => sleepFinish (advanceToTick s (sleepTick (coreOf s core) dl)) core
    | _ => s)

/-- A wake arrives at a core: its latch is set, and a sleeping core goes on (R269, R356). -/
def wakeCore (s : State) (core : Nat) : State :=
  sleepFinish (setCore s core { coreOf s core with wake := true }) core

/-- WAKE_ARRIVAL (R356): a pre-empted target is waited for (R355), a halted one holds the wake (R429), and one of a gated block
latches it and wakes its block (R28). (DEDUCED: log 37.) -/
def execWakeArrival (core : Nat) (s : State) : Host.Outcome State Fault Refusal :=
  .next (
    let k := coreOf s core
    if k.contained then s
    else if k.stopped then post s (.wakeArrival core)
    else if k.dbg.halted then
      if heldAccepts (blockAt s (blockOf core)) core .wake then holdMessage s core .wake else post s (.wakeArrival core)
    else if (blockAt s (blockOf core)).gated then
      post (setCore s core { k with wake := true }) (.wakeBlock (blockOf core) none)
    else wakeCore s core)

/-! ## What is enabled -/

/-- The steps of FUSE and SLEEP that a core's state enables. A deadline that lies ahead is enabled too: time moves to it. -/
def enabledControl (s : State) (core : Nat) : List Ev :=
  let k := coreOf s core
  if !coreRuns k then []
  else match k.ct.wait with
    | .fuse _ => if fuseReady s core then [Ev.gangFusion core] else []
    | .sleep _ dl => if sleepTick k dl = 2 ^ 64 - 1 ∨ timerDue s k = true then [] else [Ev.sleepDeadline core]
    | _ => []

end Sys2Proof.Machine
end

