-- ==== Sys2Proof/Machine/Reduce.lean ====
section
/-!
DEFINITION. Reduction sessions (R178 to R181, R336 to R339, R439, R467): the XA entry, RED, REDO, REDC, and what a
reduction unit does with a contribution, an open and a close.
-/

namespace Sys2Proof.Machine

/-! ## The XA entry (Table 9.6) -/

/-- An entry of a target that nothing has touched. -/
def xaEmpty (asid sid va core : Nat) : XaEnt :=
  { asid := asid, sid := sid, va := va, val := 0, nan := false, pinf := false, ninf := false, cof := false, nzs := false
    cnt := 0, core := core }

/-- One contribution (R179). -/
def xaApply (x : XaEnt) (v : Real) : XaEnt :=
  let full := decide (x.cnt = 2 ^ 24 - 1)
  let x1 := if full then { x with cof := true } else { x with cnt := x.cnt + 1 }
  let minusZero := match v with
    | .fin neg m _ => neg && m == 0
    | _ => false
  let x2 := if minusZero then x1 else { x1 with nzs := true }
  match v with
  | .nan => { x2 with nan := true }
  | .inf false => { x2 with pinf := true }
  | .inf true => { x2 with ninf := true }
  | .fin neg m e =>
    let d : BitVec 302 := BitVec.ofNat 302 (m <<< (e + 149).toNat)
    { x2 with val := if neg then x2.val - d else x2.val + d }

/-- The result of an entry under a mode (R180). -/
def xaResult (t : Ty) (mode : RMode) (x : XaEnt) : Nat :=
  if x.nan || x.cof || (x.pinf && x.ninf) then (fmtOf t).canon
  else if x.pinf then roundReal t rne 0 (.inf false)
  else if x.ninf then roundReal t rne 0 (.inf true)
  else if x.val = 0 then roundReal t rne 0 (.fin (!x.nzs) 0 0)
  else roundReal t ⟨mode, false⟩ 0 (.fin (decide (x.val.toInt < 0)) x.val.toInt.natAbs (-149))

/-- The 48 bytes of an entry (Table 9.6). -/
def xaBytes (x : XaEnt) : List Byte :=
  leBytes 48 (x.val.toNat + x.nan.toNat * 2 ^ 302 + x.pinf.toNat * 2 ^ 303 + x.ninf.toNat * 2 ^ 304 + x.cof.toNat * 2 ^ 305 +
    x.nzs.toNat * 2 ^ 306 + x.cnt * 2 ^ 307)

/-- The entry of 48 bytes. -/
def xaOfBytes (asid sid va core : Nat) (bs : List Byte) : XaEnt :=
  let n := leNat bs
  { asid := asid, sid := sid, va := va, val := BitVec.ofNat 302 n, nan := n.testBit 302, pinf := n.testBit 303
    ninf := n.testBit 304, cof := n.testBit 305, nzs := n.testBit 306, cnt := n / 2 ^ 307 % 2 ^ 24, core := core }

/-! ## Sessions -/

/-- A session of a context. -/
def sessOf (s : State) (asid : Nat) (sid : BitVec 4) : Option Session :=
  (ctxOf s asid).map (fun c => c.sessions[sid.toNat]'sid.isLt)

/-- The state with a session changed. -/
def setSess (s : State) (asid : Nat) (sid : BitVec 4) (x : Session) : State :=
  match ctxOf s asid with
  | some c => setCtx s asid { c with sessions := c.sessions.set sid.toNat x sid.isLt }
  | none => s

/-- Event kind 11 (Table 27.1). -/
def raiseSession (s : State) (asid : Nat) (sid : BitVec 4) (reason va : Nat) : State :=
  raiseEvent s asid 11 (BitVec.ofNat 64 va) (BitVec.ofNat 64 (reason + sid.toNat * 2 ^ 16))

/-- A reason that is raised once a session (R467). -/
def raiseOnce (s : State) (asid : Nat) (sid : BitVec 4) (reason va : Nat) : State :=
  match sessOf s asid sid with
  | none => s
  | some x =>
    if x.raised.getLsbD reason then s
    else raiseSession (setSess s asid sid { x with raised := setBit x.raised reason true }) asid sid reason va

/-! ## REDO, RED, REDC at issue -/

/-- The effect of REDO (R337): the area is judged by its base. (DEDUCED: log 98.) -/
def redoRes (t : Ty) (a b : XReg) (sid : BitVec 4) (s : State) : Res :=
  let base := xget s a
  let size := xget s b
  if base.toNat % 64 ≠ 0 ∨ size.toNat % 64 ≠ 0 then .trap causeMemOperand base
  else if badAddress base size.toNat || isAperture base.toNat then .trap causeMemOperand base
  else match sessOf s (myAsid s) sid with
    | none => .trap causeReduction 0
    | some x =>
      if x.st ≠ .closed then .trap causeReduction 0
      else
        let s1 := setSess s (myAsid s) sid { x with
          st := .opening, ty := t, base := base.toNat, size := size.toNat, raised := 0, opens := 0, openCore := s.me }
        .done (issueOp s1 3 0 (.redo sid.toNat) none)

/-- REDO. (DEDUCED: log 31.) -/
def execRedo (h : Hdr) (ty : Ty) (a b : XReg) (sid : BitVec 4) (s : State) : Host.Outcome State Fault Refusal :=
  issue infoC h { xr := [a, b] } (redoRes ty a b sid) s

/-- Does a session accept contributions of a type at issue (Table 16.3)? -/
def sessAccepts (x : Session) (t : Ty) : Bool := (x.st == .opening || x.st == .opened) && x.ty == t

/-- The checks of RED (R328, R338). -/
def checkRed (s : State) (t : Ty) (va : Word) (sid : BitVec 4) : Option (BitVec 16 × Word) :=
  if badAddress va (t.width / 8) then some (causeMemOperand, va)
  else if va.toNat % (t.width / 8) ≠ 0 then some (causeAlignment, va)
  else if isAperture va.toNat then some (causeMemOperand, va)
  else match sessOf s (myAsid s) sid with
    | none => some (causeReduction, va)
    | some x => if sessAccepts x t then none else some (causeReduction, va)

/-- The effect of RED: one contribution is sent (R338). -/
def redRes (t : Ty) (ch : BitVec 3) (a b : XReg) (sid : BitVec 4) (s : State) : Res :=
  let va := xget s a
  let n := t.width / 8
  checked (checkRed s t va sid)
    (if !storeRoom s then .wait
     else
       .done (watch (nextSeq (enqueue s
         (newAccess s (.red sid.toNat t) va.toNat va.toNat n (leBytes n (xget s b).toNat) ch 0 0))) s.me va.toNat n false true))

/-- RED. -/
def execRed (h : Hdr) (ty : Ty) (a b : XReg) (sid : BitVec 4) (s : State) : Host.Outcome State Fault Refusal :=
  issue infoC h { xr := [a, b] } (redRes ty h.ch a b sid) s

/-- A release that an instruction performs before its own effect; its wait is restartable (R487), and its first wait on an
entry of the side log starts a replay pass (R450). -/
def releaseFirst (scope : Word) (s : State) (f : State → Res) : Res :=
  if releaseDone s s.me s.onMt scope (thr s).seq then f s
  else if isFabric scope && (thr s).relMark.isNone then .again (setThr s { thr s with relMark := some (scope, s.core.opId) })
  else if !(thr s).relPass && (accsOf s s.me s.onMt).any (fun a => a.logged && releaseWaits s scope a) then
    .again (startPass (setThr s { thr s with relPass := true }) s.me s.onMt)
  else .wait

/-- The effect of REDC (R339). -/
def redcRes (mode : RMode) (sid : BitVec 4) (s : State) : Res :=
  match sessOf s (myAsid s) sid with
  | none => .trap causeReduction 0
  | some x =>
    if x.st ≠ .opening ∧ x.st ≠ .opened then .trap causeReduction 0
    else releaseFirst deviceScope s (fun s =>
      let num := tlNext s.core 3
      let s1 := setSess s (myAsid s) sid { x with
        st := .closing, mode := mode, core := s.me, num := num, mt := s.onMt, closes := 0, priv := (thr s).priv }
      .done (issueOp s1 3 0 (.redc sid.toNat) none))

/-- REDC. -/
def execRedc (h : Hdr) (mode : RMode) (sid : BitVec 4) (s : State) : Host.Outcome State Fault Refusal :=
  issue infoC h {} (redcRes mode sid) s

/-! ## Spills (R181, R439, R467) -/

/-- A spill record of a target. -/
def spillOf (b : Block) (asid sid va : Nat) : Option XaSpill :=
  b.spills.find? (fun x => x.asid == asid && x.sid == sid && x.va == va)

/-- The block without a target's spill record. -/
def dropSpill (b : Block) (asid sid va : Nat) : Block :=
  { b with spills := b.spills.filter (fun x => !(x.asid == asid && x.sid == sid && x.va == va)) }

/-- The slots of a session's spill area in use, over every block. -/
def slotsTaken (s : State) (asid sid : Nat) : List Nat :=
  (s.blocks.map (fun b => (b.2.spills.filter (fun x => x.asid == asid && x.sid == sid && !x.overflow && !x.lost)).map (·.slot))).flatten

/-- The lowest number below n that a list does not hold. -/
def lowestFree (taken : List Nat) (n : Nat) : Option Nat := (List.range n).find? (fun k => !taken.contains k)

/-- The slot of a spilled target that goes is free for another (R439, R467). -/
def freeSpill (s : State) (blk asid sid va : Nat) : State :=
  let s1 := match (spillOf (blockAt s blk) asid sid va).filter (fun p => p.overflow && !p.lost), ctxOf s asid with
    | some p, some c => setCtx s asid { c with overflow := c.overflow.filter (· != p.slot) }
    | _, _ => s
  setBlock s1 blk (dropSpill (blockAt s1 blk) asid sid va)

/-- A target's value is lost: REDC writes the canonical NaN (R467). -/
def markLost (s0 : State) (blk asid sid va : Nat) : State :=
  let s := freeSpill s0 blk asid sid va
  let b := blockAt s blk
  setBlock s blk { b with
    xa := b.xa.filter (fun x => !(x.asid == asid && x.sid == sid && x.va == va))
    spills := b.spills ++ [{ asid := asid, sid := sid, va := va, slot := 0, overflow := false, lost := true }] }

/-- Physical address of a slot of a context's overflow area (R467). -/
def overflowAddr (c : Context) (k : Nat) : Nat := c.tab.eng + 0x40_0000 - 0x4_0000 + 64 * k

/-- The request of a spill or of its reload: no permission is checked, and no snapshot captures it (R99, R135, R181). -/
def spillReq (asid : Nat) (who : Option Latch) : Req := { hiveReq asid with cow := false, who := who }

/-- The 64 bytes of a spill slot (R181). -/
def spillBytes (x : XaEnt) : List Byte := xaBytes x ++ leBytes 8 x.va ++ List.replicate 8 0

/-- What a spill came to. -/
inductive SpillAns where
  | ok | full | wait
  deriving DecidableEq, Repr

/-- An entry goes to the overflow area, where that has room. -/
def spillOver (s : State) (blk : Nat) (x : XaEnt) : State × SpillAns :=
  match ctxOf s x.asid with
  | none => (s, .full)
  | some c =>
    match lowestFree c.overflow 4096 with
    | none => (s, .full)
    | some k =>
      let s1 := setCtx s x.asid { c with overflow := c.overflow ++ [k] }
      let b := blockAt s1 blk
      let s2 := setBlock s1 blk { b with
        spills := b.spills ++ [{ asid := x.asid, sid := x.sid, va := x.va, slot := k, overflow := true, lost := false }] }
      ({ s2 with mem := writeBytes s2.mem (overflowAddr c k) (spillBytes x) }, .ok)

/-- An entry is spilled (R181, R439): to the free slot with the lowest address, else to the overflow area. -/
def spillEntry (s : State) (blk : Nat) (who : Option Latch) (x : XaEnt) : State × SpillAns :=
  let sid : BitVec 4 := BitVec.ofNat 4 x.sid
  match sessOf s x.asid sid with
  | none => (s, .full)
  | some ss =>
    match lowestFree (slotsTaken s x.asid x.sid) (ss.size / 64) with
    | none => spillOver (raiseOnce s x.asid sid 1 x.va) blk x
    | some k =>
      match homeDo s x.core false (spillReq x.asid who) (ss.base + 64 * k) (.write (spillBytes x)) 64 with
      | (s1, .bytes _) =>
        let b := blockAt s1 blk
        (setBlock s1 blk { b with
          spills := b.spills ++ [{ asid := x.asid, sid := x.sid, va := x.va, slot := k, overflow := false, lost := false }] }, .ok)
      | (s1, .wait) => (s1, .wait)
      | (s1, .fault _) => spillOver (raiseOnce s1 x.asid sid 5 x.va) blk x

/-- Room for one more entry in a unit of 16: the least recently updated is spilled. -/
def makeRoom (s : State) (blk : Nat) (who : Option Latch) : State × SpillAns :=
  match (blockAt s blk).xa with
  | [] => (s, .ok)
  | x :: xs =>
    if xs.length < 15 then (s, .ok)
    else
      match spillEntry s blk who x with
      | (s1, .ok) =>
        let b := blockAt s1 blk
        (setBlock s1 blk { b with xa := b.xa.filter (fun y => !(y.asid == x.asid && y.sid == x.sid && y.va == x.va)) }, .ok)
      | r => r

/-- What a reload came to: the entry, a slot whose translation fails, or a wait. -/
inductive Reload where
  | got (x : XaEnt)
  | lost
  | wait
  deriving DecidableEq, Repr

/-- The value of a spilled target read back; its slot is freed (R439). -/
def readSpill (s : State) (blk : Nat) (who : Option Latch) (p : XaSpill) (core : Nat) : State × Reload :=
  let free (st : State) : State := freeSpill st blk p.asid p.sid p.va
  if p.overflow then
    match ctxOf s p.asid with
    | none => (s, .lost)
    | some c =>
      (free s,
       .got (xaOfBytes p.asid p.sid p.va core (readBytes s.mem (overflowAddr c p.slot) 48)))
  else
    match sessOf s p.asid (BitVec.ofNat 4 p.sid) with
    | none => (s, .lost)
    | some ss =>
      match homeDo s core false (spillReq p.asid who) (ss.base + 64 * p.slot) .read 48 with
      | (s1, .bytes bs) => (free s1, .got (xaOfBytes p.asid p.sid p.va core bs))
      | (s1, .wait) => (s1, .wait)
      | (s1, .fault _) => (raiseOnce s1 p.asid (BitVec.ofNat 4 p.sid) 5 p.va, .lost)

/-! ## A contribution at its unit (R179, R181, R338) -/

/-- An entry becomes the most recently updated of its unit. -/
def putXa (s : State) (blk : Nat) (x : XaEnt) : State :=
  let b := blockAt s blk
  setBlock s blk { b with xa := b.xa.filter (fun y => !(y.asid == x.asid && y.sid == x.sid && y.va == x.va)) ++ [x] }

/-- An update that needs a new entry where none can be made is dropped, and its target is lost (R467). -/
def dropUpdate (s : State) (blk asid : Nat) (sid : BitVec 4) (va : Nat) : State :=
  raiseOnce (markLost s blk asid sid.toNat va) asid sid 2 va

/-- A contribution applied to its target, whose translation is e; `who` is the request that brings it. -/
def applyAt (s : State) (blk : Nat) (a : Access) (sid : BitVec 4) (t : Ty) (e : TEntry) (who : Latch := .acc a.id) : State × HomeAns :=
  let v := exactOf t (leNat a.data)
  let b := blockAt s blk
  match b.xa.find? (fun x => x.asid == a.asid && x.sid == sid.toNat && x.va == a.va) with
  | some x => (putXa s blk { xaApply x v with core := a.core }, .bytes [])
  | none =>
    match spillOf b a.asid sid.toNat a.va with
    | some p =>
      if p.lost then (s, .bytes [])
      else
        match makeRoom s blk (some who) with
        | (s1, .wait) => (s1, .wait)
        | (s1, .full) => (dropUpdate s1 blk a.asid sid a.va, .bytes [])
        | (s1, .ok) =>
          match readSpill s1 blk (some who) p a.core with
          | (s2, .got x) => (putXa s2 blk (xaApply x v), .bytes [])
          | (s2, .wait) => (s2, .wait)
          | (s2, .lost) => (markLost s2 blk a.asid sid.toNat a.va, .bytes [])
    | none =>
      match performAt s blk a.core a.mt { accReq a with hive := true } a.va e .read a.n with
      | (s1, .fault c) => (s1, .fault c)
      | (s1, .wait) => (s1, .wait)
      | (s1, .bytes old) =>
        match makeRoom s1 blk (some who) with
        | (s2, .wait) => (s2, .wait)
        | (s2, .full) => (dropUpdate s2 blk a.asid sid a.va, .bytes [])
        | (s2, .ok) =>
          (putXa s2 blk (xaApply (xaApply (xaEmpty a.asid sid.toNat a.va a.core) (exactOf t (leNat old))) v), .bytes [])

/-- Where an update stands at its slice: the open is not applied yet, it may be applied, or the session is closed. -/
inductive RedGate where
  | hold | apply | closed
  deriving DecidableEq, Repr

/-- The gate of an update at a block. -/
def redGate (s : State) (blk asid : Nat) (sid : BitVec 4) : RedGate :=
  if (blockAt s blk).opened.contains (asid, sid.toNat) then .apply
  else match sessOf s asid sid with
    | none => .closed
    | some x => if x.opens < 256 then .hold else .closed

/-- One RED update at its home: the block-group check and the translation, which gives the kind of its page (R112), then the
contribution. -/
def redApply (s : State) (a : Access) : State × HomeAns :=
  match a.op with
  | .red sid t =>
    let blk := homeOf s a.asid a.va
    let sid4 : BitVec 4 := BitVec.ofNat 4 sid
    match translateFor s blk (accReq a) a.va with
    | (s1, none) => (s1, .wait)
    | (s1, some (.error c)) => (s1, .fault c)
    | (s1, some (.ok e)) =>
      if e.ok ≠ a.kind then (accSet s1 { a with kind := e.ok }, .wait)
      else match redGate s1 blk a.asid sid4 with
      | .hold => (s1, .wait)
      | .apply => if lineBusy s1 blk (physOf e a.va) then (s1, .wait) else applyAt s1 blk a sid4 t e
      | .closed => (raiseSession s1 a.asid sid4 3 a.va, .bytes [])
  | _ => (s, .bytes [])

/-- May a queued update be applied: it may be sent, and its slice has the session's open? -/
def redReady (s : State) (a : Access) : Bool :=
  sendable s a &&
  (match a.op with
    | .red sid _ => redGate s (homeOf s a.asid a.va) a.asid (BitVec.ofNat 4 sid) != .hold
    | _ => false)

/-- RED_UPDATE_APPLY. -/
def redStep (s : State) (aid : Nat) : State :=
  match accFind s aid with
  | none => s
  | some a =>
    if !redReady s a then s
    else match lineLogged s a with
      | some c => accSet s { a with stage := .logged c }
      | none =>
        match redApply s a with
        | (s1, .fault c) => faultAccess s1 a c
        | (s1, .bytes _) => accSet s1 { a with stage := .performed [] }
        | (s1, .wait) => s1

/-- RED_UPDATE_APPLY. -/
def execRedUpdateApply (aid : Nat) (s : State) : Host.Outcome State Fault Refusal := .next (redStep s aid)

/-! ## Open and close at a unit (R337, R339, R180) -/

/-- The REDO or REDC of a session has done its work. -/
def finishTl3 (s : State) (core asid : Nat) (op : EOp) : State := workDone s core (fun o => o.asid == asid && o.op == op)

/-- A unit applies a session's open and acknowledges it. -/
def openAt (s : State) (blk asid : Nat) (sid : BitVec 4) : State :=
  match sessOf s asid sid with
  | none => s
  | some x =>
    let b := blockAt s blk
    if 256 ≤ x.opens ∨ b.opened.contains (asid, sid.toNat) = true then s
    else
      let s1 := setBlock s blk { b with opened := b.opened ++ [(asid, sid.toNat)] }
      let st := if x.opens + 1 = 256 ∧ x.st = .opening then SessState.opened else x.st
      let s2 := setSess s1 asid sid { x with opens := x.opens + 1, st := st }
      if x.opens + 1 = 256 then finishTl3 s2 x.openCore asid (.redo sid.toNat) else s2

/-- REDO_OPEN_APPLY. -/
def execRedoOpenApply (blk asid : Nat) (sid : BitVec 4) (s : State) : Host.Outcome State Fault Refusal :=
  .next (openAt s blk asid sid)

/-- The write of a result on behalf of the core that issued REDC (R180): not-present is held, another cause leaves the
target; each fault raises one engine-fault event. One that must wait at its home is made again. -/
def writeResult (s : State) (blk : Nat) (x : Session) (r : XaRes) : State :=
  let keep (st : State) (r1 : XaRes) : State :=
    let b := blockAt st blk
    setBlock st blk { b with results := b.results ++ [r1] }
  let s0 := let b := blockAt s blk
    setBlock s blk { b with results := b.results.filter (fun y => !(y.asid == r.asid && y.sid == r.sid && y.va == r.va)) }
  match engineWrite s0 x.core x.mt { coreReq s0 x.core x.priv 0 with asid := r.asid, who := some (.unit blk r.asid r.sid) } r.va r.bytes with
  | (s1, .bytes _) => s1
  | (s1, .wait) => keep s1 { r with held := false }
  | (s1, .fault c) =>
    let s2 := if engineQuiet c || (engineRetries c && r.raised) then s1 else raiseEngine s1 r.asid x.core 3 x.num c r.va
    if engineRetries c then keep s2 { r with held := true, raised := r.raised || !engineQuiet c, why := c } else s2

/-- The results of a session still to be written at a block. -/
def resultsOf (b : Block) (asid sid : Nat) : List XaRes := b.results.filter (fun r => r.asid == asid && r.sid == sid)

/-- One more unit has closed and written every result; the last ends the operation (R128). -/
def closedAt (s : State) (asid : Nat) (sid : BitVec 4) : State :=
  match sessOf s asid sid with
  | none => s
  | some x =>
    if x.closes + 1 = 256 then finishTl3 (setSess s asid sid { x with closes := 256, st := .closed }) x.core asid (.redc sid.toNat)
    else setSess s asid sid { x with closes := x.closes + 1 }

/-- A target's result with its number of bytes. -/
def resultOf (x : Session) (asid sid va bits : Nat) : XaRes :=
  { asid := asid, sid := sid, va := va, bytes := leBytes (x.ty.width / 8) bits, held := false, raised := false, why := 0 }

/-- The bytes of a target's result: a spilled entry read back, or the canonical NaN of a lost one. One whose reload must wait keeps its
record. -/
def spilledResult (blk : Nat) (x : Session) (acc : State × List XaRes) (p : XaSpill) : State × List XaRes :=
  let res (bits : Nat) : XaRes := resultOf x p.asid p.sid p.va bits
  let gone (st : State) : State := freeSpill st blk p.asid p.sid p.va
  if p.lost then (gone acc.1, acc.2 ++ [res (fmtOf x.ty).canon])
  else match readSpill acc.1 blk (some (.unit blk p.asid p.sid)) p x.core with
    | (s1, .got e) => (s1, acc.2 ++ [res (xaResult x.ty x.mode e)])
    | (s1, .wait) => (s1, acc.2)
    | (s1, .lost) => (gone s1, acc.2 ++ [res (fmtOf x.ty).canon])

/-- The spill records of a session at a unit. -/
def spillsOf (b : Block) (asid sid : Nat) : List XaSpill := b.spills.filter (fun p => p.asid == asid && p.sid == sid)

/-- The spilled targets of a closed session get their results, and every result that is not held is written (R339); the last written
closes the unit. -/
def closeRest (s : State) (blk asid : Nat) (sid : BitVec 4) (x : Session) : State :=
  let r := (spillsOf (blockAt s blk) asid sid.toNat).foldl (spilledResult blk x) (s, [])
  let s1 := ((resultsOf (blockAt r.1 blk) asid sid.toNat).filter (fun y => !y.held) ++ r.2).foldl (fun st y => writeResult st blk x y) r.1
  let b := blockAt s1 blk
  if (resultsOf b asid sid.toNat).isEmpty && (spillsOf b asid sid.toNat).isEmpty then closedAt s1 asid sid else s1

/-- Has a unit that applied a close something of it still to do that nothing holds? -/
def closeOpen (b : Block) (asid sid : Nat) : Bool :=
  !(spillsOf b asid sid).isEmpty || (resultsOf b asid sid).any (fun r => !r.held)

/-- A unit applies the close: every target's result is formed and written (R339). -/
def closeAt (s : State) (blk asid : Nat) (sid : BitVec 4) : State :=
  match sessOf s asid sid with
  | none => s
  | some x =>
    let b := blockAt s blk
    if x.st ≠ .closing ∨ x.opens < 256 then s
    else if b.opened.contains (asid, sid.toNat) then
      let mine := b.xa.filter (fun e => e.asid == asid && e.sid == sid.toNat)
      let rs := mine.map (fun e => resultOf x asid sid.toNat e.va (xaResult x.ty x.mode e))
      closeRest (setBlock s blk { b with
        xa := b.xa.filter (fun e => !(e.asid == asid && e.sid == sid.toNat))
        results := b.results ++ rs
        opened := b.opened.filter (· != (asid, sid.toNat)) }) blk asid sid x
    else if closeOpen b asid sid.toNat then closeRest s blk asid sid x
    else s

/-- REDC_CLOSE_APPLY. -/
def execRedcCloseApply (blk asid : Nat) (sid : BitVec 4) (s : State) : Host.Outcome State Fault Refusal :=
  .next (closeAt s blk asid sid)

/-- The held results of a context that a trigger retries at a block (R180, R453). -/
def retryResults (t : Trigger) (s : State) (blk asid : Nat) : State :=
  let sids := (((blockAt s blk).results.filter (fun r => r.asid == asid)).map (·.sid)).eraseDups
  sids.foldl (fun st sid =>
    let sid4 : BitVec 4 := BitVec.ofNat 4 sid
    match sessOf st asid sid4 with
    | none => st
    | some x =>
      let s1 := ((resultsOf (blockAt st blk) asid sid).filter (fun r => r.held && t.retries r.why x.core)).foldl
        (fun a r => writeResult a blk x r) st
      let b := blockAt s1 blk
      if (resultsOf b asid sid).isEmpty && (spillsOf b asid sid).isEmpty then closedAt s1 asid sid4 else s1) s

/-! ## Targets whose home changes (R87, R178) -/

/-- The entry of a target goes to the unit of its new home, as the one updated last. A unit that is full spills; where that must wait
the entry itself goes to the overflow area, and where nothing has room the target is lost. (DEDUCED: log 62.) -/
def moveXa (src : Nat) (s : State) (x : XaEnt) : State :=
  let dst := homeOf s x.asid x.va
  let b := blockAt s src
  let gone := setBlock s src { b with xa := b.xa.filter (fun y => !(y.asid == x.asid && y.sid == x.sid && y.va == x.va)) }
  match makeRoom gone dst none with
  | (s1, .ok) => putXa s1 dst x
  | (s1, .full) => dropUpdate s1 dst x.asid (BitVec.ofNat 4 x.sid) x.va
  | (s1, .wait) =>
    match spillOver s1 dst x with
    | (s2, .ok) => s2
    | (s2, _) => dropUpdate s2 dst x.asid (BitVec.ofNat 4 x.sid) x.va

/-- Does a unit take over the targets of a session: has it not applied the session's close? -/
def takesOver (s : State) (blk asid sid : Nat) : Bool :=
  match sessOf s asid (BitVec.ofNat 4 sid) with
  | none => false
  | some x => decide (x.opens < 256) || (blockAt s blk).opened.contains (asid, sid)

/-- The reduction units hold the targets whose home they now are (R178): entries and spill records of a context's targets move. -/
def rehomeXa (asid : Nat) (s : State) (src : Nat) : State :=
  let goes (st : State) (sid va : Nat) : Bool := homeOf st asid va != src && takesOver st (homeOf st asid va) asid sid
  let s1 := ((blockAt s src).xa.filter (fun x => x.asid == asid && goes s x.sid x.va)).foldl (moveXa src) s
  let mine := (blockAt s1 src).spills.filter (fun p => p.asid == asid && goes s1 p.sid p.va)
  mine.foldl (fun st p =>
    let st1 := setBlock st src (dropSpill (blockAt st src) p.asid p.sid p.va)
    let dst := homeOf st1 asid p.va
    setBlock st1 dst { blockAt st1 dst with spills := (blockAt st1 dst).spills ++ [p] }) s1

/-! ## What is enabled -/

/-- The opens and closes that the sessions of a context await, one block at a time. -/
def enabledSessions (s : State) : List Ev :=
  (s.ctxs.map (fun c =>
    ((List.range 16).map (fun sid =>
      let sid4 : BitVec 4 := BitVec.ofNat 4 sid
      match sessOf s c.1 sid4 with
      | none => []
      | some x =>
        if x.opens < 256 then
          ((List.range 256).filter (fun b => !(blockAt s b).opened.contains (c.1, sid))).map (fun b => Ev.redoOpenApply b c.1 sid4)
        else if x.st == .closing then
          ((List.range 256).filter (fun b => (blockAt s b).opened.contains (c.1, sid) || closeOpen (blockAt s b) c.1 sid)).map
            (fun b => Ev.redcCloseApply b c.1 sid4)
        else [])).flatten)).flatten

end Sys2Proof.Machine
end

