-- ==== Sys2Proof/Machine/Sync.lean ====
section
/-!
DEFINITION. Fences, L1INV and PRF (R340 to R342), WAIT and GBAR at a core (R59, R62, R63, R70, R343), timeline
instructions (R344 to R346), and the waits that a performed access ends.
-/

namespace Sys2Proof.Machine

/-! ## FENCE, L1INV, PRF -/

/-- The scope of a fence. -/
def fenceScope (op : FenceOp) (s : State) : Word :=
  match op with
  | .acq a => xget s a
  | .rel a => xget s a
  | .ar a => xget s a
  | .all => deviceScope

/-- The scope register of a fence. -/
def fenceReg (op : FenceOp) : List XReg :=
  match op with
  | .acq a => [a]
  | .rel a => [a]
  | .ar a => [a]
  | .all => []

/-- FENCE.ALL waits for its conditions; the first wait on an entry of the side log starts a replay pass (R450). -/
def fenceAllFirst (s : State) (f : State → Res) : Res :=
  if fenceAllDone s s.me s.onMt && releaseDone s s.me s.onMt deviceScope (thr s).seq then f s
  else if !(thr s).relPass && (accsOf s s.me s.onMt).any Access.logged then
    .again (startPass (setThr s { thr s with relPass := true }) s.me s.onMt)
  else .wait

/-- The effect of FENCE (R340). -/
def fenceRes (op : FenceOp) (s : State) : Res :=
  let scope := fenceScope op s
  checked (checkScope scope)
    (match op with
      | .acq _ => if loadsBound s s.me s.onMt then .done (acquire s scope) else .wait
      | .rel _ => releaseFirst scope s (fun s => .done s)
      | .ar _ => releaseFirst scope s (fun s => .done (acquire s scope))
      | .all => fenceAllFirst s (fun s => .done (acquire s scope)))

/-- FENCE. (DEDUCED: log 76.) -/
def execFence (h : Hdr) (op : FenceOp) (s : State) : Host.Outcome State Fault Refusal :=
  issue infoC h { xr := fenceReg op } (fenceRes op) s

/-- The effect of L1INV (R341). -/
def l1invRes (x : Option XReg) (s : State) : Res :=
  match x with
  | none => if loadsBound s s.me s.onMt then .done { s with core := { s.core with l1 := [] } } else .wait
  | some a =>
    checked (checkScope (xget s a)) (if loadsBound s s.me s.onMt then .done (acquire s (xget s a)) else .wait)

/-- L1INV. (DEDUCED: log 33.) -/
def execL1inv (h : Hdr) (x : Option XReg) (s : State) : Host.Outcome State Fault Refusal :=
  issue infoC h { xr := optReg x } (l1invRes x) s

/-- One line of a PRF: its home installs it, and L1 takes it; a part that would fault is dropped (R342). -/
def prfLine (ch : BitVec 3) (s : State) (va : Nat) : State :=
  let q := { coreReq s s.me (thr s).priv ch with r := true }
  let blk := homeOf s q.asid va
  match translate s blk q va with
  | (s1, .error _) => s1
  | (s1, .ok e) =>
    let pa := physOf e va
    if isRim pa || !granted s.dev blk (masterOf s q.asid) false then s1
    else
      let s2 := (ensureLine (restoreDue s1 blk (lineBase pa)) blk q va pa 0xF).1
      if ch == 4 || ch == 5 || e.ok != 0 then s2 else refreshL1 s2 s.me q (lineBase va) (lineLen (lineBase va)) true

/-- The lines that bytes of a range lie in. -/
def linesOf (va n : Nat) : List Nat := (splitLines va n).map (fun p => lineBase p.1)

/-- The effect of PRF: at most 512 bytes, nothing in an aperture or beyond 2^56. It goes once no line of it must wait for a walk (R102). -/
def prfRes (ch : BitVec 3) (a b : XReg) (s : State) : Res :=
  let va := (xget s a).toNat
  let n := min (xget s b).toNat 512
  let ls := (linesOf va n).filter (fun l => decide (l < 2 ^ 56) && !isAperture l)
  if ls.any (fun l => walkBusy s (homeOf s (myAsid s) l) none (myAsid s) l) then .wait else .done (ls.foldl (prfLine ch) s)

/-- PRF. (DEDUCED: log 33.) -/
def execPrf (h : Hdr) (a b : XReg) (s : State) : Host.Outcome State Fault Refusal :=
  issue infoC h { xr := [a, b] } (prfRes h.ch a b) s

/-! ## WAIT at a core -/

/-- Sequencer of a core's group (Table 2.4). -/
def groupSeq (k : Core) : Nat := field k.membership 63 57
/-- Member index in the group. -/
def groupMember (k : Core) : Nat := field k.membership 55 51
/-- Block of the group. -/
def groupBlk (k : Core) : Nat := field k.membership 31 24
/-- Launch-domain number. -/
def launchDom (k : Core) : Nat := field k.membership 47 32

/-- The group rectangle as an operand (R6). -/
def groupScope (k : Core) : Word :=
  let m := k.membership
  let r0 := groupBlk k / 16 * 64
  let c0 := groupBlk k % 16 * 64
  rectWord { row0 := r0 + field m 5 0, col0 := c0 + field m 11 6, row1 := r0 + field m 17 12, col1 := c0 + field m 23 18 }

/-- A sequencer of a block. -/
def seqAt (s : State) (blk q : Nat) : Sequencer := (mapGet (blockAt s blk).seqs q).getD Sequencer.reset

/-- The state with a sequencer changed. -/
def setSeq (s : State) (blk q : Nat) (x : Sequencer) : State :=
  let b := blockAt s blk
  setBlock s blk { b with seqs := mapSet b.seqs q x }

/-- The core of a member of a sequencer's group (R8). -/
def Sequencer.member (q : Sequencer) (m : Nat) : Nat := q.core0 + m / max 1 q.gcols * 1024 + m % max 1 q.gcols

/-- The oldest entry that has not fired and contains a member (R59). -/
def claimOf (q : Sequencer) (m : Nat) : Option MaskEntry := q.buf.find? (fun e => e.fired.isNone && e.mask.getLsbD m)

/-- The buffer with a member's waiting bit set in an entry. -/
def Sequencer.setWait (q : Sequencer) (sq m : Nat) : Sequencer :=
  { q with buf := q.buf.map (fun e => if e.sq.toNat = sq then { e with wait := setBit e.wait m true } else e) }

/-- The launch of a core, as the placer holds it. -/
def placedOf (s : State) (k : Core) : Option Placed := s.dev.placed.find? (fun p => some p.serial == launchOf k)

/-- Does WAIT take the barrier-membership fault on a core (R63, R459)? -/
def waitFaults (s : State) (k : Core) : Bool :=
  !k.membership.getLsbD 56 || (placedOf s k).any (fun p => p.seqFault.contains (groupBlk k, groupSeq k))

/-- A core in WAIT whose release has completed sets its waiting bit in the entry that claims it (R62). -/
def waitArrive (s : State) (core : Nat) : State :=
  let k := coreOf s core
  match k.ct.wait with
  | .bar sq false =>
    if releaseDone s core false (groupScope k) k.ct.seq then
      let s1 := setThread s core false { k.ct with wait := .bar sq true }
      match sq with
      | some n => setSeq s1 (groupBlk k) (groupSeq k) ((seqAt s1 (groupBlk k) (groupSeq k)).setWait n (groupMember k))
      | none => s1
    else s
  | _ => s

/-- A core enters WAIT: it is claimed in the cycle of its issue where an entry contains it (R59). -/
def waitEnter (s : State) : State :=
  let k := s.core
  let q := seqAt s (groupBlk k) (groupSeq k)
  let s1 := setThr (releasePass s (groupScope k)) { thr s with
    wait := .bar ((claimOf q (groupMember k)).map (·.sq.toNat)) false, waitFrom := s.dev.time, waitRaised := false }
  waitArrive s1 s.me

/-- WAIT. -/
def execWait (h : Hdr) (s : State) : Host.Outcome State Fault Refusal :=
  issue infoC h {} (fun s => if waitFaults s s.core then .trap causeBarrier 0 else .park (waitEnter s)) s

/-! ## GBAR at a core -/

/-- The launch domain with an arrival (R70, R72); a tie for the last goes to the lower core (R433). -/
def LDom.arrive (d : LDom) (core tick : Nat) : LDom :=
  { d with
    arrived := d.arrived ++ [core]
    first := if d.arrived.isEmpty then tick else min d.first tick
    last := max d.last tick
    lastCore := if d.arrived.isEmpty || decide (d.last < tick) then core
      else if d.last = tick then min core d.lastCore else d.lastCore
    sum := d.sum + tick }

/-- A core in GBAR whose release has completed signals its arrival. -/
def gbarArrive (s : State) (core : Nat) : State :=
  let k := coreOf s core
  match k.ct.wait with
  | .gbar false ld =>
    if releaseDone s core false k.launchRect k.ct.seq then
      let s1 := setThread s core false { k.ct with wait := .gbar true ld }
      match mapGet s1.dev.ldoms ld with
      | some d => setDev s1 { s1.dev with ldoms := mapSet s1.dev.ldoms ld (d.arrive core s1.dev.time) }
      | none => s1
    else s
  | _ => s

/-- A core enters GBAR. -/
def gbarEnter (s : State) : State :=
  gbarArrive (setThr (releasePass s s.core.launchRect)
    { thr s with wait := .gbar false (launchDom s.core), waitFrom := s.dev.time, waitRaised := false }) s.me

/-- Does GBAR take the barrier-membership fault on a core (R70, R477)? -/
def gbarFaults (s : State) (k : Core) : Bool := !k.membership.getLsbD 50 || (placedOf s k).any (·.barFault)

/-- GBAR. -/
def execGbar (h : Hdr) (s : State) : Host.Outcome State Fault Refusal :=
  issue infoC h {} (fun s => if gbarFaults s s.core then .trap causeBarrier 0 else .park (gbarEnter s)) s

/-- The arrivals of a core that its accesses held back. -/
def arrivals (s : State) (core : Nat) : State := gbarArrive (waitArrive s core) core

/-- Does a core's WAIT or GBAR still wait for its release? -/
def awaitsRelease (k : Core) : Bool :=
  match k.ct.wait with
  | .bar _ false => true
  | .gbar false _ => true
  | _ => false

/-- The arrivals of every core whose release has completed: whatever the step did, a release is complete with the last of what it
waited for (R62, R70). -/
def allArrivals (s : State) : State :=
  ((liveCores s).filter (fun c => awaitsRelease (coreOf s c))).foldl arrivals s

/-- REPLAY_PASS (R450): over the entries and held parts of a thread, oldest first; an entry that it performs or discards may complete a
release. -/
def execReplayPass (core : Nat) (mt : Bool) (s : State) : Host.Outcome State Fault Refusal :=
  .next (arrivals (replayThread redApply s core mt) core)

/-! ## TLW, TLR, TLS -/

/-- The core that a timeline instruction names: the issuing core, or a member of its launch (R344). None for a member index at
or beyond the launch's member count. -/
def tlCore (s : State) (c : Option XReg) : Option Nat :=
  match c with
  | none => some s.me
  | some r =>
    let rect := rectOf s.core.launchRect
    if (xget s r).toNat < rectCount rect then some (memberCore (xget s r).toNat rect) else none

/-- A timeline of a core in the set of a launch (R127). -/
def tlOf (s : State) (core serial : Nat) (n : BitVec 3) : Timeline :=
  let has (k : Core) : Bool := k.tls.any (fun t => t.serial == serial) || k.tlsPrev.any (fun t => t.serial == serial)
  match holder s core has with
  | some k => tlGet (tlsOf k serial) n
  | none => Timeline.zero

/-- The check of a member index. -/
def checkMember (s : State) (c : Option XReg) : Option (BitVec 16 × Word) :=
  if (tlCore s c).isNone then some (causeMemOperand, 0) else none

/-- May a TLW end: the value is reached and every earlier load is bound (R122, R129)? -/
def tlwMet (s : State) (core on tl : Nat) (n : Word) : Bool :=
  decide (n.toNat ≤ (tlOf s on (tlsNow (coreOf s core)).serial (BitVec.ofNat 3 tl)).v) && loadsBound s core false

/-- The effect of TLW: the operands are read at issue. -/
def tlwRes (n : BitVec 3) (a b : XReg) (c : Option XReg) (s : State) : Res :=
  checked (orElse (checkScope (xget s b)) (checkMember s c))
    (let on := (tlCore s c).getD s.me
     if tlwMet s s.me on n.toNat (xget s a) then .done (acquire s (xget s b))
     else .park (setThr s ((thr s).beginWait (.tlw on n.toNat (xget s a) (xget s b)) s.dev.time)))

/-- TLW. -/
def execTlw (h : Hdr) (n : BitVec 3) (a b : XReg) (c : Option XReg) (s : State) : Host.Outcome State Fault Refusal :=
  issue infoC h { xr := a :: b :: optReg c } (tlwRes n a b c) s

/-- May the TLW that a core waits in end? A timer trap that is due, and a trap that a member of its gang is pending for, come before it
(R255, R447, R471). -/
def tlwReady (s : State) (core : Nat) : Bool :=
  match (coreOf s core).ct.wait with
  | .tlw on tl n _ =>
    tlwMet s core on tl n && !timerDue s (coreOf s core) &&
    (gangOf s core).all (fun c => (coreOf s c).ct.pendTraps.isEmpty)
  | _ => false

/-- TLW_SATISFIED (R129): the value is reached, and the core acquires and goes on. -/
def execTlwSatisfied (core : Nat) (s : State) : Host.Outcome State Fault Refusal :=
  .next (match (coreOf s core).ct.wait with
    | .tlw _ _ _ scope => if tlwReady s core then finishWait (acquireAt s core scope) core false else s
    | _ => s)

/-- TLR: V, or I with its modifier, without ordering (R345). -/
def execTlr (h : Hdr) (n : BitVec 3) (issued : Bool) (d : XReg) (c : Option XReg) (s : State) :
    Host.Outcome State Fault Refusal :=
  issue infoC h { xr := optReg c, xw := [d] } (fun s =>
    checked (checkMember s c)
      (let t := tlOf s ((tlCore s c).getD s.me) (tlsNow s.core).serial n
       writeX d (BitVec.ofNat 64 (if issued then t.i else t.v)) s)) s

/-- The effect of TLS (R346): a release that its thread does not wait for. -/
def tlsRes (d a : XReg) (s : State) : Res :=
  let scope := xget s a
  checked (checkScope scope)
    (let num := tlNext s.core 7
     .done (xset (issueOp (releasePass s scope) 7 0 (.release scope (thr s).seq) none) d (BitVec.ofNat 64 num)))

/-- TLS. -/
def execTls (h : Hdr) (d a : XReg) (s : State) : Host.Outcome State Fault Refusal :=
  issue infoC h (usesDA d a) (tlsRes d a) s

/-! ## What is enabled -/

/-- The end of a TLW that a core's state enables, and the completions of its TLS operations. -/
def enabledSync (s : State) (core : Nat) : List Ev :=
  (if coreRuns (coreOf s core) && tlwReady s core then [Ev.tlwSatisfied core] else []) ++ enabledReleases s core

end Sys2Proof.Machine
end

