-- ==== Sys2Proof/Machine/Ring.lean ====
section
/-!
DEFINITION. Ring handles (R347 to R355, R462) and WAKE (R356): the instructions, the requests and grants that the receiver
serves, the bytes of SEND at their receiver, and commits.
-/

namespace Sys2Proof.Machine

/-! ## Launch members -/

/-- Members of the launch of a core. -/
def memberCount (k : Core) : Nat := rectCount (rectOf k.launchRect)

/-- The core with a launch member index. -/
def launchCore (k : Core) (i : Nat) : Nat := memberCore i (rectOf k.launchRect)

/-- Is a member of a launch saved from a position? -/
def away (s : State) (core serial : Nat) : Bool :=
  s.ctxs.any (fun c => c.2.saved.any (fun r => r.cores.any (fun x =>
    x.pos % 2 ^ 20 == core && x.core.taskRec.any (fun t => t.serial == serial))))

/-- The number of a member of a core's launch: its position, or, where it is saved, the number of its accesses in flight (R355). -/
def memberNow (s : State) (core m : Nat) : Nat :=
  let k := coreOf s core
  let c := launchCore k m
  ((allSavedCores s).find? (fun x => x.pos % 2 ^ 20 == c && x.core.taskRec.any (fun t => k.taskRec.any (fun r => r.serial == t.serial)))).elim
    c (·.pos)

/-- Is the receiver of a core's ring messages pre-empted (R355)? -/
def absentRx (s : State) (tx rx : Nat) : Bool :=
  (coreOf s rx).stopped || (launchOf (coreAny s tx)).any (away s rx)

/-- The launch member index of a core. -/
def launchIndex (s : State) (core : Nat) : Nat := memberIdx core (rectOf (coreAny s core).launchRect)

/-- A rectangle operand that holds one core. -/
def oneCore (core : Nat) : Word :=
  rectWord { row0 := rowOf core, col0 := colOf core, row1 := rowOf core, col1 := colOf core }

/-! ## Slots -/

/-- A slot's state. -/
def slotOfRing (x : Handle) (i : Nat) : RSlot := x.slots.getD i .free

/-- Slots that satisfy a test. -/
def slotCount (x : Handle) (p : RSlot → Bool) : Nat := (x.slots.filter p).length

/-- Is a slot FREE? -/
def isFreeSlot (x : RSlot) : Bool := x == .free
/-- Is a slot FILLED? -/
def isFilledSlot (x : RSlot) : Bool := x == .filled

/-- The handle with its HELD slot freed (R353). (DEDUCED: log 35.) -/
def freeHeld (x : Handle) : Handle := { x with slots := x.slots.map (fun y => if y = .held then .free else y) }

/-- The state with a handle of a core changed. -/
def setHandle (s : State) (core : Nat) (h : HReg) (x : Handle) : State := setCore s core (hset (coreOf s core) h x)

/-- The receiver grants slots to waiting requests, in arrival order, while the slot at its grant pointer is FREE (R349); `f`
bounds the grants. The grants travel to the senders' handles (row RING_GRANT). -/
def serveRing (rx : Nat) (h : HReg) : Nat → State → State
  | 0, s => s
  | f + 1, s =>
    let x := hget (coreOf s rx) h
    match x.waiting with
    | [] => s
    | (m, th) :: rest =>
      if x.st = .rx ∧ slotOfRing x x.grantPtr = .free then
        let y := { x with
          waiting := rest, slots := listSet x.slots x.grantPtr (.granted m th)
          grantPtr := (x.grantPtr + 1) % max 1 x.slots.length }
        serveRing rx h f (post (setHandle s rx h y)
          (.ringGrant (memberNow s rx m) th (some (x.grantPtr, x.z))))
      else s

/-- Every waiting request that can be granted now is granted. -/
def serveAll (s : State) (rx : Nat) (h : HReg) : State := serveRing rx h (hget (coreOf s rx) h).waiting.length s

/-! ## HCFG -/

/-- May HCFG act on a handle (R348)? -/
def hcfgFrom (x : Handle) : Bool :=
  x.st == .unconf || x.st == .txIdle || x.st == .error || (x.st == .rx && x.slots.all isFreeSlot)

/-- The handle that HCFG.RX makes; none for a breach. -/
def hcfgRx (k : Core) (a b : Word) : Option Handle :=
  let z := field b 15 0
  let m := field b 31 16
  if a.toNat % 64 = 0 ∧ z % 64 = 0 ∧ 64 ≤ z ∧ z ≤ 4096 ∧ 1 ≤ m ∧ m ≤ 256 ∧ field b 63 32 = 0 ∧
      a.toNat + z * m ≤ padSize k then
    some { Handle.reset with st := .rx, base := a.toNat, z := z, slots := List.replicate m .free }
  else none

/-- The handle that HCFG.TX makes. -/
def hcfgTx (k : Core) (a b : Word) : Option Handle :=
  if a.toNat < 2 ^ 19 ∧ field a 15 0 < memberCount k ∧ b = 0 then
    some { Handle.reset with st := .txIdle, peer := field a 15 0, peerH := a.extractLsb' 16 3 }
  else none

/-- The handle that a form of HCFG makes on the focused core. -/
def hcfgNew (op : HcfgOp) (s : State) : Option Handle :=
  match op with
  | .rx a b => hcfgRx s.core (xget s a) (xget s b)
  | .tx a b => hcfgTx s.core (xget s a) (xget s b)
  | .off a b => if a = 0 ∧ b = 0 then some Handle.reset else none

/-- Registers that a form of HCFG reads. -/
def hcfgRegs (op : HcfgOp) : List XReg :=
  match op with
  | .rx a b => [a, b]
  | .tx a b => [a, b]
  | .off _ _ => []

/-- Senders that wait at a handle that stops receiving are refused (R355). -/
def refuseWaiting (s : State) (rx : Nat) (x : Handle) : State :=
  x.waiting.foldl (fun st w => post st (.ringGrant (memberNow s rx w.1) w.2 none)) s

/-- The effect of HCFG. -/
def hcfgRes (op : HcfgOp) (d : HReg) (s : State) : Res :=
  let old := hget s.core d
  if !hcfgFrom old then .trap causeHandle 0
  else match hcfgNew op s with
    | some x =>
      let s1 := refuseWaiting s s.me old
      .done { s1 with core := hset s1.core d x }
    | none => .trap causeHandle 0

/-- HCFG. -/
def execHcfg (h : Hdr) (op : HcfgOp) (d : HReg) (s : State) : Host.Outcome State Fault Refusal :=
  issue infoC h { xr := hcfgRegs op } (hcfgRes op d) s

/-! ## HRSV and the grant -/

/-- HRSV (R349): the request travels to the receiver. -/
def execHrsv (h : Hdr) (a : HReg) (s : State) : Host.Outcome State Fault Refusal :=
  issue infoC h {} (fun s =>
    let x := hget s.core a
    if x.st = .txIdle then
      .done (post { s with core := hset s.core a { x with st := .txWait } } (.ringReservationRequest s.me a))
    else .trap causeHandle 0) s

/-- Do two cores run tasks of one launch? -/
def sameLaunch (s : State) (a b : Nat) : Bool :=
  (launchOf (coreAny s a)).isSome && launchOf (coreAny s a) == launchOf (coreOf s b)

/-- RING_RESERVATION_REQUEST (R349): a request for a handle that is not RX is refused; another joins the receiver's queue. A
pre-empted receiver is waited for (R355). -/
def execRingReservationRequest (tx : Nat) (th : HReg) (s : State) : Host.Outcome State Fault Refusal :=
  .next (
    let x := hget (coreAny s tx) th
    let rx := launchCore (coreAny s tx) x.peer
    let y := hget (coreOf s rx) x.peerH
    if x.st ≠ .txWait then s
    else if absentRx s tx rx then post s (.ringReservationRequest tx th)
    else if y.st ≠ .rx ∨ sameLaunch s tx rx = false then post s (.ringGrant tx th none)
    else
      let s1 := setHandle s rx x.peerH { y with waiting := y.waiting ++ [(launchIndex s tx, th)] }
      serveAll s1 rx x.peerH)

/-- RING_GRANT (R349): a grant makes the sender's handle TXHOLD with its fill cursor at 0, a refusal makes it ERROR. A stopped
sender takes it when it is restored. -/
def execRingGrant (tx : Nat) (th : HReg) (grant : Option (Nat × Nat)) (s : State) : Host.Outcome State Fault Refusal :=
  .next (
    let x := hget (coreOf s tx) th
    if (coreOf s tx).stopped || decide (2 ^ 20 ≤ tx) then post s (.ringGrant tx th grant)
    else if x.st ≠ .txWait then s
    else match grant with
      | some g => setHandle s tx th { x with st := .txHold, slot := g.1, z := g.2, cur := 0 }
      | none => setHandle s tx th { x with st := .error })

/-! ## SEND and HCMT -/

/-- The receiver of a handle of the focused core. -/
def ringRx (s : State) (a : HReg) : Nat := launchCore s.core (hget s.core a).peer

/-- A sending instruction waits for the grant, then, its own checks passed, for a pre-empted receiver; in another state it faults (R350,
R355, R456). -/
def withGrant (a : HReg) (s : State) (check : Handle → Option (BitVec 16 × Word)) (f : Handle → Nat → Res) : Res :=
  let x := hget s.core a
  if x.st = .txWait then .wait
  else if x.st ≠ .txHold then .trap causeHandle 0
  else checked (check x) (if absentRx s s.me (ringRx s a) then .wait else f x (ringRx s a))

/-- The address of a core's local memory as others name it, which a trap of class T for what was sent there records (R477). -/
def coreAp (core off : Nat) : Nat := 0xF2_0000_0000_0000 + core * 2 ^ 20 + off

/-- The effect of SEND (R351). -/
def sendRes (a : HReg) (b : VReg) (c : XReg) (ch : BitVec 3) (s : State) : Res :=
  let n := (xget s c).toNat
  let check (x : Handle) : Option (BitVec 16 × Word) :=
    if n = 0 ∨ 512 < n then some (causeMemOperand, 0) else if x.z < x.cur + n then some (causeHandle, 0) else none
  withGrant a s check (fun x rx =>
    if !storeRoom s then .wait
    else
      let off := ringSlotOff (coreOf s rx) x.peerH x.slot + x.cur
      let va := localKey rx off
      let acc := newAccess s (.send a x.peerH x.slot x.cur) va (coreAp rx off) n ((vecBytes (vget s b)).take n) ch 0 0
      let s1 := nextSeq (enqueue s acc)
      .done { s1 with core := hset s1.core a { x with cur := x.cur + n } })

/-- SEND. -/
def execSend (h : Hdr) (a : HReg) (b : VReg) (c : XReg) (s : State) : Host.Outcome State Fault Refusal :=
  issue infoC h { xr := [c], vr := [b] } (sendRes a b c h.ch) s

/-- The effect of HCMT (R352): the release, then the commit travels behind the bytes of the slot. -/
def hcmtRes (a : HReg) (s : State) : Res :=
  withGrant a s (fun _ => none) (fun x rx =>
    releaseFirst (oneCore rx) s (fun s =>
      let c : Commit :=
        { th := a, m := launchIndex s s.me, serial := (launchOf s.core).getD 0, rx := rx, rxh := x.peerH, slot := x.slot }
      let k := hset s.core a { x with st := .txIdle, slot := 0, cur := 0 }
      .done (post { s with core := { k with commits := k.commits ++ [c] } } (.commitComplete s.me a))))

/-- HCMT. -/
def execHcmt (h : Hdr) (a : HReg) (s : State) : Host.Outcome State Fault Refusal :=
  issue infoC h {} (hcmtRes a) s

/-- Has every SEND byte of a sender's handle for a slot been performed? -/
def sendsDone (s : State) (tx : Nat) (th : HReg) (slot : Nat) : Bool :=
  !s.net.any (fun b => b.core == tx && !b.performed && (match b.op with
    | .send h _ k _ => h == th && k == slot
    | _ => false))

/-- The oldest commit of a handle that is on its way. -/
def commitOf (k : Core) (th : HReg) : Option Commit := k.commits.find? (fun c => c.th == th)

/-- The state without a commit of a core. -/
def dropCommit (s : State) (tx : Nat) (c : Commit) : State :=
  let k := coreAny s tx
  setAny s tx { k with commits := k.commits.erase c }

/-- A slot becomes FILLED. -/
def fillSlot (s : State) (rx : Nat) (h : HReg) (slot : Nat) : State :=
  let x := hget (coreOf s rx) h
  setHandle s rx h { x with slots := listSet x.slots slot .filled }

/-- COMMIT_COMPLETE (R352): the slot that the sender held becomes FILLED once its bytes are performed, whatever its handle does by
then. A pre-empted receiver is waited for (R355); a halted one holds the commit (R429); a slot that was revoked stays as it is; a
contained receiver turns the commit away, and its sender takes cause 0x26 (R477). -/
def execCommitComplete (tx : Nat) (th : HReg) (s : State) : Host.Outcome State Fault Refusal :=
  .next (match commitOf (coreAny s tx) th with
    | none => s
    | some c =>
      let r := coreOf s c.rx
      if r.contained then
        addTrap (dropCommit s tx c) tx false causeContained (BitVec.ofNat 64 (coreAp c.rx (ringSlotOff r c.rxh c.slot)))
      else if r.stopped || away s c.rx c.serial || !sendsDone s tx th c.slot then post s (.commitComplete tx th)
      else if launchOf r != some c.serial || slotOfRing (hget r c.rxh) c.slot != .granted c.m th then dropCommit s tx c
      else if r.dbg.halted then
        let m := Msg.commit c.rxh c.slot
        if heldAccepts (blockAt s (blockOf c.rx)) c.rx m then dropCommit (holdMessage s c.rx m) tx c
        else post s (.commitComplete tx th)
      else fillSlot (dropCommit s tx c) c.rx c.rxh c.slot)

/-! ## HADV and HQRY -/

/-- The effect of HADV (R353): the HELD slot is freed first, also where the head slot is still awaited. -/
def hadvRes (op : HadvOp) (a : HReg) (s : State) : Res :=
  let x := hget s.core a
  if x.st ≠ .rx then .trap causeHandle 0
  else
    let y := freeHeld x
    let s1 := if y = x then s else serveAll { s with core := hset s.core a y } s.me a
    match op with
    | .done => .done s1
    | .next d =>
      let z := hget s1.core a
      if slotOfRing z z.head = .filled then
        let w := { z with slots := listSet z.slots z.head .held, head := (z.head + 1) % max 1 z.slots.length }
        .done (xset { s1 with core := hset s1.core a w } d (BitVec.ofNat 64 (0xF0_0000_0000_0000 + z.base + z.z * z.head)))
      else if y = x then .wait else .again s1

/-- Registers that HADV writes. -/
def hadvRegs (op : HadvOp) : List XReg :=
  match op with
  | .next d => [d]
  | .done => []

/-- HADV. (DEDUCED: log 35.) -/
def execHadv (h : Hdr) (op : HadvOp) (a : HReg) (s : State) : Host.Outcome State Fault Refusal :=
  issue infoC h { xw := hadvRegs op } (hadvRes op a) s

/-- Code of a handle's state (Table 16.4). -/
def HState.code : HState → Nat
  | .unconf => 0 | .rx => 1 | .txIdle => 2 | .txWait => 3 | .txHold => 4 | .error => 5

/-- HQRY's result (Table 16.6). -/
def hqryWord (x : Handle) : Word :=
  let cur := if x.st = .txHold then x.cur else if x.st = .rx then x.z else 0
  let fill := if x.st = .rx then slotCount x isFilledSlot else 0
  let free := if x.st = .rx then slotCount x isFreeSlot else if x.st = .txHold then x.slot else 0
  BitVec.ofNat 64 (x.st.code * 2 ^ 48 + cur % 2 ^ 16 * 2 ^ 32 + fill * 2 ^ 16 + free)

/-- HQRY (R354). -/
def execHqry (h : Hdr) (d : XReg) (a : HReg) (s : State) : Host.Outcome State Fault Refusal :=
  issue infoC h { xw := [d] } (fun s => writeX d (hqryWord (hget s.core a)) s) s

/-! ## WAKE -/

/-- The effect of WAKE (R356): the member check, the release to the target, then the wake travels; a pre-empted target is waited
for, as a ring's receiver is (R355), and a contained one turns the wake away (R477). (DEDUCED: log 37.) -/
def wakeRes (a : XReg) (s : State) : Res :=
  let m := (xget s a).toNat
  if memberCount s.core ≤ m ∨ 2 ^ 16 ≤ m then .trap causeMemOperand 0
  else
    let t := launchCore s.core m
    if absentRx s s.me t then .wait
    else releaseFirst (oneCore t) s (fun s =>
      if (coreOf s t).contained then .done (addTrap s s.me s.onMt causeContained (BitVec.ofNat 64 (coreAp t 0)))
      else .done (post s (.wakeArrival t)))

/-- WAKE. -/
def execWake (h : Hdr) (a : XReg) (s : State) : Host.Outcome State Fault Refusal :=
  issue infoC h { xr := [a] } (wakeRes a) s

/-! ## A message of SEND at its receiver -/

/-- The bytes of a SEND performed in the receiver's scratchpad; a pre-empted receiver is waited for, a halted one holds them
(R351, R355, R429). -/
def performSend (s : State) (a : Access) (rxh : HReg) (slot cur : Nat) : State :=
  match keyHome a.va with
  | .block _ => s
  | .core rx =>
    let r := coreOf s rx
    if r.contained then nackContained s a
    else if absentRx s a.core rx then s
    else if r.dbg.halted then
      let m := Msg.send rxh slot cur a.data
      if heldAccepts (blockAt s (blockOf rx)) rx m then accSet (holdMessage s rx m) { a with stage := .performed [] } else s
    else accSet (storeMem s a.va a.data) { a with stage := .performed [] }

/-- A grant of a slot revoked at its sender: the handle that holds this grant, or that it is on its way to, becomes ERROR, and a commit
of the slot goes (R462). -/
def revokeGrant (rx : Nat) (h : HReg) (z : Nat) (s : State) (g : Nat × Nat × HReg) : State :=
  let c := memberNow s rx g.2.1
  let k := coreAny s c
  let y := hget k g.2.2
  let ev := Ev.ringGrant c g.2.2 (some (g.1, z))
  let mine := launchOf k == launchOf (coreOf s rx) && y.peer == launchIndex s rx && y.peerH == h &&
    (y.st == .txHold && y.slot == g.1 || y.st == .txWait && s.pending.contains ev)
  let k1 := { k with commits := k.commits.filter (fun x => !(x.rx == rx && x.rxh == h && x.slot == g.1 && x.th == g.2.2)) }
  let k2 := if mine then hset k1 g.2.2 { y with st := .error } else k1
  let s1 := { s with pending := s.pending.erase ev }
  if k2 = k then s1 else setAny s1 c k2

/-- The end of a task or containment revokes the grants of an RX handle and refuses its requests (R462): the number revoked. -/
def revokeHandle (s : State) (rx : Nat) (h : HReg) : State :=
  let x := hget (coreOf s rx) h
  if x.st ≠ .rx then setHandle s rx h Handle.reset
  else
    let grants := ((List.range x.slots.length).zip x.slots).filterMap (fun y => match y.2 with
      | .granted m th => some (y.1, m, th)
      | _ => none)
    let s2 := grants.foldl (revokeGrant rx h x.z) (refuseWaiting s rx x)
    let s3 := setHandle s2 rx h Handle.reset
    if grants.isEmpty then s3
    else raiseEvent s3 ((coreOf s rx).ctx.getD 0) 12 (BitVec.ofNat 64 (launchIndex s rx))
      (BitVec.ofNat 64 (h.toNat + grants.length * 2 ^ 8))

/-- Every handle of a core whose task ends (R462). (DEDUCED: log 36.) -/
def revokeAll (s : State) (core : Nat) : State :=
  (List.range 8).foldl (fun st h => revokeHandle st core (BitVec.ofNat 3 h)) s

end Sys2Proof.Machine
end

