-- ==== Sys2Proof/Machine/Engine.lean ====
section
/-!
DEFINITION. Routines (R361, R362), copies (R363 to R367), peer operations (R368, R369) and cache commands (R370 to R373) at
their issue, and the engine operations that they start, one unit of work a step.
-/

namespace Sys2Proof.Machine

/-! ## Routines -/

/-- MVCALL (R361): each member of a gang posts to its own movement thread. -/
def execMvcall (h : Hdr) (d a : XReg) (imm : BitVec 18) (s : State) : Host.Outcome State Fault Refusal :=
  issue infoC h { xr := [d, a] } (fun s =>
    if 2 ≤ s.core.mvq.length then .wait
    else .done { s with core := { s.core with
      mvq := s.core.mvq ++ [(relTarget (thr s).pc imm, xget s d, xget s a, (thr s).seq)] } }) s

/-- MVRET (R362): the routine ends, and the thread waits in task state for its next entry (R253). -/
def execMvret (h : Hdr) (s : State) : Host.Outcome State Fault Refusal :=
  issue { infoM with transfer := true } h {} (fun s => .goto (setThr s { thr s with active := false, priv := false, got := [] })) s

/-- May the movement thread of a core start a queued routine? It stays stopped during a debugger's step (R426). -/
def routineReady (k : Core) : Bool := coreRuns k && !k.mt.active && !k.mvq.isEmpty && !k.stopReq && k.dbg.pendHalt.isNone && !k.dbg.step

/-- ROUTINE_START (R361): x1 and x2 take the values, and the thread enters the block at the target in task state (R253). (DEDUCED: log 39.) -/
def execRoutineStart (core : Nat) (s : State) : Host.Outcome State Fault Refusal :=
  .next (
    let k := coreOf s core
    match k.mvq with
    | [] => s
    | (t, v1, v2, n) :: rest =>
      if !routineReady k then s
      else
        let m := (k.mt.xset 1 v1).xset 2 v2
        setCore s core { k with
          mvq := rest
          mt := { m with active := true, priv := false, pc := t, entry := .header, entered := false, wait := .none, stallUntil := n, got := [] } })

/-- The first access of a routine waits for the compute thread's earlier stores (R124). -/
def routineGate (s : State) (r : Res) : Res :=
  if s.onMt && (accsOf s s.me false).any (fun a => a.op.writes && decide (a.seq < (thr s).stallUntil) && !a.performed) then .wait
  else r

/-! ## Operands of engine instructions -/

/-- A memory range of an engine instruction (R360). (DEDUCED: log 31, DEDUCED: log 77.) -/
def checkRange (s : State) (x : Word) (n : Nat) : Option (BitVec 16 × Word) :=
  if badAddress x n then some (causeMemOperand, x)
  else if n ≠ 0 ∧ x.toNat / 2 ^ 48 ≠ (x.toNat + n - 1) / 2 ^ 48 ∧ 15 * 2 ^ 52 < x.toNat + n then some (causeMemOperand, x)
  else if badAperture s x n then some (causeAperture, x)
  else none

/-- A failed condition as the memory-operand fault. -/
def memOperand (bad : Bool) (a : Word) : Option (BitVec 16 × Word) := if bad then some (causeMemOperand, a) else none

/-- The checks in order: the first that fails. -/
def firstOf : List (Option (BitVec 16 × Word)) → Option (BitVec 16 × Word)
  | [] => none
  | some x :: _ => some x
  | none :: l => firstOf l

/-- The timeline of a copy stream. -/
def streamTl (s1 : Bool) : BitVec 3 := if s1 then 1 else 0

/-- The image of a sequencer whose group is wholly pre-empted (R68). -/
def savedSeqAt (s : State) (blk seq : Nat) : Option Sequencer :=
  s.ctxs.findSome? (fun c => c.2.saved.findSome? (fun r => (r.seqs.find? (fun x => x.1 == blk && x.2.1 == seq)).map (·.2.2)))

/-- Does a core run a task of a launch, or stand idle after one? -/
def runsOf (serial : Nat) (k : Core) : Bool :=
  k.taskRec.any (fun t => t.serial == serial) || (k.taskRec.isNone && k.tls.any (·.isOf serial))

/-- The group of a member of the focused core's launch, block and sequencer: as the member's MEMBERSHIP names it, where it stands or
where it is saved (R49); of a member whose core has gone on to another launch, as the placer holds it. -/
def memberGroup (s : State) (i : Nat) : Option (Nat × Nat) :=
  let pos := launchCore s.core i
  let mine (k : Core) : Bool := (launchOf s.core).any (fun n => runsOf n k)
  let k := (((allSavedCores s).find? (fun x => x.pos % 2 ^ 20 == pos && mine x.core)).map (·.core)).or
    (if mine (coreOf s pos) then some (coreOf s pos) else none)
  match k with
  | some k => if k.membership.getLsbD 56 then some (groupBlk k, groupSeq k) else none
  | none => (placedOf s s.core).bind (fun p => (p.seqs.find? (fun x =>
      let q := (savedSeqAt s x.1 x.2.1).getD (seqAt s x.1 x.2.1)
      (List.range q.gsz).any (fun m => q.member m == pos))).map (fun x => (x.1, x.2.1)))

/-- The group and tag of a tag operand (R365): block, sequencer, tag. -/
def tagOf (s : State) (e : Option XReg) : Option (Nat × Nat × Nat) :=
  e.bind (fun r => (memberGroup s (field (xget s r) 15 0)).map (fun g => (g.1, g.2, field (xget s r) 19 16)))

/-- The check of a tag operand. (DEDUCED: log 77.) -/
def checkTag (s : State) (e : Option XReg) : Option (BitVec 16 × Word) :=
  match e with
  | none => none
  | some r =>
    let x := xget s r
    memOperand (field x 63 20 != 0 || decide (memberCount s.core ≤ field x 15 0) || (memberGroup s (field x 15 0)).isNone) 0

/-- Operations of a stream that have not completed. -/
def opsOn (k : Core) (tl : BitVec 3) : Nat := (k.ops.filter (fun o => o.tl == tl.toNat)).length

/-- An operation joins its timeline, and its number goes to d; a ninth on one stream waits (R358). -/
def joinTl (tl ch : BitVec 3) (d : XReg) (op : EOp) (tag : Option (Nat × Nat × Nat)) (s : State) : Res :=
  if 8 ≤ opsOn s.core tl then .wait
  else .done (xset (issueOp s tl ch op tag) d (BitVec.ofNat 64 (tlNext s.core tl)))

/-- An operation that makes accesses joins once the routine's first access may be made (R124). -/
def joinGated (tl ch : BitVec 3) (d : XReg) (op : EOp) (tag : Option (Nat × Nat × Nat)) (s : State) : Res :=
  routineGate s (joinTl tl ch d op tag s)

/-- A cache command joins: gated where it writes a status word. -/
def joinStatus (tl ch : BitVec 3) (d : XReg) (op : EOp) (at_ : Option Nat) (s : State) : Res :=
  if at_.isSome then joinGated tl ch d op none s else joinTl tl ch d op none s

/-! ## Copies -/

/-- CPY (R364). -/
def execCpy (h : Hdr) (s1 : Bool) (d a b c : XReg) (e : Option XReg) (s : State) : Host.Outcome State Fault Refusal :=
  issue infoM h { xr := a :: b :: c :: optReg e, xw := [d] } (fun s =>
    let n := (xget s c).toNat
    checked (firstOf [memOperand (decide (2 ^ 32 ≤ n)) 0, checkRange s (xget s a) n, checkRange s (xget s b) n, checkTag s e])
      (joinGated (streamTl s1) h.ch d (.copy (xget s a).toNat (xget s b).toNat n) (tagOf s e) s)) s

/-- Word j of a record's bytes. -/
def recWord (bs : List Byte) (j : Nat) : Word := BitVec.ofNat 64 (leNat ((bs.drop (8 * j)).take 8))

/-- A signed 16-bit value. -/
def int16 (n : Nat) : Int := if n < 2 ^ 15 then n else (n : Int) - 2 ^ 16

/-- The steps of a generator record: count, dimension, stride (Table 17.2). -/
def genSteps (bs : List Byte) (nst : Nat) : List (Nat × Nat × Int) :=
  (List.range nst).map (fun k =>
    let w := recWord bs (2 + k)
    (field w 15 0, field w 17 16, int16 (field w 47 32)))

/-- Are the reserved fields of a generator record zero, and nst, run and cnt in range? -/
def genFieldsOk (bs : List Byte) : Bool :=
  let w0 := recWord bs 0
  let nst := field w0 11 8
  field w0 63 32 == 0 && field w0 15 12 == 0 && recWord bs 1 == 0 && decide (1 ≤ nst) && decide (nst ≤ 8) &&
  field w0 31 16 != 0 &&
  (List.range 8).all (fun k =>
    let w := recWord bs (2 + k)
    if k < nst then field w 63 48 == 0 && field w 31 18 == 0 && field w 15 0 != 0 else w == 0) &&
  (bs.drop 0x50).all (· == 0)

/-- The effect of CPYG once its record has come (R366). -/
def cpygWith (s1 : Bool) (ch : BitVec 3) (d a c : XReg) (e : Option XReg) (s : State) (bs : List Byte) : Res :=
  let w0 := recWord bs 0
  let id : BitVec 8 := w0.setWidth 8
  let run := field w0 31 16
  let steps := genSteps bs (field w0 11 8)
  if !genFieldsOk bs then .trap causeMemOperand 0
  else match ldtGet s id with
  | none => .trap causeDescriptor 0
  | some t =>
    let esz := (dType t).width / 8
    let n := steps.foldl (fun acc x => acc * x.1) (run * esz)
    let origin := (List.range 4).map (fun m => int16 (coordOf (xget s c) m))
    checked (firstOf [memOperand (steps.any (fun x => decide (dRank t ≤ x.2.1))) 0,
        memOperand (dType t == .i4 || dType t == .gq4) 0, memOperand (decide (2 ^ 32 ≤ n)) 0, checkRange s (xget s a) n,
        checkTag s e])
      (joinGated (streamTl s1) ch d (.gather (xget s a).toNat n t steps run origin) (tagOf s e) s)

/-- CPYG. -/
def execCpyg (h : Hdr) (s1 : Bool) (d a b c : XReg) (e : Option XReg) (s : State) : Host.Outcome State Fault Refusal :=
  issue infoM h { xr := a :: b :: c :: optReg e, xw := [d] } (fun s =>
    checked (firstOf [memOperand ((xget s b).toNat % 128 != 0) (xget s b), checkRange s (xget s b) 128])
      (routineGate s (readRecord h.ch (xget s b) 128 s (cpygWith s1 h.ch d a c e s)))) s

/-- May a tile of one tensor be copied to a tile of another (R367)? -/
def cpywOk (x y : DescVal) (sc dc : Word) : Bool :=
  dTy x == dTy y && decide (8 ≤ (dType x).width) && (dType x != .gq4) && [0, 1, 2, 3].all (fun m => dTx x m == dTx y m) &&
  coordOk x sc && coordOk y dc

/-- CPYW: tensor ids in Reg(c), destination tile in Reg(a), source tile in Reg(b). -/
def execCpyw (h : Hdr) (s1 : Bool) (d a b c : XReg) (e : Option XReg) (s : State) : Host.Outcome State Fault Refusal :=
  issue infoM h { xr := a :: b :: c :: optReg e, xw := [d] } (fun s =>
    let ids := xget s c
    if 2 ^ 16 ≤ ids.toNat then .trap causeMemOperand 0
    else match ldtGet s (ids.extractLsb' 0 8), ldtGet s (ids.extractLsb' 8 8) with
    | some x, some y =>
      checked (firstOf [memOperand (!cpywOk x y (xget s b) (xget s a)) 0, checkTag s e])
        (joinGated (streamTl s1) h.ch d (.tile x y (xget s b) (xget s a)) (tagOf s e) s)
    | _, _ => .trap causeDescriptor 0) s

/-! ## Peer operations -/

/-- The peer context bound to a context for a device (R368). -/
def peerBinding (s : State) (asid dev : Nat) : Option Nat :=
  (ctxOf s asid).bind (fun c => (c.tab.peers.find? (fun p => p.1 == dev)).map (·.2))

/-- Is a device in the fabric scope table, and bound? -/
def peerOk (s : State) (dev : Nat) : Bool :=
  ((mapGet s.dev.scope dev).getD 0).getLsbD 63 && (peerBinding s (myAsid s) dev).isSome

/-- CPYP. -/
def execCpyp (h : Hdr) (d a b c e : XReg) (s : State) : Host.Outcome State Fault Refusal :=
  issue infoM h { xr := [a, b, c, e], xw := [d] } (fun s =>
    let n := (xget s c).toNat
    let p := xget s e
    checked (firstOf [memOperand (decide (2 ^ 32 ≤ n)) 0, checkRange s (xget s b) n, memOperand (decide (2 ^ 16 ≤ p.toNat)) 0,
        memOperand (!peerOk s (field p 15 0)) 0])
      (joinGated 6 h.ch d (.peer (field p 15 0) (xget s a).toNat (xget s b).toNat n) none s)) s

/-- COLLP (R369). -/
def execCollp (h : Hdr) (ty : Ty) (d a b c e : XReg) (s : State) : Host.Outcome State Fault Refusal :=
  issue infoM h { xr := [a, b, c, e], xw := [d] } (fun s =>
    let n := (xget s c).toNat
    let p := xget s e
    let z := ty.width / 8
    checked (firstOf [memOperand (decide (n = 0) || decide (65536 < n)) 0, memOperand ((xget s a).toNat % z != 0) (xget s a),
        checkRange s (xget s b) (n * z), memOperand (decide (2 ^ 20 ≤ p.toNat)) 0, memOperand (!peerOk s (field p 15 0)) 0])
      (joinGated 6 h.ch d (.coll ty (field p 15 0) (xget s a).toNat (xget s b).toNat n (field p 19 16)) none s)) s

/-! ## Cache commands -/

/-- A status operand: an address where one is named and not zero (R370). -/
def statusOf (s : State) (r : Option XReg) : Option Nat :=
  match r with
  | none => none
  | some x => if xget s x = 0 then none else some (xget s x).toNat

/-- The check of a status operand. (DEDUCED: log 77.) -/
def checkStatus (s : State) (r : Option XReg) : Option (BitVec 16 × Word) :=
  match statusOf s r with
  | none => none
  | some a => firstOf [memOperand (a % 4 != 0) (BitVec.ofNat 64 a), checkRange s (BitVec.ofNat 64 a) 4]

/-- The hint that fills in a class (R92). -/
def fillHint : FillCls → BitVec 3
  | .deflt => 0 | .keep => 1 | .evf => 2 | .pin => 6

/-- CFILL (R371). -/
def execCfill (h : Hdr) (cls : FillCls) (s1 : Bool) (d : XReg) (a : Option XReg) (id : BitVec 8) (s : State) :
    Host.Outcome State Fault Refusal :=
  issue infoM h { xr := optReg a, xw := [d] } (fun s =>
    match ldtGet s id with
    | none => .trap causeDescriptor 0
    | some t => checked (checkStatus s a) (joinGated (streamTl s1) h.ch d (.fill cls t (statusOf s a)) none s)) s

/-- Is a window base not a multiple of 64 KiB? -/
def badBase (x : Word) : Bool := x.toNat % 65536 != 0

/-- CPIN (R372). -/
def execCpin (h : Hdr) (s1 : Bool) (d a : XReg) (b : Option XReg) (s : State) : Host.Outcome State Fault Refusal :=
  issue infoM h { xr := a :: optReg b, xw := [d] } (fun s =>
    checked (firstOf [memOperand (badBase (xget s a)) (xget s a), checkStatus s b])
      (joinStatus (streamTl s1) h.ch d (.pin (xget s a).toNat (statusOf s b)) (statusOf s b) s)) s

/-- CUNPIN. -/
def execCunpin (h : Hdr) (s1 : Bool) (d a : XReg) (b : Option XReg) (s : State) : Host.Outcome State Fault Refusal :=
  issue infoM h { xr := a :: optReg b, xw := [d] } (fun s =>
    checked (firstOf [memOperand (badBase (xget s a)) (xget s a), checkStatus s b])
      (joinStatus (streamTl s1) h.ch d (.unpin (xget s a).toNat (statusOf s b)) (statusOf s b) s)) s

/-- Are the block rectangle and flags of a window ill-formed (R373)? -/
def badBlocks (x : Word) : Bool :=
  field x 63 33 != 0 || decide (field x 7 0 > field x 23 16) || decide (field x 15 8 > field x 31 24) ||
  decide (field x 7 0 > 15) || decide (field x 15 8 > 15) || decide (field x 23 16 > 15) || decide (field x 31 24 > 15)

/-- The checks of a form of CWIN (R373). -/
def cwinCheck (op : CwinOp) (a : XReg) (e : Option XReg) (s : State) : Option (BitVec 16 × Word) :=
  let x := xget s a
  match op with
  | .set b c =>
    let n := xget s b
    firstOf [memOperand (badBase x || badBase n || n == 0) x,
      checkRange s x n.toNat,
      memOperand (badBlocks (xget s c)) 0, checkStatus s e]
  | .clr => firstOf [memOperand (badBase x) x, checkStatus s e]

/-- The operation of a form of CWIN. -/
def cwinOp (op : CwinOp) (a : XReg) (e : Option XReg) (s : State) : EOp :=
  match op with
  | .set b c => .winSet (xget s a).toNat (xget s b).toNat (xget s c) ((xget s c).getLsbD 32) (statusOf s e)
  | .clr => .winClr (xget s a).toNat (statusOf s e)

/-- Registers that a form of CWIN reads. -/
def cwinRegs (op : CwinOp) : List XReg :=
  match op with
  | .set b c => [b, c]
  | .clr => []

/-- CWIN. -/
def execCwin (h : Hdr) (op : CwinOp) (s1 : Bool) (d a : XReg) (e : Option XReg) (s : State) :
    Host.Outcome State Fault Refusal :=
  issue infoM h { xr := a :: (cwinRegs op ++ optReg e), xw := [d] } (fun s =>
    checked (cwinCheck op a e s) (joinStatus (streamTl s1) h.ch d (cwinOp op a e s) (statusOf s e) s)) s

/-! ## Engine accesses -/

/-- The request of an engine operation (R98, R363). -/
def engReq (s : State) (core : Nat) (o : EngOp) : Req :=
  { coreReq s core o.priv o.ch with asid := o.asid, who := some (.eng core o.id) }

/-- n bytes read for an engine operation, up to the first fault with its address. -/
def engRead (s0 : State) (core : Nat) (o : EngOp) (va n : Nat) : RunRes :=
  let s := watch s0 core va n true false
  if isAperture va then
    match engineReadFor s core o.mt (engReq s core o) (some (.eng core o.id)) va n with
    | (s1, .bytes b) => { st := s1, bytes := b, bad := none }
    | (s1, .fault c) => { st := s1, bytes := [], bad := some (some c, va) }
    | (s1, .wait) => { st := s1, bytes := [], bad := some (none, va) }
  else readRun core (engReq s core o) (splitLines va n) { st := s, bytes := [], bad := none }

/-- Bytes written for an engine operation, within one line or aperture; a stop with no cause is a wait. -/
def engWrite (s : State) (core : Nat) (o : EngOp) (va : Nat) (bytes : List Byte) : State × Option (Option (BitVec 16) × Nat) :=
  match engineWriteFor (watch s core va bytes.length false true) core o.mt (engReq s core o) (some (.eng core o.id)) va bytes with
  | (s1, .bytes _) => (s1, none)
  | (s1, .fault c) => (s1, some (some c, va))
  | (s1, .wait) => (s1, some (none, va))

/-- First byte of the sector of a destination; an aperture has sectors of 48 bytes from its base. (DESIGN CHOICE: log 23.) -/
def sectorStart (va : Nat) : Nat := if isAperture va then va / 48 * 48 else unitOf va

/-- Bytes from an address to the end of its sector, at most n. -/
def sectorRun (va n : Nat) : Nat := min (sectorStart va + (if isAperture va then 48 else unitLen (unitOf va)) - va) n

/-- Bytes from an address to the end of its naturally aligned 4-byte unit, at most n (R118). -/
def unitRun (va n : Nat) : Nat := min (4 - va % 4) n

/-! ## Pending-byte counts (R64) -/

/-- Bytes subtracted from the unfired entries with a tag, the oldest first; the rest remains. -/
def subtractBytes (tag : Nat) : List MaskEntry → Nat → List MaskEntry × Nat
  | [], n => ([], n)
  | e :: es, n =>
    if e.fired.isNone && e.tagged && e.tag.toNat == tag then
      let m := min n e.cnt
      let r := subtractBytes tag es (n - m)
      ({ e with cnt := e.cnt - m } :: r.1, r.2)
    else
      let r := subtractBytes tag es n
      (e :: r.1, r.2)

/-- The tag-credit overflow event (R64, R460). -/
def raiseCredit (s : State) (q : Sequencer) (seq tag : Nat) : State :=
  raiseEvent s q.asid 8 (BitVec.ofNat 64 tag) (BitVec.ofNat 64 (q.core0 * 2 ^ 16 + seq * 2 ^ 36))

/-- Bytes performed by a tagged copy: counts, then credit, which stays within its range; true where it would pass it and no overflow of
the tag stands reported (R64, R460). -/
def Sequencer.count (q : Sequencer) (tag n : Nat) : Sequencer × Bool :=
  let r := subtractBytes tag q.buf n
  let old := q.credits.toList.getD tag 0
  let sum := old + r.2
  let passes := decide (2 ^ 32 ≤ sum) && !q.satur.getLsbD tag
  ({ q with
      buf := r.1, credits := Vector.ofFn fun i => if i.val = tag then min sum (2 ^ 32 - 1) else q.credits[i]
      satur := if passes then setBit q.satur tag true else q.satur }, passes)

/-- The state with such an image changed. -/
def setSavedSeq (s : State) (blk seq : Nat) (q : Sequencer) : State :=
  { s with ctxs := s.ctxs.map (fun c => (c.1, { c.2 with saved := c.2.saved.map (fun r =>
      { r with seqs := r.seqs.map (fun x => if x.1 = blk ∧ x.2.1 = seq then (x.1, x.2.1, q) else x) }) })) }

/-- The count of bytes at a sequencer, or at its saved image; a credit that would pass its range raises the event. -/
def countBytes (s : State) (blk seq tag n : Nat) : State :=
  let r := (match savedSeqAt s blk seq with
    | some q => q
    | none => seqAt s blk seq).count tag n
  let s1 := if (savedSeqAt s blk seq).isSome then setSavedSeq s blk seq r.1 else setSeq s blk seq r.1
  if r.2 then raiseCredit s1 r.1 seq tag else s1

/-- The count of an operation's tag. -/
def countOp (s : State) (o : EngOp) (n : Nat) : State :=
  match o.tag with
  | some t => countBytes s t.1 t.2.1 t.2.2 n
  | none => s

/-! ## One unit of work -/

/-- An operation meets a fault: it stands still until the step that records it (row ENGINE_FAULT). One that waits at a home goes on
from where it stands. -/
def opFault (s : State) (core : Nat) (o : EngOp) (bad : Option (BitVec 16) × Nat) : State :=
  match bad.1 with
  | some c => post (opSet s core { o with stopped := true, why := c }) (.engineFault core o.id c (BitVec.ofNat 64 bad.2))
  | none => opSet s core o

/-- An operation moves its cursor on; at its end it has done its work. -/
def opMove (s : State) (core : Nat) (o : EngOp) (cursor total : Nat) : State :=
  let o1 := { o with cursor := cursor }
  if total ≤ cursor then opDone s core o1 else opSet s core o1

/-- The unit of a copy's destination at its cursor is written with bytes already bound; the last unit of a sector counts the bytes of
the sector that the copy wrote (R64). `lo` is where the copy's bytes begin there. -/
def putUnit (s : State) (core : Nat) (o : EngOp) (va lo m total : Nat) : State :=
  let u := unitRun va m
  match engWrite s core o va (o.buf.take u) with
  | (s1, some bad) => opFault s1 core o bad
  | (s1, none) =>
    opMove (if u = m then countOp s1 o (va + u - max lo (sectorStart va)) else s1) core { o with buf := o.buf.drop u } (o.cursor + u) total

/-- What one step of a copy does: it writes the next unit of a sector whose source bytes, and `need` bytes at least, are bound, or binds
more of its source, which may run ahead; where both can be, either is (R363). A read that runs ahead and meets a fault is not made.
(DESIGN CHOICE: log 23.) -/
def moveUnit (s : State) (core : Nat) (o : EngOp) (va lo room need total : Nat) (read : State → Nat → RunRes) : State :=
  let m := sectorRun va room
  if o.buf.length < max m need then
    let r := read s (o.cursor + o.buf.length)
    match r.bad with
    | some bad => opFault r.st core o bad
    | none => opSet r.st core { o with buf := o.buf ++ r.bytes }
  else if o.buf.length < room then
    let w := drawWord s
    let r := read w.2 (o.cursor + o.buf.length)
    if w.1.getLsbD 0 && r.bad.isNone then opSet r.st core { o with buf := o.buf ++ r.bytes } else putUnit w.2 core o va lo m total
  else putUnit s core o va lo m total

/-- The bytes that a copy binds before it writes its next unit where its destination begins within its source, out of step with its
4-byte units: no byte of the source is overwritten before it is bound, so no unit mixes what stood there with what the copy wrote
(R363). -/
def copyNeed (dst src n cursor : Nat) : Nat :=
  if src < dst ∧ dst < src + n ∧ (dst - src) % 4 ≠ 0 then min (n - cursor) (dst - src + unitRun (dst + cursor) (n - cursor)) else 0

/-- One unit of a plain copy. (DESIGN CHOICE: log 23, DEDUCED: log 77.) -/
def copyStep (s : State) (core : Nat) (o : EngOp) (dst src n : Nat) : State :=
  if n ≤ o.cursor then opDone s core o
  else moveUnit s core o (dst + o.cursor) dst (n - o.cursor) (copyNeed dst src n o.cursor) n
    (fun st at_ => engRead st core o (src + at_) (unitRun (src + at_) (n - at_)))

/-- May the bytes of a tensor and those of a destination overlap out of step with their 4-byte units (R363)? -/
def mixes (t : DescVal) (dst n : Nat) : Bool :=
  decide (dBase t < dst + n) && decide (dst ≤ dLast t) &&
  !(dst % 4 == 0 && dBase t % 4 == 0 && (dType t).width % 32 == 0 && [1, 2, 3].all (fun m => dStride t m % 4 == 0))

/-- The coordinates of the k-th element of a generator, step 0 outermost (R366). -/
def genCoord (steps : List (Nat × Nat × Int)) (run : Nat) (origin : List Int) (k : Nat) : List Int :=
  let r := steps.foldr (fun x (acc : Nat × List Int) =>
      (acc.1 / max 1 x.1,
       (acc.2.zip (List.range 4)).map (fun c => if c.2 = x.2.1 then c.1 + (acc.1 % max 1 x.1 : Nat) * x.2.2 else c.1)))
    (k / max 1 run, origin)
  (r.2.zip (List.range 4)).map (fun c => if c.2 = 0 then c.1 + (k % max 1 run : Nat) else c.1)

/-- Address of an element of a tensor; none where a coordinate lies outside it. -/
def elemAddr (t : DescVal) (co : List Int) : Option Nat :=
  let c (m : Nat) : Int := co.getD m 0
  if [0, 1, 2, 3].all (fun m => decide (0 ≤ c m) && decide (c m < dExt t m)) then
    some (dBase t + (c 0).toNat * ((dType t).width / 8) + (c 1).toNat * dStride t 1 + (c 2).toNat * dStride t 2 +
      (c 3).toNat * dStride t 3)
  else none

/-- How many elements from the k-th on, at most f, lie in one 4-byte unit of memory (R118, R130). -/
def sameUnit (addr : Nat → Option Nat) (esz unit : Nat) : Nat → Nat → Nat
  | 0, _ => 0
  | f + 1, k =>
    match addr k with
    | some a => if a / 4 = unit ∧ (a + esz - 1) / 4 = unit then 1 + sameUnit addr esz unit f (k + 1) else 0
    | none => 0

/-- The elements of a gather from the k-th on, of `n`, whose bytes lie in one source unit: the unit is read once. Zeros outside the tensor
(R366). -/
def gatherElem (s : State) (core : Nat) (o : EngOp) (esz : Nat) (addr : Nat → Option Nat) (k n : Nat) : RunRes :=
  match addr k with
  | none => { st := s, bytes := List.replicate esz 0, bad := none }
  | some a =>
    let c := sameUnit addr esz (a / 4) (min 4 (n - k)) k
    if c ≤ 1 then engRead s core o a esz
    else
      let as := (List.range c).filterMap (fun j => addr (k + j))
      let lo := as.foldl min a
      let r := engRead s core o lo (as.foldl max a + esz - lo)
      { r with bytes := if r.bad.isNone then as.flatMap (fun x => (r.bytes.drop (x - lo)).take esz) else [] }

/-- One unit of a gather. -/
def gatherStep (s : State) (core : Nat) (o : EngOp) (dst n : Nat) (t : DescVal) (steps : List (Nat × Nat × Int)) (run : Nat)
    (origin : List Int) : State :=
  if n ≤ o.cursor then opDone s core o
  else
    let esz := max 1 ((dType t).width / 8)
    moveUnit s core o (dst + o.cursor) dst (n - o.cursor) (if mixes t dst n then n - o.cursor else 0) n
      (fun st at_ => gatherElem st core o esz (fun k => elemAddr t (genCoord steps run origin k)) (at_ / esz) (n / esz))

/-- Bytes of a row of a tile of up to four dimensions that the tensor holds; 0 for a row that is clipped. -/
def tileRowBytes (t : DescVal) (x : Word) (r1 r2 r3 : Nat) : Nat :=
  if coordOf x 1 * dTx t 1 + r1 < dExt t 1 ∧ coordOf x 2 * dTx t 2 + r2 < dExt t 2 ∧ coordOf x 3 * dTx t 3 + r3 < dExt t 3 then
    min (dTx t 0) (dExt t 0 - coordOf x 0 * dTx t 0) * ((dType t).width / 8)
  else 0

/-- Address of the first element of a row of a tile. -/
def tileRowAddr (t : DescVal) (x : Word) (r1 r2 r3 : Nat) : Nat :=
  dBase t + coordOf x 0 * dTx t 0 * ((dType t).width / 8) + (coordOf x 1 * dTx t 1 + r1) * dStride t 1 +
    (coordOf x 2 * dTx t 2 + r2) * dStride t 2 + (coordOf x 3 * dTx t 3 + r3) * dStride t 3

/-- The row of a tile of a tensor that a byte of the whole tile lies in, of `row` bytes: the coordinates of the row. -/
def tileRowOf (x : DescVal) (row at_ : Nat) : Nat × Nat × Nat :=
  let i := at_ / row
  (i % max 1 (dTx x 1), i / max 1 (dTx x 1) % max 1 (dTx x 2), i / max 1 (dTx x 1) / max 1 (dTx x 2))

/-- Source bytes of a tile copy from a byte of the tile on: one unit of the source, zeros where its row is clipped, and zeros that are not
written where the destination's is. -/
def tileRead (core : Nat) (o : EngOp) (x y : DescVal) (sc dc : Word) (row : Nat) (st : State) (at_ : Nat) : RunRes :=
  let r := tileRowOf x row at_
  let p := at_ % row
  let dn := tileRowBytes y dc r.1 r.2.1 r.2.2
  let sn := tileRowBytes x sc r.1 r.2.1 r.2.2
  if p < min sn dn then
    let a := tileRowAddr x sc r.1 r.2.1 r.2.2 + p
    engRead st core o a (unitRun a (min sn dn - p))
  else { st := st, bytes := List.replicate (if p < dn then dn - p else row - p) 0, bad := none }

/-- One unit of a tile copy; the cursor counts the bytes of the whole tile, row by row. -/
def tileStep (s : State) (core : Nat) (o : EngOp) (x y : DescVal) (sc dc : Word) : State :=
  let row := max 1 (dTx x 0 * ((dType x).width / 8))
  let total := row * dTx x 1 * dTx x 2 * dTx x 3
  let b := o.cursor % row
  let r := tileRowOf x row o.cursor
  let dn := tileRowBytes y dc r.1 r.2.1 r.2.2
  if total ≤ o.cursor then opDone s core o
  else if dn ≤ b then opMove s core { o with buf := o.buf.drop (row - b) } (o.cursor + (row - b)) total
  else
    let lo := tileRowAddr y dc r.1 r.2.1 r.2.2
    let need := if mixes x (dBase y) (dLast y + 1 - dBase y) then total - o.cursor else 0
    moveUnit s core o (lo + b) lo (dn - b) need total (tileRead core o x y sc dc row)

/-! ## Peer operations -/

/-- The peer's answer, which the outside gives: none for an acknowledgement, else the code of event kind 4. -/
def peerAnswer (s : State) : Option Nat × State :=
  let w := drawWord s
  (if w.1.toNat % 4 < 3 then some (w.1.toNat % 4) else none, w.2)

/-- The peer-operation event (Table 26.5). -/
def raisePeer (s : State) (core : Nat) (o : EngOp) (dev code : Nat) : State :=
  raiseEvent s o.asid 4 (BitVec.ofNat 64 o.num) (BitVec.ofNat 64 (dev % 2 ^ 16 + core * 2 ^ 16 + code * 2 ^ 36))

/-- Does an earlier release at a fabric level that takes in a device keep a peer-link operation from starting (R120)? -/
def peerHeld (s : State) (core : Nat) (o : EngOp) (dev : Nat) : Bool :=
  o.cursor == 0 && o.buf.isEmpty &&
  releasePending s core false (fun r => decide (r.mark ≤ o.id) && inFabric s r.scope dev)

/-- The number of the next piece or contribution that leaves over a peer link (R482). -/
def nextPeerSeq (s : State) : Nat × State := (s.dev.peerSeq, setDev s { s.dev with peerSeq := s.dev.peerSeq + 1 })

/-- One step of a CPYP: a unit of its source is bound, or a piece, which splits no unit of its destination, leaves with its number and the
peer answers; at a fault or a refusal the operation ends (R118, R368, R482). -/
def peerStep (s : State) (core : Nat) (o : EngOp) (dev dst src n : Nat) : State :=
  if peerHeld s core o dev then s
  else if n ≤ o.cursor then opDone s core o
  else
    let m := min (48 - (dst + o.cursor) % 4) (n - o.cursor)
    if o.buf.length < m then
      let a := src + o.cursor + o.buf.length
      let r := engRead s core o a (unitRun a (n - o.cursor - o.buf.length))
      match r.bad with
      | some bad => opFault r.st core o bad
      | none => opSet r.st core { o with buf := o.buf ++ r.bytes }
    else
      let pas := (peerBinding s o.asid dev).getD 0
      let q := nextPeerSeq s
      let s1 := { q.2 with out := q.2.out ++ [OutMsg.peerWrite q.1 dev pas (dst + o.cursor) (o.buf.take m)] }
      match peerAnswer s1 with
      | (none, s2) => opMove s2 core { o with buf := o.buf.drop m } (o.cursor + m) n
      | (some code, s2) => opDone (raisePeer s2 core o dev code) core o

/-- One contribution of a COLLP; one that the peer drops is reported, and the next follows (R369). -/
def collStep (s : State) (core : Nat) (o : EngOp) (ty : Ty) (dev dst src n sid : Nat) : State :=
  if peerHeld s core o dev then s
  else if n ≤ o.cursor then opDone s core o
  else
    let z := ty.width / 8
    let r := engRead s core o (src + o.cursor * z) z
    match r.bad with
    | some bad => opFault r.st core o bad
    | none =>
      let pas := (peerBinding r.st o.asid dev).getD 0
      let q := nextPeerSeq r.st
      let s1 := { q.2 with out := q.2.out ++ [OutMsg.peerRed q.1 dev pas (dst + o.cursor * z) sid ty r.bytes] }
      match peerAnswer s1 with
      | (none, s2) => opMove s2 core o (o.cursor + 1) n
      | (some code, s2) => opMove (raisePeer s2 core o dev code) core o (o.cursor + 1) n

/-! ## CFILL -/

/-- Rows of a tensor. -/
def tensorRows (t : DescVal) : Nat := dExt t 1 * dExt t 2 * dExt t 3

/-- First address and bytes of a run that CFILL covers: a row, or past the rows the superblock records of a GQ4 tensor. -/
def fillRun (t : DescVal) (r : Nat) : Nat × Nat :=
  if r < tensorRows t then
    (dBase t + r % max 1 (dExt t 1) * dStride t 1 + r / max 1 (dExt t 1) % max 1 (dExt t 2) * dStride t 2 +
       r / max 1 (dExt t 1) / max 1 (dExt t 2) * dStride t 3, rowBytes (dType t) (dExt t 0))
  else (dSbase t, 272 * ((dExt t 0 * tensorRows t / 64 + 255) / 256))

/-- Runs that CFILL covers. -/
def fillRuns (t : DescVal) : Nat := tensorRows t + if dType t == .gq4 then 1 else 0

/-- Was a line of a run covered with a run before it? -/
def fillSeen (t : DescVal) (r line : Nat) : Bool :=
  (List.range r).any (fun j =>
    let p := fillRun t j
    decide (p.1 < line + lineLen line) && decide (line < p.1 + p.2))

/-- One line filled in a class: false where it is dropped (R92, R453), none where it must wait at its home. -/
def fillLine (s : State) (core : Nat) (o : EngOp) (cls : FillCls) (va : Nat) : State × Option Bool :=
  let q := { engReq s core o with r := true, ch := fillHint cls }
  let blk := homeOf s q.asid va
  match translateFor s blk q va with
  | (s1, none) => (s1, none)
  | (s1, some (.error _)) => (s1, some false)
  | (s1, some (.ok e)) =>
    let pa := physOf e va
    if isRim pa || !granted s1.dev blk (masterOf s1 q.asid) false then (s1, some false)
    else if lineBusy s1 blk pa then (s1, none)
    else
      let r := ensureLine (restoreDue s1 blk (lineBase pa)) blk q va pa 0xF
      (r.1, some r.2)

/-- The status or count word of a cache command, then its end (R370). -/
def endCommand (s : State) (core : Nat) (o : EngOp) (at_ : Option Nat) (code : Nat) : State :=
  match at_ with
  | none => opDone s core o
  | some a =>
    match engWrite s core o a (leBytes 4 code) with
    | (s1, some bad) => opFault s1 core { o with phase := 1, count := code } bad
    | (s1, none) => opDone s1 core o

/-- One line of a CFILL; the cursor is the run, and `acks` the bytes of it that are covered. -/
def fillStep (s : State) (core : Nat) (o : EngOp) (cls : FillCls) (t : DescVal) (at_ : Option Nat) : State :=
  if fillRuns t ≤ o.cursor then endCommand s core o at_ o.count
  else
    let r := fillRun t o.cursor
    let va := r.1 + o.acks
    if r.2 ≤ o.acks then opSet s core { o with cursor := o.cursor + 1, acks := 0 }
    else
      let next := lineBase va + lineLen (lineBase va) - r.1
      if fillSeen t o.cursor (lineBase va) then opSet s core { o with acks := next }
      else match fillLine s core o cls (lineBase va) with
        | (s1, some true) => opSet s1 core { o with acks := next }
        | (s1, some false) => opSet s1 core { o with acks := next, count := o.count + 1 }
        | (s1, none) => s1

/-! ## CPIN, CUNPIN -/

/-- Lines that a pin charges (R90). -/
def pinCharge (size : Nat) : Nat := 342 * (size / 65536)

/-- Lines of a window that a block homes. -/
def windowShare (w : PWin) (blk : Nat) : Nat :=
  match listFind (fun b => b == blk) w.blocks 0 with
  | none => 0
  | some (k, _) => (pinCharge w.size + w.blocks.length - 1 - k) / max 1 w.blocks.length

/-- Lines that the pinned windows of every context home in a block. -/
def pinnedIn (s : State) (blk : Nat) : Nat :=
  s.ctxs.foldl (fun n c => (c.2.windows.filter (·.pinned)).foldl (fun m w => m + windowShare w blk) n) 0

/-- The status of a CPIN (Table 17.3). A window that is already pinned stays so. -/
def pinStatus (s : State) (c : Context) (base : Nat) : Nat :=
  match c.windows.find? (fun w => w.base == base) with
  | none => 3
  | some w =>
    if !w.pin then 3
    else if w.pinned then 0
    else if c.tab.pinlim < c.pinUsed + pinCharge w.size then 1
    else if w.blocks.any (fun b => decide (cacheLines (blockAt s b) < 2 * (pinnedIn s b + windowShare w b))) then 2
    else 0

/-- The state with the pinned flag of a window changed and its charge accounted. -/
def setPinned (s : State) (asid base : Nat) (on : Bool) : State :=
  match ctxOf s asid with
  | none => s
  | some c =>
    match c.windows.find? (fun w => w.base == base && w.pinned != on) with
    | none => s
    | some w =>
      setCtx s asid { c with
        windows := c.windows.map (fun x => if x.base = base then { x with pinned := on } else x)
        pinUsed := if on then c.pinUsed + pinCharge w.size else c.pinUsed - pinCharge w.size }

/-- The frames of 64 KiB that the pages of a range of a context map to. -/
def framesOf (s : State) (asid base size : Nat) : List Nat :=
  let root := ((ctxOf s asid).map (·.tab.ptroot)).getD 0
  (List.range (size / 65536)).filterMap (fun k =>
    let va := base + 65536 * k
    match walkFrom s.mem asid va [1, 2, 3, 4] root false [] with
    | .leaf e _ _ => some (physOf e va)
    | .fault _ => none)

/-- Is a line of a slice one of a range of a context: under the address that it came in with, or under the pages of the range? -/
def lineOfRange (frames : List Nat) (asid base size : Nat) (l : Nat × SliceLine) : Bool :=
  (l.2.asid == asid && decide (base ≤ l.2.va) && decide (l.2.va < base + size)) ||
  frames.any (fun f => decide (f ≤ l.1) && decide (l.1 < f + 65536))

/-- The pinned lines of a window return to normal (R90), and its sets keep to their ways (R88). -/
def unpinLines (s : State) (asid : Nat) (w : PWin) : State :=
  let frames := framesOf s asid w.base w.size
  w.blocks.foldl (fun st blk =>
    let b := blockAt st blk
    trimSets (setBlock st blk { b with lines := b.lines.map (fun l =>
      if l.2.cls = .pinned ∧ lineOfRange frames asid w.base w.size l = true then (l.1, { l.2 with cls := .normal }) else l) }) blk) s

/-- A CPIN does its work. -/
def pinStep (s : State) (core : Nat) (o : EngOp) (base : Nat) (at_ : Option Nat) : State :=
  if o.phase = 1 then endCommand s core o at_ o.count
  else match ctxOf s o.asid with
  | none => opDone s core o
  | some c =>
    let code := pinStatus s c base
    endCommand (if code = 0 then setPinned s o.asid base true else s) core o at_ code

/-- A CUNPIN does its work. -/
def unpinStep (s : State) (core : Nat) (o : EngOp) (base : Nat) (at_ : Option Nat) : State :=
  if o.phase = 1 then endCommand s core o at_ o.count
  else match (ctxOf s o.asid).bind (fun c => c.windows.find? (fun w => w.base == base && w.pinned)) with
  | none => endCommand s core o at_ 3
  | some w => endCommand (unpinLines (setPinned s o.asid base false) o.asid w) core o at_ 0

/-! ## Placement windows (R86, R87, R373) -/

/-- The window of operands. -/
def windowFrom (base size : Nat) (blocks : Word) (pin : Bool) : PWin :=
  { base := base, size := size, br0 := field blocks 7 0, bc0 := field blocks 15 8, br1 := field blocks 23 16
    bc1 := field blocks 31 24, pin := pin, pinned := false }

/-- Do two windows overlap? -/
def PWin.overlaps (a b : PWin) : Bool := decide (a.base < b.base + b.size) && decide (b.base < a.base + a.size)

/-- The status of a window that is set (Table 17.3). (DEDUCED: log 52.) -/
def winSetStatus (s : State) (c : Context) (w : PWin) : Nat :=
  let others := c.windows.filter (fun x => x.base != w.base)
  if c.windows.any (fun x => x.base == w.base && x.pinned) then 4
  else if others.any (fun x => x.overlaps w) then 5
  else if 16 ≤ others.length then 6
  else if w.blocks.any (fun b => (blockAt s b).wdn) then 7
  else 0

/-- The status of a window that is cleared. (DEDUCED: log 52.) -/
def winClrStatus (c : Context) (base : Nat) : Nat :=
  match c.windows.find? (fun x => x.base == base) with
  | none => 3
  | some w => if w.pinned then 4 else 0

/-- The lines of a context in a range leave every slice (R87 step 1). -/
def flushRange (s : State) (asid base size : Nat) : State :=
  let frames := framesOf s asid base size
  s.blocks.foldl (fun st bk =>
    ((blockAt st bk.1).lines.filter (lineOfRange frames asid base size)).foldl (fun st2 l => dropLine st2 bk.1 l.1) st) s

/-- Is an access of a context to a range under way, issued and not yet performed: its home is the one from before the change (R87)? -/
def inFlight (s : State) (asid base size : Nat) : Bool :=
  s.net.any (fun a => a.asid == asid && !a.isKey && decide (a.va < base + size) && decide (base < a.va + a.n) &&
    (match a.stage with
      | .queued => true
      | .walking => true
      | .filling _ _ => true
      | _ => false))

/-- The shadow entries of lines of a context in a range go to the lines' homes as they now are (R136). -/
def handOver (s : State) (asid base size : Nat) : State :=
  let mine (x : ShadowLine) : Bool := x.asid == asid && decide (base ≤ x.va) && decide (x.va < base + size)
  let xs := (s.blocks.map (fun bk => (bk.2.shadow.filter mine))).flatten
  let s1 := s.blocks.foldl (fun st bk =>
    setBlock st bk.1 { blockAt st bk.1 with shadow := (blockAt st bk.1).shadow.filter (fun x => !mine x) }) s
  xs.foldl (fun st x =>
    let blk := homeOf st x.asid x.va
    setBlock st blk ((blockAt st blk).putShadow x)) s1

/-- A change of the window table carried out: old homes write back, then the new homes apply, with the shadow entries (R136) and the
reduction targets (R178) of the lines. -/
def changeWindow (s : State) (asid base : Nat) (new : Option PWin) : State :=
  match ctxOf s asid with
  | none => s
  | some c =>
    let ws := c.windows.filter (fun x => x.base == base) ++ new.toList
    let s1 := ws.foldl (fun st w => flushRange st asid w.base w.size) s
    match ctxOf s1 asid with
    | none => s1
    | some c1 =>
      let s2 := ws.foldl (fun st w => handOver st asid w.base w.size)
        (setCtx s1 asid { c1 with windows := c1.windows.filter (fun x => x.base != base) ++ new.toList })
      (s2.blocks.map (·.1)).foldl (rehomeXa asid) s2

/-- The accesses of a context to the lines that a change of its window table affects, issued before it and not performed (R87). -/
def changeWaits (s : State) (asid base : Nat) (new : Option PWin) : Bool :=
  match ctxOf s asid with
  | none => false
  | some c => (c.windows.filter (fun x => x.base == base) ++ new.toList).any (fun w => inFlight s asid w.base w.size)

/-- The gated blocks of a window, which wake before it takes effect (R86). -/
def gatedOf (s : State) (w : PWin) : List Nat := w.blocks.filter (fun b => (blockAt s b).gated)

/-- Every block of a list is asked to wake, unless it is waking. -/
def askWake (s : State) (bs : List Nat) : State := bs.foldl (fun st b => wakeFor st b none) s

/-- A window operation of a core does its work (row WINDOW_CHANGE_COMPLETE). -/
def windowStep (s : State) (core : Nat) (o : EngOp) : State :=
  match o.op, ctxOf s o.asid with
  | .winSet base size blocks pin at_, some c =>
    let w := windowFrom base size blocks pin
    if o.phase = 1 then endCommand s core o at_ o.count
    else
      let code := winSetStatus s c w
      if code ≠ 0 then endCommand s core o at_ code
      else match gatedOf s w with
        | [] => if changeWaits s o.asid base (some w) then s else endCommand (changeWindow s o.asid base (some w)) core o at_ 0
        | bs => askWake s bs
  | .winClr base at_, some c =>
    if o.phase = 1 then endCommand s core o at_ o.count
    else
      let code := winClrStatus c base
      if code = 0 ∧ changeWaits s o.asid base none = true then s
      else endCommand (if code = 0 then changeWindow s o.asid base none else s) core o at_ code
  | _, _ => s

/-- Is an operation a window change of a base? -/
def isWindowOp (asid base : Nat) (o : EngOp) : Bool :=
  o.asid == asid && o.phase != phaseDone && !o.stopped &&
  (match o.op with
    | .winSet b _ _ _ _ => b == base
    | .winClr b _ => b == base
    | _ => false)

/-! ## The steps -/

/-- Work that a core's engines do for an operation, one unit of it. -/
def opStep (s : State) (core : Nat) (o : EngOp) : State :=
  match o.op with
  | .copy dst src n => copyStep s core o dst src n
  | .gather dst n t steps run origin => gatherStep s core o dst n t steps run origin
  | .tile x y sc dc => tileStep s core o x y sc dc
  | .peer dev dst src n => peerStep s core o dev dst src n
  | .coll ty dev dst src n sid => collStep s core o ty dev dst src n sid
  | .fill cls t at_ => fillStep s core o cls t at_
  | .pin base at_ => pinStep s core o base at_
  | .unpin base at_ => unpinStep s core o base at_
  | _ => s

/-- Is an operation one that its core's engines work on, sector by sector? -/
def sectorOp (o : EngOp) : Bool :=
  match o.op with
  | .copy _ _ _ => true
  | .gather _ _ _ _ _ _ => true
  | .tile _ _ _ _ => true
  | .peer _ _ _ _ => true
  | .coll _ _ _ _ _ _ => true
  | .fill _ _ _ => true
  | .pin _ _ => true
  | .unpin _ _ => true
  | _ => false

/-- May the engines of a core act? A debug halt does not stop them (R426). -/
def enginesRun (k : Core) : Bool := k.powered && !k.stopped && !k.contained

/-- COPY_SECTOR_PERFORMED (R363): one unit of an operation, the sector of a copy. (DESIGN CHOICE: log 23, DESIGN CHOICE: log 65.) -/
def execCopySectorPerformed (core op : Nat) (s : State) : Host.Outcome State Fault Refusal :=
  .next (match opFind s core op with
    | none => s
    | some o =>
      if enginesRun (coreOf s core) && sectorOp o && !o.stopped && o.phase != phaseDone then opStep s core o else s)

/-- ENGINE_FAULT (R453): not-present and the other causes that are held stop the operation, with one event; any other ends
it. -/
def execEngineFault (core op : Nat) (cause : BitVec 16) (va : Word) (s : State) : Host.Outcome State Fault Refusal :=
  .next (match opFind s core op with
    | none => s
    | some o =>
      if engineRetries cause then
        if o.raised || engineQuiet cause then s
        else opSet (raiseEngine s o.asid core o.tl o.num cause va.toNat) core { o with raised := true }
      else opDone (raiseEngine s o.asid core o.tl o.num cause va.toNat) core { o with stopped := false })

/-- The stopped operations of a core that a trigger retries (R453). -/
def retryOps (t : Trigger) (s : State) (core : Nat) : State :=
  let k := coreOf s core
  setCore s core { k with ops := k.ops.map (fun o => if o.stopped && t.retries o.why core then { o with stopped := false } else o) }

/-! ## What is enabled -/

/-- The steps of a core's engines and of its movement queue. -/
def enabledEngine (s : State) (core : Nat) : List Ev :=
  let k := coreOf s core
  (if routineReady k then [Ev.routineStart core] else []) ++
  (if enginesRun k then
     (k.ops.filter (fun o => sectorOp o && !o.stopped && o.phase != phaseDone)).map (fun o => Ev.copySectorPerformed core o.id) ++
     k.ops.filterMap (fun o =>
       if o.stopped || o.phase == phaseDone then none
       else match o.op with
         | .winSet b _ _ _ _ => some (Ev.windowChangeComplete o.asid b)
         | .winClr b _ => some (Ev.windowChangeComplete o.asid b)
         | _ => none)
   else [])

end Sys2Proof.Machine
end

