-- ==== Sys2Proof/Machine/Walk.lean ====
section
/-!
DEFINITION. A walk as data: its record, points and coordinates (R147, R150), when it is over (R159), and its visit trace
(R161).
-/

namespace Sys2Proof.Machine

/-! ## The walk -/

/-- A walk of a context. -/
def walkOf (s : State) (asid wid : Nat) : Option Walk := (ctxOf s asid).bind (fun c => mapGet c.walks wid)

/-- The state with a walk changed. -/
def setWalk (s : State) (asid wid : Nat) (w : Walk) : State :=
  match ctxOf s asid with
  | some c => setCtx s asid { c with walks := mapSet c.walks wid w }
  | none => s

/-- A word of a walk's record. -/
def Walk.word (w : Walk) (j : Nat) : Word := w.record.getD j 0

/-- An extent of a walk. -/
def Walk.ext (w : Walk) (m : Nat) : Nat := field (w.word 0) (16 * m + 15) (16 * m)

/-- The number of points of a walk. -/
def Walk.points (w : Walk) : Nat := w.ext 0 * w.ext 1 * w.ext 2

/-- The coordinate of a point (R34, R150). -/
def Walk.coord (w : Walk) (p : Nat) : Word :=
  let e0 := max 1 (w.ext 0)
  let e1 := max 1 (w.ext 1)
  BitVec.ofNat 64 (p % e0 + p / e0 % e1 * 2 ^ 16 + p / e0 / e1 * 2 ^ 32)

/-! ## The record (Tables 8.1 and 8.2) -/

/-- Dimensions of a walk. -/
def Walk.ndim (w : Walk) : Nat := field (w.word 0) 50 49
/-- Declared tiles of each point. -/
def Walk.ntile (w : Walk) : Nat := field (w.word 0) 53 51
/-- Skip bound S. -/
def Walk.skipBound (w : Walk) : Nat := let n := field (w.word 3) 7 0; if n = 0 then 8 else n
/-- Age bound A in ticks. -/
def Walk.ageBound (w : Walk) : Nat := let n := field (w.word 3) 63 32; if n = 0 then 100000 else n
/-- Trace capacity in records. -/
def Walk.tcap (w : Walk) : Nat := field (w.word 6) 31 0
/-- A tile declaration, 128 bits. -/
def Walk.decl (w : Walk) (j : Nat) : Nat := (w.word (8 + 2 * j)).toNat + (w.word (9 + 2 * j)).toNat * 2 ^ 64

/-- A coordinate field of a declaration, 24 bits. -/
def declCd (d m : Nat) : Nat := d / 2 ^ (32 + 24 * m) % 2 ^ 24
/-- The index that a coordinate field selects: 0 for none. -/
def cdSel (cd : Nat) : Nat := cd % 4
/-- The signed multiplier of a coordinate field. -/
def cdMul (cd : Nat) : Int := let n := cd / 4 % 64; if n < 32 then n else (n : Int) - 64
/-- The signed offset of a coordinate field. -/
def cdOff (cd : Nat) : Int := int16 (cd / 256)

/-- c_m for a value of the selected index (R148). -/
def cdAt (cd i : Nat) : Int := if cdSel cd = 0 then cdOff cd else cdMul cd * (i : Int) + cdOff cd

/-- An index of a point. -/
def Walk.index (w : Walk) (p d : Nat) : Nat := field (w.coord p) (16 * d + 15) (16 * d)

/-- The coordinates of a declared tile for a point. -/
def Walk.tileCoords (w : Walk) (j p : Nat) : List Nat :=
  (List.range 4).map (fun m =>
    let cd := declCd (w.decl j) m
    (cdAt cd (w.index p (cdSel cd - 1))).toNat)

/-- Runs of bytes of a tile of a tensor, row by row: address and length, clipped to the extents (R148). -/
def tileSpans (e : DescVal) (c : List Nat) : List (Nat × Nat) :=
  let first (m : Nat) : Nat := c.getD m 0 * dTx e m
  let rows (m : Nat) : Nat := min (dTx e m) (dExt e m - first m)
  let w := (dType e).width
  let b0 := first 0 * w
  (List.range (rows 1 * rows 2 * rows 3)).map (fun r =>
    (dBase e + b0 / 8 + (first 1 + r % rows 1) * dStride e 1 + (first 2 + r / rows 1 % rows 2) * dStride e 2 +
       (first 3 + r / rows 1 / rows 2) * dStride e 3,
     (b0 % 8 + rows 0 * w + 7) / 8))

/-- The lines of a declared tile of a point. (DEDUCED: log 47.) -/
def Walk.tileLines (w : Walk) (j p : Nat) : List Nat :=
  (((tileSpans (w.descs.getD j 0) (w.tileCoords j p)).map (fun x => linesOf x.1 x.2)).flatten).eraseDups

/-- The lines that a point declares. -/
def Walk.lines (w : Walk) (p : Nat) : List Nat := (((List.range w.ntile).map (fun j => w.tileLines j p)).flatten).eraseDups

/-! ## Residency (R153) and leases (R157) -/

/-- A query, a fill or a trace read of a Weevil: it needs R and U (R99), and is checked against the block of the core that started it, for a
walk the one that opened it (R98). (DESIGN CHOICE: log 80.) -/
def weevilReq (asid core : Nat) (priv : Bool) (ch : BitVec 3) : Req :=
  { asid := asid, priv := priv, blk := some (blockOf core), ch := ch, r := true, w := false, x := false, hive := false }

/-- Home block and physical base of a line, as its table stands; none for a line that has no home or fails the checks of a query. -/
def linePlace (s : State) (q : Req) (va : Nat) : Option (Nat × Nat) :=
  if isAperture va then none
  else match walkFrom s.mem q.asid va [1, 2, 3, 4] (((ctxOf s q.asid).map (·.tab.ptroot)).getD 0) false [] with
    | .fault _ => none
    | .leaf e _ _ => if (permFault e q).isSome then none else some (homeOf s q.asid va, lineBase (physOf e va))

/-- Is a line present at its home? -/
def lineThere (s : State) (q : Req) (va : Nat) : Bool :=
  match linePlace s q va with
  | none => false
  | some p => (mapGet (blockAt s p.1).lines p.2).isSome

/-- Is a declared tile of a point resident: all its lines are present at their homes? (DEDUCED: log 47.) -/
def tileResident (s : State) (q : Req) (w : Walk) (j p : Nat) : Bool := (w.tileLines j p).all (lineThere s q)

/-- Does a line hold a lease for a point that has not expired? -/
def lineLeased (s : State) (q : Req) (wid p va : Nat) : Bool :=
  match linePlace s q va with
  | none => false
  | some x => (mapGet (blockAt s x.1).lines x.2).any (fun ln =>
      ln.leases.any (fun l => l.of (q.asid, wid, p) && decide (s.dev.time < l.until_)))

/-- The lines that a bound point still waits for: those whose fill is under way, and those whose lease has ended (R37, R156); none once
it starts without them (R466). -/
def missingLines (s : State) (q : Req) (wid : Nat) (w : Walk) (p : Nat) : List Nat :=
  if w.given.contains p then []
  else
    let fills := (mapGet w.awaiting p).getD []
    fills ++ (w.lines p).filter (fun l => !fills.contains l && !lineLeased s q wid p l)

/-! ## When a walk is over -/

/-- Is every point of a walk DONE or abandoned, and every epilogue ended (R159)? -/
def walkOver (w : Walk) : Bool :=
  w.epilogue && w.attached == 0 && decide (w.points ≤ w.cursor) && w.traceHeld.isEmpty &&
  w.pts.all (fun p => p.2 == .done || p.2 == .abandoned)

/-- The WVOPEN operation of a walk that is over has done its work (R159). -/
def checkWalk (s : State) (asid wid : Nat) : State :=
  match walkOf s asid wid with
  | some w => if walkOver w then workDone s w.core (fun o => o.asid == asid && o.op == .walkOpen wid) else s
  | none => s

/-! ## The visit trace (R161) -/

/-- Mode of a walk: 0 normal, 1 record, 2 replay. -/
def Walk.mode (w : Walk) : Nat := field (w.word 0) 55 54

/-- The two words of a visit trace record (Table 8.4). -/
def visitWords (s : State) (p core : Nat) : Word × Word :=
  (BitVec.ofNat 64 (p % 2 ^ 48 + core % 2 ^ 16 * 2 ^ 48),
   BitVec.ofNat 64 (s.dev.time % 2 ^ 60 * 16 + core / 2 ^ 16 % 16))

/-- One record written at its home for the core that opened the walk. A write that meets not-present or a refused push is held, and so
is one that its home cannot take yet; one that meets another cause is dropped and counted. A held record raises no second event for
the cause that goes on holding it. (DESIGN CHOICE: log 80.) -/
def visitWrite (s : State) (asid wid : Nat) (w : Walk) (r : HeldVisit) : State :=
  let q := { coreReq s w.core w.priv 0 with asid := asid, w := true, who := some (.visit asid wid) }
  let keep (st : State) (r1 : HeldVisit) : State :=
    match walkOf st asid wid with
    | none => st
    | some w1 => setWalk st asid wid { w1 with traceHeld := w1.traceHeld ++ [r1] }
  match engineWrite s w.core true q r.addr (leBytes 8 r.lo.toNat ++ leBytes 8 r.hi.toNat) with
  | (s1, .bytes _) => s1
  | (s1, .wait) => keep s1 { r with why := 0 }
  | (s1, .fault c) =>
    let s2 := if engineQuiet c || (engineRetries c && r.raised) then s1 else raiseEngine s1 asid w.core 5 w.num c r.addr
    if engineRetries c then keep s2 { r with why := c, raised := r.raised || !engineQuiet c }
    else match walkOf s2 asid wid with
      | none => s2
      | some w2 => setWalk s2 asid wid { w2 with traceLost := w2.traceLost + 1 }

/-- The record of a binding in record mode; one beyond the capacity is counted. -/
def visitRecord (s : State) (asid wid p core : Nat) : State :=
  match walkOf s asid wid with
  | none => s
  | some w =>
    if w.mode ≠ 1 then s
    else if w.tcap ≤ w.traceN then setWalk s asid wid { w with traceLost := w.traceLost + 1 }
    else
      let v := visitWords s p core
      visitWrite (setWalk s asid wid { w with traceN := w.traceN + 1 }) asid wid w
        { addr := (w.word 5).toNat + 16 * w.traceN, lo := v.1, hi := v.2, why := 0, raised := false }

/-- The held records of a walk that satisfy a test are written again (R453). -/
def retryVisits (s : State) (asid wid : Nat) (test : Walk → HeldVisit → Bool) : State :=
  match walkOf s asid wid with
  | none => s
  | some w =>
    if !w.traceHeld.any (test w) then s
    else checkWalk ((w.traceHeld.filter (test w)).foldl (fun st r => visitWrite st asid wid w r)
      (setWalk s asid wid { w with traceHeld := w.traceHeld.filter (fun r => !test w r) })) asid wid

/-- A replayed trace that a page held goes on where a trigger retries its read (R453). -/
def retryReplay (t : Trigger) (s : State) (asid wid : Nat) : State :=
  match walkOf s asid wid with
  | none => s
  | some w =>
    if w.traceStop.isSome && t.retries causeNotPresent w.core then setWalk s asid wid { w with traceStop := none } else s

/-- The held records of a context's walks that a trigger retries are written again, and the held reads made again (R161, R162, R453,
R464). -/
def retryTraces (t : Trigger) (s : State) (asid : Nat) : State :=
  match ctxOf s asid with
  | none => s
  | some c => c.walks.foldl (fun st w =>
      retryVisits (retryReplay t st asid w.1) asid w.1 (fun x r => t.retries r.why x.core || r.why == 0)) s

/-- The records that a home could not take are written again, once something that they wait for has ended. -/
def retryWaiting (s : State) : State :=
  s.ctxs.foldl (fun st c => c.2.walks.foldl (fun st2 w => retryVisits st2 c.1 w.1 (fun _ r => r.why == 0)) st) s

end Sys2Proof.Machine
end

