-- ==== Sys2Proof/Machine/Snapshot.lean ====
section
/-!
DEFINITION. Snapshots (R132 to R146, R377 to R379): the instructions, and an operation applied at the agent of a block.
-/

namespace Sys2Proof.Machine

/-! ## Instructions -/

/-- The ranges of a list read from memory. -/
def rangesOf (bs : List Byte) (n : Nat) : List (Nat × Nat) :=
  (List.range n).map (fun j => ((recWord bs (2 * j)).toNat, (recWord bs (2 * j + 1)).toNat))

/-- May a range belong to a level (R133)? -/
def rangeOk (r : Nat × Nat) : Bool :=
  r.1 % 65536 == 0 && r.2 % 65536 == 0 && r.2 != 0 && decide (r.1 + r.2 ≤ 15 * 2 ^ 52)

/-- Do no two ranges of a list overlap? -/
def rangesApart : List (Nat × Nat) → Bool
  | [] => true
  | r :: rs => rs.all (fun q => !(decide (r.1 < q.1 + q.2) && decide (q.1 < r.1 + r.2))) && rangesApart rs

/-- Contexts other than one that hold open levels (R136). -/
def otherLevels (s : State) (asid : Nat) : Nat := (s.ctxs.filter (fun c => c.1 != asid && !c.2.levels.isEmpty)).length

/-- May SNOPEN open a level over ranges (R133)? -/
def snopenOk (s : State) (rs : List (Nat × Nat)) : Bool :=
  rs.all rangeOk && rangesApart rs && (myCtx s).any (fun c => decide (c.levels.length < 8)) &&
  decide (otherLevels s (myAsid s) < 64)

/-- A snapshot operation takes the next G with the stack it leaves, and joins tl4 (R132, R134). -/
def issueSnap (kind : Nat) (levels : List Level) (d : XReg) (ch : BitVec 3) (s : State) : Res :=
  match myCtx s with
  | none => .trap causeSnapshot 0
  | some c =>
    let g := c.snapG + 1
    match joinTl 4 ch d (.snap g) none s with
    | .done s1 =>
      .done (setCtx s1 (myAsid s) { c with
        snapG := g, levels := levels, snapOps := c.snapOps ++ [(g, kind, 0, s.me)], snapLevels := mapSet c.snapLevels g levels })
    | r => r

/-- The effect of SNOPEN once its list has come. -/
def snopenWith (d b : XReg) (ch : BitVec 3) (s : State) (bs : List Byte) : Res :=
  let rs := rangesOf bs (xget s b).toNat
  match myCtx s with
  | none => .trap causeSnapshot 0
  | some c => if snopenOk s rs then issueSnap 0 (c.levels ++ [⟨c.snapG + 1, rs⟩]) d ch s else .trap causeSnapshot 0

/-- SNOPEN (R377). -/
def execSnopen (h : Hdr) (d a b : XReg) (s : State) : Host.Outcome State Fault Refusal :=
  issue infoM h { xr := [a, b], xw := [d] } (fun s =>
    let n := (xget s b).toNat
    checked (firstOf [memOperand (decide (n = 0) || decide (4 < n)) 0, memOperand ((xget s a).toNat % 16 != 0) (xget s a),
        checkRange s (xget s a) (16 * n)])
      (routineGate s (readRecord 0 (xget s a) (16 * n) s (snopenWith d b 0 s)))) s

/-- The effect of SNACC and SNREJ: the innermost level ends. -/
def endLevel (kind : Nat) (d : XReg) (s : State) : Res :=
  match myCtx s with
  | none => .trap causeSnapshot 0
  | some c => if c.levels.isEmpty then .trap causeSnapshot 0 else issueSnap kind c.levels.dropLast d 0 s

/-- SNACC (R378). -/
def execSnacc (h : Hdr) (d : XReg) (s : State) : Host.Outcome State Fault Refusal := issue infoM h { xw := [d] } (endLevel 1 d) s

/-- SNREJ. -/
def execSnrej (h : Hdr) (d : XReg) (s : State) : Host.Outcome State Fault Refusal := issue infoM h { xw := [d] } (endLevel 2 d) s

/-- Lines of a context whose top entry has a level. -/
def topCount (s : State) (asid lvl : Nat) : Nat :=
  s.blocks.foldl (fun n b => n + (b.2.shadow.filter (fun x => x.asid == asid && (x.e.head?).any (fun e => e.lvl == lvl))).length) 0

/-- The 128 bytes of SNQRY (Table 17.4) for a level. -/
def snqryBytes (s : State) (asid : Nat) (c : Context) (named : Nat) : List Byte :=
  let k := if named = 0 then c.levels.length else named
  let rec_ : List Byte := match (if k = 0 then none else c.levels[k - 1]?) with
    | none => List.replicate 0x50 0
    | some l =>
      let ranges := ((List.range 4).map (fun j => match l.ranges[j]? with
        | some r => leBytes 8 r.1 ++ leBytes 8 r.2
        | none => List.replicate 16 0)).flatten
      leBytes 8 l.og ++ leBytes 8 l.ranges.length ++ ranges
  rec_ ++ List.replicate 16 0 ++ leBytes 8 (c.shUsed % 2 ^ 32 * 2 ^ 32 + c.tab.shlim % 2 ^ 32) ++ leBytes 8 c.levels.length ++
    leBytes 8 (topCount s asid k) ++ List.replicate 8 0

/-- The effect of SNQRY (R379): the record is stored, and the thread is held until it is performed. -/
def snqryRes (a b : XReg) (ch : BitVec 3) (s : State) : Res :=
  let va := xget s a
  let n := (xget s b).toNat
  checked (firstOf [memOperand (decide (8 < n)) 0, memOperand (va.toNat % 64 != 0) va, checkRange s va 128])
    (routineGate s (
      if !(thr s).got.isEmpty then
        if (accsOf s s.me s.onMt).any (fun x => x.op.writes && decide ((thr s).seq ≤ x.seq + 1) && !x.performed) then .wait
        else .done s
      else if !storeRoom s then .wait
      else match myCtx s with
        | none => .trap causeSnapshot 0
        | some c =>
          let s1 := storeRange s ch va.toNat (snqryBytes s (myAsid s) c n) none
          .again (setThr s1 { thr s1 with got := [1] })))

/-- SNQRY. -/
def execSnqry (h : Hdr) (a b : XReg) (s : State) : Host.Outcome State Fault Refusal :=
  issue infoM h { xr := [a, b] } (snqryRes a b 0) s

/-! ## An operation at an agent (R138, R139, R142) -/

/-- What an agent has applied for a context. -/
def viewOf (b : Block) (asid : Nat) : SnapView :=
  (b.snapViews.find? (fun v => v.asid == asid)).getD { asid := asid, applied := 0, levels := [] }

/-- The block with an agent's view replaced. -/
def Block.putView (b : Block) (v : SnapView) : Block :=
  { b with snapViews := b.snapViews.filter (fun x => x.asid != v.asid) ++ [v] }

/-- The entries of level d of a line discarded, with their number (R138). -/
def acceptLine (d : Nat) (x : ShadowLine) : ShadowLine × Nat :=
  let keep := x.e.filter (fun e => e.lvl != d)
  ({ x with e := keep }, x.e.length - keep.length)

/-- Was a line written during a level through an address of its ranges (R136, R139)? -/
def ShadowLine.writtenIn (x : ShadowLine) (lv : Level) : Bool := x.vas.any (fun p => inRanges p.1 lv.ranges && decide (lv.og ≤ p.2))

/-- The line with the value its top entry holds due, and with its lw; no write made since counts any more. -/
def ShadowLine.goBack (x : ShadowLine) : ShadowLine :=
  match x.e with
  | [] => x
  | e :: _ => { x with restore := some e.data, lw := e.lwb, vas := x.vas.map (fun p => (p.1, min p.2 e.lwb)) }

/-- A line restored, lazily, to its value at the open of level d (R139, R140). The level's own entries go, also one that an inner
level's reject left shared: no open level holds its line by it any more (R135). -/
def rejectLine (d : Nat) (lv : Level) (x : ShadowLine) : ShadowLine × Nat :=
  acceptLine d (if x.writtenIn lv then x.goBack else x)

/-- Every line of a context at a block changed by an operation, with the entries it discards. -/
def overLines (b : Block) (asid : Nat) (f : ShadowLine → ShadowLine × Nat) : Block × Nat :=
  let rs := b.shadow.map (fun x => if x.asid = asid then f x else (x, 0))
  ({ b with shadow := rs.map (·.1) }, (rs.map (·.2)).foldl (· + ·) 0)

/-- The restores that a context's lines at a block await, whichever context asked for them, are carried out before an accept or a
reject (R144). -/
def settleRestores (s : State) (blk asid : Nat) : State :=
  ((blockAt s blk).shadow.filter (fun x => x.asid == asid)).foldl (fun st x => restoreDue st blk x.pa) s

/-- An operation of a context, by its G: kind, acknowledgements, issuing core. -/
def snapOp (c : Context) (g : Nat) : Option (Nat × Nat × Nat) := (c.snapOps.find? (fun o => o.1 == g)).map (·.2)

/-- The context after an acknowledgement that discarded n entries; the last one refunds them all (R137). -/
def ackSnap (c : Context) (g n : Nat) : Context :=
  let got := (mapGet c.refunds g).getD 0 + n
  let c1 := { c with
    snapOps := c.snapOps.map (fun o => if o.1 = g then (o.1, o.2.1, o.2.2.1 + 1, o.2.2.2) else o)
    refunds := mapSet c.refunds g got }
  match snapOp c1 g with
  | some (_, 256, _) => { c1 with shUsed := c1.shUsed - got, refunds := mapErase c1.refunds g }
  | _ => c1

/-- The parts and atomics held with cause 0x24 are retried at a trigger of a context, whichever context wrote them: the quota that
holds a write is that of the level's owner (R464). (DEDUCED: log 54.) -/
def retryShadow (s : State) : State :=
  (s.net.filter (fun a => match a.stage with
    | .logged c => causeCode c == causeShadow
    | .held c => causeCode c == causeShadow && decide (a.core < 2 ^ 20)
    | _ => false)).foldl (fun st a => replayOne redApply st a.id) s

/-- The pieces of a context's COPY packets that a fault stopped and a trigger retries go on (R388); no core issued them. -/
def retryCopies (t : Trigger) (s : State) (asid : Nat) : State :=
  let piece (p : CopyPiece) : CopyPiece := if p.why.any (fun c => t.retries c (2 ^ 20)) then { p with why := none } else p
  let go (x : PkState) : PkState :=
    match x with
    | .copy a d sr n dir ps => if a = asid then .copy a d sr n dir (ps.map piece) else x
    | y => y
  let qs := s.dev.queues.map (fun q => (q.1, { q.2 with open_ := q.2.open_.map (fun k => { k with st := go k.st }) }))
  setDev s { s.dev with queues := qs }

/-- The engine accesses of a context that a trigger retries: its cores' stopped operations and matrix commands (R453), its held
results and visit records, its stopped COPY packets. (DEDUCED: log 54.) -/
def retryEngines (t : Trigger) (s : State) (asid : Nat) : State :=
  let s1 := ((liveCores s).filter (fun c => (coreOf s c).ctx == some asid)).foldl (fun st c => retryMatrix t (retryOps t st c) c) s
  let s2 := s1.blocks.foldl (fun st b => retryResults t st b.1 asid) s1
  retryCopies t (retryTraces t s2 asid) asid

/-- The peer operations that a shadow quota holds at this device are made again (R464). -/
def retryPeers (s : State) : State := (s.dev.peerWaits).foldl post (setDev s { s.dev with peerWaits := [] })

/-- The accesses that a trigger of a context at which shadow pushes may succeed retries, of every context (R464). -/
def retryPushes (s : State) : State :=
  retryPeers (s.ctxs.foldl (fun st c => retryEngines .shadow st c.1) (retryShadow s))

/-- May an operation be broadcast: the release of its issuer is complete, and every store of the compute thread before the call of the
routine is performed (R124, R134)? -/
def snapReleased (s : State) (asid g core : Nat) : Bool :=
  let p (o : EngOp) : Bool := o.asid == asid && o.op == .snap g
  match (holder s core (holdsOp p)).bind (fun k => k.ops.find? p) with
  | some o =>
    let c := opCore s core o
    releaseDone s c true deviceScope o.after &&
    !(accsOf s c false).any (fun a => a.op.writes && decide (a.seq < o.calls) && !a.performed)
  | none => true

/-- May the agent of a block apply an operation now: broadcast, and next in the order of G? -/
def snapReady (s : State) (blk asid g : Nat) : Bool :=
  match ctxOf s asid with
  | none => false
  | some c => match snapOp c g with
    | none => false
    | some (_, acks, core) =>
      decide (acks < 256) && (viewOf (blockAt s blk) asid).applied + 1 == g && snapReleased s asid g core

/-- An operation applied at the agent of a block, with its acknowledgement. -/
def applySnap (s0 : State) (blk asid g kind : Nat) : State :=
  let s := if kind = 0 then s0 else settleRestores s0 blk asid
  let b := blockAt s blk
  let v := viewOf b asid
  let d := v.levels.length
  let after := ((ctxOf s asid).bind (fun c => mapGet c.snapLevels g)).getD []
  let r : Block × Nat :=
    if kind = 1 then overLines b asid (acceptLine d)
    else if kind = 2 then
      match v.levels.getLast? with
      | some lv => overLines b asid (rejectLine d lv)
      | none => (b, 0)
    else (b, 0)
  let s1 := setBlock s blk (r.1.putView { v with applied := g, levels := after })
  match ctxOf s1 asid with
  | some c => setCtx s1 asid (ackSnap c g r.2)
  | none => s1

/-- The end of an operation that every agent has acknowledged (R128, R464). -/
def endSnap (s : State) (asid g : Nat) : State :=
  match (ctxOf s asid).bind (fun c => snapOp c g) with
  | some (kind, 256, core) =>
    let s1 := workDone s core (fun o => o.asid == asid && o.op == .snap g)
    if kind = 0 then s1 else retryPushes s1
  | _ => s

/-- SNAPSHOT_OP_APPLY (R142). (DEDUCED: log 54.) -/
def execSnapshotOpApply (blk asid g : Nat) (s : State) : Host.Outcome State Fault Refusal :=
  .next (
    if !snapReady s blk asid g then s
    else match (ctxOf s asid).bind (fun c => snapOp c g) with
      | some (kind, _, _) => endSnap (applySnap s blk asid g kind) asid g
      | none => s)

/-! ## What is enabled -/

/-- The agents that can apply the next operation of a context. -/
def enabledSnaps (s : State) : List Ev :=
  (s.ctxs.map (fun c =>
    ((c.2.snapOps.filter (fun o => decide (o.2.2.1 < 256))).map (fun o =>
      ((List.range 256).filter (fun b => snapReady s b c.1 o.1)).map (fun b => Ev.snapshotOpApply b c.1 o.1))).flatten)).flatten

end Sys2Proof.Machine
end

