-- ==== Sys2Proof/Machine/System.lean ====
section
/-!
DEFINITION. Traps, returns and system registers (R253 to R255, R270 to R276), and the timer trap.
-/

namespace Sys2Proof.Machine

/-! ## System registers (Tables 13.6, 13.7) -/

/-- CORE_ID of the issuing thread. -/
def coreIdWord (s : State) : Word :=
  BitVec.ofNat 64 (s.onMt.toNat * 2 ^ 31 + omiOf s.me * 2 ^ 28 + blockOf s.me * 2 ^ 20 + s.me)

/-- CTX_ID of the focused core. -/
def ctxIdWord (s : State) : Word := BitVec.ofNat 64 (slotOf s s.me * 2 ^ 16 + myAsid s % 2 ^ 16)

/-- TRAP_CAUSE of a thread. -/
def trapCauseWord (t : Thread) : Word :=
  BitVec.ofNat 64 (t.trapPp.toNat * 2 ^ 63 + t.priv.toNat * 2 ^ 62 + t.trapCause.toNat)

/-- A pair of 32-bit fields, `hi` in 63:32. -/
def pairWord (hi lo : Nat) : Word := BitVec.ofNat 64 (hi % 2 ^ 32 * 2 ^ 32 + lo % 2 ^ 32)

/-- SR(sr) of the issuing thread (R272, R273). -/
def sysRead (s : State) (r : SysReg) : Word :=
  match r with
  | .coreId => coreIdWord s
  | .ctxId => ctxIdWord s
  | .membership => s.core.membership
  | .launchRect => s.core.launchRect
  | .blocks => pairWord s.dev.gen s.dev.nblocks
  | .time => BitVec.ofNat 64 s.dev.time
  | .cycle => BitVec.ofNat 64 (cycleOf s s.me)
  | .seedTop => s.core.seed.setWidth 64
  | .tdtBase => s.core.tdtBase
  | .pinQuota => match myCtx s with
    | some c => pairWord c.pinUsed c.tab.pinlim
    | none => 0
  | .shadowQuota => match myCtx s with
    | some c => pairWord c.shUsed c.tab.shlim
    | none => 0
  | .sidelogStat => sidelogStat s s.me s.onMt
  | .mqWeight => s.core.mqWeight.setWidth 64
  | .trapVec => (thr s).trapVec
  | .trapCause => trapCauseWord (thr s)
  | .trapPc => (thr s).trapPc
  | .trapAddr => (thr s).trapAddr
  | .timerCmp => s.core.timerCmp
  | .cntBase => s.core.cntBase
  | .trapBlk => (thr s).trapBlk
  | .tshape n => shapeGet s.core n

/-- MQ_WEIGHT as written: 0 stores 1, 9 to 15 store 8 (Table 13.7). -/
def weightStore (v : Word) : BitVec 4 :=
  let w := v.toNat % 16
  if w = 0 then 1 else if w > 8 then 8 else BitVec.ofNat 4 w

/-- SR(sr) := v: the writable fields of a register; a register that no state writes keeps its value (R272). -/
def sysWrite (s : State) (r : SysReg) (v : Word) : State :=
  match r with
  | .coreId => s
  | .ctxId => s
  | .membership => s
  | .launchRect => s
  | .blocks => s
  | .time => s
  | .cycle => s
  | .seedTop => s
  | .tdtBase => { s with core := { s.core with tdtBase := v &&& 0x00FF_FFFF_FFFF_C000 } }
  | .pinQuota => s
  | .shadowQuota => s
  | .sidelogStat => s
  | .mqWeight => { s with core := { s.core with mqWeight := weightStore v } }
  | .trapVec => setThr s { thr s with trapVec := wordAddr v }
  | .trapCause => setThr s { thr s with trapPp := v.getLsbD 63, trapCause := v.setWidth 16 }
  | .trapPc => setThr s { thr s with trapPc := wordAddr v }
  | .trapAddr => setThr s { thr s with trapAddr := v }
  | .timerCmp => { s with core := { s.core with timerCmp := v } }
  | .cntBase => { s with core := { s.core with cntBase := v &&& 0x00FF_FFFF_FFFF_FFF9 } }
  | .trapBlk => setThr s { thr s with trapBlk := wordAddr v }
  | .tshape n => { s with core := shapeSet s.core n (shapeStore v) }

/-- SRD. -/
def execSrd (h : Hdr) (d : XReg) (sr : SysReg) (s : State) : Host.Outcome State Fault Refusal :=
  issue { infoCM with priv := sr.readPriv } h { xw := [d] } (fun s => writeX d (sysRead s sr) s) s

/-- SWR. -/
def execSwr (h : Hdr) (a : XReg) (sr : SysReg) (s : State) : Host.Outcome State Fault Refusal :=
  issue { infoCM with priv := sr.writePriv } h { xr := [a] } (fun s => .done (sysWrite s sr (xget s a))) s

/-- SXCH: the operand is read before the destination is written. -/
def execSxch (h : Hdr) (d a : XReg) (sr : SysReg) (s : State) : Host.Outcome State Fault Refusal :=
  issue { infoCM with priv := sr.readPriv || sr.writePriv } h (usesDA d a) (fun s =>
    .done (sysWrite (xset s d (sysRead s sr)) sr (xget s a))) s

/-- TIME. -/
def execTime (h : Hdr) (d : XReg) (s : State) : Host.Outcome State Fault Refusal :=
  issue infoCM h { xw := [d] } (fun s => writeX d (BitVec.ofNat 64 s.dev.time) s) s

/-- CYC. -/
def execCyc (h : Hdr) (d : XReg) (s : State) : Host.Outcome State Fault Refusal :=
  issue infoCM h { xw := [d] } (fun s => writeX d (BitVec.ofNat 64 (cycleOf s s.me)) s) s

/-! ## Traps -/

/-- TRAP (R270): the trap path of R254 at the boundary after the instruction. -/
def execTrap (h : Hdr) (imm : BitVec 18) (s : State) : Host.Outcome State Fault Refusal :=
  issue { infoCM with transfer := true } h {} (fun s => .after s causeSoftware (immU imm)) s

/-- A core is to halt at its boundary for a reason (R426, R427). (DEDUCED: log 28.) -/
def askHalt (s : State) (why : BitVec 3) : State :=
  { s with core := { s.core with dbg := { s.core.dbg with pendHalt := some why } } }

/-- BKPT (R270): a halt before itself where the debug module enables it (R427), else the breakpoint trap. (DEDUCED: log 28.) -/
def execBkpt (h : Hdr) (imm : BitVec 18) (s : State) : Host.Outcome State Fault Refusal :=
  issue { infoCM with transfer := true } h {} (fun s =>
    if s.core.dbg.ctl.getLsbD 34 then .again (stepDone (askHalt s 4)) else .after s causeBreakpoint (immU imm)) s

/-- Is the word at TRAP_PC a block header? Where it cannot be fetched, the boundary was a header if TRAP_BLK equals it. (DEDUCED: log 29.) -/
def returnsToHeader (s : State) : Bool :=
  let t := thr s
  (headerAt s (if s.onMt then s.me else leaderOf s s.me) t t.trapPc).getD (t.trapPc == t.trapBlk)

/-- TRET (R271); it starts a replay pass of its thread (R450). A gang leaves the handler together, by its leader's guards (R447). (DEDUCED:
log 14, DEDUCED: log 29.) -/
def execTret (h : Hdr) (s : State) : Host.Outcome State Fault Refusal :=
  issue { infoCM with priv := true, transfer := true, led := true } h {} (fun s =>
    let s1 := if (accsOf s s.me s.onMt).any (fun a => a.logged || a.isHeld) then post s (.replayPass s.me s.onMt) else s
    .goto (setThr s1 ((thr s1).trapReturn (returnsToHeader s) (cycleNow s (blockOf s.me))))) s

/-! ## The timer trap (R255) -/

/-- Does the timer trap wait for the end of the present instruction: WAIT, GBAR, END, or an access that was sent? -/
def timerHeld (s : State) (core : Nat) : Bool :=
  let t := (coreOf s core).ct
  !waitRestarts s core false t

/-- The timer trap is taken by a core's compute thread, with its gang; the partners whose own trap is not due take the partner cause
(R447). (DEDUCED: log 14.) -/
def timerTake (s : State) (core : Nat) : State :=
  let s1 := if atWord s core false then s else reachWord s core false
  if !atWord s1 core false then s1
  else
    (gangOf s1 core).foldl (fun st0 c =>
      let st := dropHeld st0 c false
      let t := threadOf st c false
      let own := decide (c = core) || timerDue st (coreOf st c)
      setThread st c false (t.trapEnter (if own then causeTimer else causePartner) t.pc (t.entry != .word)
        (if own then BitVec.ofNat 64 st.dev.time else 0) (cycleNow st (blockOf c)))) s1

/-- Can the compute thread of a core take the timer trap now? No member of its gang may stand in a wait that the trap leaves alone. -/
def timerReady (s : State) (core : Nat) : Bool :=
  let k := coreOf s core
  coreRuns k && k.ct.active && !k.ct.looped && timerDue s k && !(gangOf s core).any (timerHeld s) && k.dbg.pendHalt.isNone && !k.stopReq &&
  (gangOf s core).all (fun c => (coreOf s c).ct.pendTraps.isEmpty)

/-- TIMER_TRAP: a due trap is taken at the boundary; the step has no effect where none can be taken. -/
def execTimerTrap (core : Nat) (s : State) : Host.Outcome State Fault Refusal :=
  .next (if timerReady s core then timerTake s core else s)

/-- The timer trap of a core that is due. -/
def enabledTimer (s : State) (core : Nat) : List Ev := if timerReady s core then [Ev.timerTrap core] else []

end Sys2Proof.Machine
end

