-- ==== Sys2Proof/Machine/Deliver.lean ====
section
/-!
DEFINITION. The steps of accesses in flight: an access performed at its home (R94), at a remote scratchpad (R79), after a
walk (R102) or a fill, its faults recorded (R445, R449), its response (R113), and messages to a halted core (R429).
-/

namespace Sys2Proof.Machine

/-! ## At the home -/

/-- A sent access acts at its home, by its kind. -/
def deliver (s : State) (aid : Nat) : State :=
  match accFind s aid with
  | none => s
  | some a =>
    if !sendable s a then (if aheadOpen s a then checkAhead s a else s)
    else match a.op with
    | .send _ rxh slot cur => performSend s a rxh slot cur
    | .red _ _ => redStep s aid
    | _ => performHome s aid

/-- A step on an access, then the arrivals that its core's release may have held back (R62, R70). -/
def thenArrive (f : State → State) (s : State) (aid : Nat) : State :=
  match accFind s aid with
  | none => s
  | some a => arrivals (f s) a.core

/-- HOME_ACCESS (R94). -/
def execHomeAccess (aid : Nat) (s : State) : Host.Outcome State Fault Refusal :=
  .next (thenArrive (fun st => deliver st aid) s aid)

/-- Is an access one to the local memory of another core (R79)? -/
def isRemote (a : Access) : Bool :=
  a.isKey && (match keyHome a.va with
    | .core c => c != a.core % 2 ^ 20
    | .block _ => false)

/-- REMOTE_SCRATCHPAD_ACCESS (R79): an access to another core's scratchpad is performed there; a pre-empted target answers
remote-absent, a contained one turns it away (R477), a halted one holds a store (R429). -/
def execRemoteScratchpadAccess (aid : Nat) (s : State) : Host.Outcome State Fault Refusal :=
  .next (match accFind s aid with
    | none => s
    | some a => if isRemote a then thenArrive (fun st => deliver st aid) s aid else s)

/-- HBM_FILL_COMPLETE (R94): the access that waited for the fill of its line is performed, and those that came to the line after it; a
visit record that waited for it is written again. The fill reached its stack (R28). -/
def execHbmFillComplete (blk pa aid : Nat) (s : State) : Host.Outcome State Fault Refusal :=
  .next (retryWaiting (thenArrive (fun st => fillArrives st blk pa aid) (wakeRim s (stackIslands pa)) aid))

/-- PENDING_LOAD_FAULT (R445, R444). -/
def execPendingLoadFault (aid : Nat) (cause : BitVec 16) (s : State) : Host.Outcome State Fault Refusal :=
  .next (holdLoad s aid cause)

/-- SIDE_LOG_ENTRY (R449). -/
def execSideLogEntry (aid : Nat) (cause : BitVec 16) (s : State) : Host.Outcome State Fault Refusal :=
  .next (logStore s aid cause)

/-- ACCESS_RESPONSE (R113, R114, R121). -/
def execAccessResponse (aid : Nat) (s : State) : Host.Outcome State Fault Refusal :=
  .next (thenArrive (fun st => respond st aid) s aid)

/-! ## Messages to a halted core (R429) -/

/-- A message applied at its core. -/
def applyMessage (s : State) (core : Nat) (m : Msg) : State :=
  match m with
  | .store off bytes => storeMem s (localKey core off) bytes
  | .send h slot cur bytes => storeMem s (localKey core (ringSlotOff (coreOf s core) h slot + cur)) bytes
  | .commit h slot => fillSlot s core h slot
  | .wake => wakeCore s core

/-- HELD_MESSAGE: a message to a halted core goes to its held-message area, one that finds no room waits; a core that is not
halted takes it at once. -/
def execHeldMessage (core : Nat) (m : Msg) (s : State) : Host.Outcome State Fault Refusal :=
  .next (
    if (coreOf s core).contained then s
    else if !(coreOf s core).dbg.halted then applyMessage s core m
    else if heldAccepts (blockAt s (blockOf core)) core m then holdMessage s core m
    else post s (.heldMessage core m))

/-- Where the bytes of a message go. -/
def msgBytes (k : Core) (core : Nat) : Msg → Option (Nat × Nat)
  | .store off bytes => some (localKey core off, bytes.length)
  | .send h slot cur bytes => some (localKey core (ringSlotOff k h slot + cur), bytes.length)
  | _ => none

/-- A held message applied; what an error spoiled while it was held is poison in the core's memory (R469). -/
def applyHeld (s : State) (core : Nat) (h : HeldMsg) : State :=
  let s1 := applyMessage s core h.msg
  match msgBytes (coreOf s core) core h.msg with
  | some (a, n) => if h.bad then (List.range n).foldl (fun st j => addPoison st (unitOf (a + j))) s1 else s1
  | none => s1

/-- The held messages of a core are applied in arrival order (R429). -/
def injectHeld (s : State) (core : Nat) : State :=
  let b := blockAt s (blockOf core)
  (b.held.filter (fun h => h.core == core)).foldl (fun st h => applyHeld st core h)
    (setBlock s (blockOf core) { b with held := b.held.filter (fun h => h.core != core) })

/-! ## What is enabled -/

/-- The steps of the accesses in flight. -/
def enabledNet (s : State) : List Ev :=
  s.net.filterMap (fun a =>
    match a.stage with
    | .queued =>
      if !sendable s a then (if aheadOpen s a then some (Ev.homeAccess a.id) else none)
      else match a.op with
        | .red _ _ => if redReady s a then some (Ev.redUpdateApply a.id) else none
        | _ => some (if isRemote a then Ev.remoteScratchpadAccess a.id else Ev.homeAccess a.id)
    | .performed _ => if responds s a then some (Ev.accessResponse a.id) else none
    | .filling blk pa =>
      if (lineHead s blk pa).any (fun x => x.id == a.id) && !s.pending.contains (.hbmFillComplete blk pa a.id) then
        some (Ev.hbmFillComplete blk pa a.id)
      else none
    | _ => none)

end Sys2Proof.Machine
end

