-- ==== Sys2Proof/Machine/Task.lean ====
section
/-!
DEFINITION. The life of a task on its core (R33 to R38, R46, R76, R125, R396): the record that starts it, the registers it
starts with, its END, and the walk point or epilogue that it is (R37, R158, R159).
-/

namespace Sys2Proof.Machine

/-! ## Launches -/

/-- Is a launch placed and not ended? -/
def liveLaunch (s : State) (serial : Nat) : Bool := s.dev.placed.any (fun p => p.serial == serial)

/-- MEMBERSHIP of a task record on a core (Table 2.4). -/
def membershipOf (r : TaskRec) (core : Nat) : Word :=
  let g := if r.gv then 2 ^ 56 + r.seq * 2 ^ 57 + r.midx * 2 ^ 51 + blockOf core * 2 ^ 24 + r.grect.toNat % 2 ^ 24 else 0
  BitVec.ofNat 64 (g + (if r.dv then 2 ^ 50 + r.ldom % 2 ^ 16 * 2 ^ 32 else 0))

/-- The split of an octet's local memories changed (R76, R77): contributions and L1 start zeroed and empty. -/
def applySplit (s : State) (core win l1 : Nat) : State :=
  ((List.range 8).map (octetCore core)).foldl (fun st c =>
    let k := coreOf st c
    if k.win = win ∧ k.l1kb = l1 then st
    else
      let st1 := setCore st c { k with win := win, l1kb := l1, l1 := [] }
      let a := localKey c (padSize (coreOf st1 c))
      let n := 98304 - padSize (coreOf st1 c)
      unpoison { st1 with mem := eraseRange st1.mem a n } a n) s

/-- The timeline sets of a core that starts a record (R127, R396). -/
def rotateTls (s : State) (k : Core) (serial : Nat) : Core :=
  match k.tls with
  | some t =>
    if t.serial = serial then k
    else { k with tls := some (newTls serial), tlsPrev := if liveLaunch s t.serial then some t else none }
  | none => { k with tls := some (newTls serial), tlsPrev := none }

/-- Does a core hold, beside the set of the launch it runs, the set of a launch that has not ended (R396)? -/
def holdsThird (s : State) (k : Core) (serial : Nat) : Bool :=
  !(k.tls.any (fun t => t.serial == serial)) && k.tlsPrev.any (fun t => liveLaunch s t.serial)

/-- May the units of a core start something new: it runs, nothing asks it to stop, and its block is powered? -/
def mayStart (s : State) (core : Nat) : Bool :=
  let k := coreOf s core
  coreRuns k && !k.stopReq && k.dbg.pendHalt.isNone && k.task == .none && !k.ct.active && !(blockAt s (blockOf core)).gated

/-! ## Start (Table 2.1) -/

/-- A thread at the start of a task: registers zero, task state (R34, R253); its accesses go on being numbered. -/
def freshThread (old : Thread) (tvec : Word) : Thread := { Thread.reset with trapVec := wordAddr tvec, seq := old.seq }

/-- A core whose compute thread is about to enter a task: x1, x6, entry (R34, R36, R275). The wake latch stays as the task before left it.
(DESIGN CHOICE: log 95.) -/
def taskCore (s : State) (now : Nat) (k : Core) (r : TaskRec) (kind : TaskKind) (x1 x6 entry : Word) : Core :=
  let tab := (ctxOf s r.asid).map (·.tab)
  let tvec := (tab.map (·.tvec)).getD 0
  let t0 := freshThread k.ct tvec
  let t1 := ((((t0.xset 1 x1).xset 2 r.rect).xset 3 r.arg0).xset 4 r.arg1).xset 5 r.arg2
  { k with
    ct := { t1.xset 6 x6 with
      active := true, pc := entry, entry := .header, lastIssue := now + 7 }
    mt := freshThread k.mt tvec
    v := Vector.replicate 16 0, k := Vector.replicate 8 0, t := Vector.replicate 4 0, a := Vector.replicate 2 0
    tshape := Vector.replicate 4 0, h := Vector.replicate 8 Handle.reset, mqWeight := BitVec.ofNat 4 r.mqw
    tdtBase := (tab.map (·.tdt)).getD 0 &&& 0x00FF_FFFF_FFFF_C000
    timerCmp := (tab.map (·.tcmp)).getD 0xFFFF_FFFF_FFFF_FFFF
    cntBase := (tab.map (·.cntb)).getD 0 &&& 0x00FF_FFFF_FFFF_FFF9
    seed := r.seed, cycleFrom := now, cycleNew := true, gang := 0, rcvs := [], l1 := [], ibuf := [], task := kind
    taskRec := some r, mvq := [], xPoison := 0, vPoison := 0, kPoison := 0, pPoison := 0, tPoison := 0, aPoison := 0 }

/-- Coordinate of a fixed-coordinate task (R34). -/
def coordWord (core : Nat) (r : RectF) : Word := BitVec.ofNat 64 (colOf core - r.col0 + (rowOf core - r.row0) * 2 ^ 16)

/-- The registers that a record of a new launch sets (R396). -/
def enterLaunch (s : State) (core : Nat) (r : TaskRec) : State :=
  let s1 := applySplit s core r.win r.l1
  let k := rotateTls s1 (coreOf s1 core) r.serial
  setCore s1 core { k with
    ctx := some r.asid, membership := membershipOf r core, launchRect := r.rect, mqWeight := BitVec.ofNat 4 r.mqw
    inbox := k.inbox.drop 1, taskRec := some r }

/-- A record at the head of an inbox is started: a fixed task begins, or the core attaches to its walk (R37). -/
def startRecord (s : State) (core : Nat) (r : TaskRec) : State :=
  let s1 := enterLaunch s core r
  let k := coreOf s1 core
  if r.kind = 1 then
    setCore s1 core { k with
      walkAtt := some { asid := r.asid, wid := r.wid, bound := none, epiDone := false, epiBegun := false }, gang := 0 }
  else
    let f := rectOf r.rect
    setCore s1 core (taskCore s1 (cycleNow s1 (blockOf core)) k r .fixed (coordWord core f) (BitVec.ofNat 64 (memberIdx core f)) r.task)

/-- The record that a core's dispatch unit may start now (R36, R396). -/
def readyRecord (s : State) (core : Nat) : Option TaskRec :=
  let k := coreOf s core
  if !mayStart s core || k.walkAtt.isSome then none
  else match k.inbox with
    | [] => none
    | r :: _ => if holdsThird s k r.serial then none else some r

/-! ## Walk points -/

/-- Where a point's visited bit stands in memory (R158): in the block store of the first block of the walk's rectangle, where that stands
now. Bits that were set before the rectangle was restored in another block stay behind. (DESIGN CHOICE: log 85.) -/
def visitedKey (s : State) (asid : Nat) (w : Walk) (p : Nat) : Nat :=
  let r := rectOf w.rect
  let base := ((ctxOf s asid).map (fun c => c.tab.bsbase * 65536)).getD 0
  bsKey (blockOf (coreAt r.row0 r.col0)) (base + field (w.word 4) 31 0 + p / 8)

/-- The visited bit of a point is set by an atomic OR at its home. -/
def setVisited (s : State) (asid : Nat) (w : Walk) (p : Nat) : State :=
  let a := visitedKey s asid w p
  { s with mem := writeByte s.mem a (readByte s.mem a ||| (1#8 <<< (p % 8))) }

/-- The leases of a point end (R157). -/
def dropLeases (s : State) (asid wid p : Nat) : State :=
  s.blocks.foldl (fun st b =>
    if b.2.lines.any (fun l => l.2.leases.any (fun x => x.asid == asid && x.wid == wid && x.p == p)) then
      let k := blockAt st b.1
      setBlock st b.1 { k with lines := k.lines.map (fun l =>
        (l.1, { l.2 with leases := l.2.leases.filter (fun x => !(x.asid == asid && x.wid == wid && x.p == p)) })) }
    else st) s

/-- A walk point or an epilogue of a core has ended. -/
def endWalkTask (s : State) (core : Nat) : State :=
  let k := coreOf s core
  match k.walkAtt with
  | none => s
  | some a =>
    match walkOf s a.asid a.wid with
    | none => s
    | some w =>
      match k.task with
      | .point p =>
        let s1 := dropLeases (setVisited s a.asid w p) a.asid a.wid p
        checkWalk (setWalk s1 a.asid a.wid { w with pts := mapSet w.pts p .done }) a.asid a.wid
      | .epilogue =>
        let s1 := setCore s core { k with walkAtt := some { a with epiDone := true } }
        checkWalk (setWalk s1 a.asid a.wid { w with attached := w.attached - 1, epiDone := w.epiDone + 1 }) a.asid a.wid
      | _ => s

/-! ## TASK_START -/

/-- Does every declared line of the point bound to a core hold a lease, or does it start without (R37, R156, R466)? -/
def pointReady (s : State) (core : Nat) : Option (WalkAtt × Walk × Nat) :=
  let k := coreOf s core
  match k.walkAtt, mayStart s core with
  | some a, true =>
    match a.bound, walkOf s a.asid a.wid with
    | some p, some w =>
      if (missingLines s (weevilReq a.asid w.core w.priv 0) a.wid w p).isEmpty then some (a, w, p) else none
    | _, _ => none
  | _, _ => none

/-- The task of a point starts on its core (R152). -/
def startPoint (s : State) (core : Nat) (a : WalkAtt) (w : Walk) (p : Nat) : State :=
  let k := coreOf s core
  match k.taskRec with
  | none => s
  | some r =>
    let s1 := setWalk s a.asid a.wid { w with
      pts := mapSet w.pts p (.running core), awaiting := mapErase w.awaiting p, given := w.given.filter (· != p) }
    setCore s1 core { taskCore s1 (cycleNow s1 (blockOf core)) k r (.point p) (w.coord p) (BitVec.ofNat 64 p) (w.word 1) with
      walkAtt := some { a with bound := none } }

/-- TASK_START (R36): the oldest record of the inbox, or the point bound to an attached core. (DESIGN CHOICE: log 5, DEDUCED: log 39.) -/
def execTaskStart (core : Nat) (s : State) : Host.Outcome State Fault Refusal :=
  .next (match pointReady s core with
    | some (a, w, p) => startPoint s core a w p
    | none =>
      match readyRecord s core with
      | some r => startRecord s core r
      | none => s)

/-- The idle cores of a block that wait for a point or the epilogue of a walk. -/
def idleWalkers (s : State) (blk asid wid : Nat) : List Nat :=
  (liveCores s).filter (fun c => blockOf c == blk && mayStart s c &&
    (coreOf s c).walkAtt.any (fun a => a.asid == asid && a.wid == wid && a.bound.isNone && !a.epiBegun))

/-- May a core run the epilogue of its walk now (R159)? Not while its block holds candidates that came back after the signal, one of which
it would run first: as many cores stay for them as there are, the lowest. -/
def epilogueReady (s : State) (core : Nat) : Bool :=
  let k := coreOf s core
  mayStart s core &&
  (match k.walkAtt with
    | some a => !a.epiBegun && a.bound.isNone && (walkOf s a.asid a.wid).any (·.epilogue) &&
        decide (((blockAt s (blockOf core)).cands.filter (fun c => c.asid == a.asid && c.wid == a.wid)).length ≤
          ((idleWalkers s (blockOf core) a.asid a.wid).filter (fun c => decide (c < core))).length)
    | none => false)

/-- EPILOGUE_START (R159). -/
def execEpilogueStart (core : Nat) (s : State) : Host.Outcome State Fault Refusal :=
  .next (
    let k := coreOf s core
    match k.walkAtt, k.taskRec with
    | some a, some r =>
      match walkOf s a.asid a.wid with
      | some w =>
        if epilogueReady s core then
          setCore s core { taskCore s (cycleNow s (blockOf core)) k r .epilogue 0 0xFFFF_FFFF_FFFF_FFFF (w.word 2) with
            walkAtt := some { a with epiBegun := true } }
        else s
      | none => s
    | _, _ => s)

/-! ## END_RETIRE -/

/-- May a waiting END retire (R38, R125)? -/
def endReady (s : State) (core : Nat) : Bool :=
  let k := coreOf s core
  k.ct.wait == .ending && coreRuns k && k.mvq.isEmpty && !k.mt.active &&
  (accsOf s core false).all (fun a => a.performed && !a.op.reads) && releaseDone s core false deviceScope k.ct.seq

/-- The pending loads of a core's compute thread are discarded (R446). -/
def discardLoads (s : State) (core : Nat) : State :=
  let s1 := { s with net := s.net.filter (fun a => !(a.core == core && !a.mt && a.op.reads)) }
  setThread s1 core false { threadOf s1 core false with slots := [], pendTraps := [] }

/-- A member of a launch has retired its last END (R395). -/
def memberEnded (s : State) (core serial : Nat) : State :=
  setDev s { s.dev with placed := s.dev.placed.map (fun p =>
    if p.serial = serial ∧ p.ended.contains core = false then { p with ended := p.ended ++ [core] } else p) }

/-- A core whose task has ended is idle; after its epilogue it goes on to its next record when the walk launch has ended (R151). -/
def idleCore (k : Core) : Core :=
  let t := k.ct
  { k with
    ct := { t with active := false, wait := .none, waitRaised := false, priv := false, relPass := false, relMark := none, yielded := false, got := [] }
    task := .none, gang := 0, rcvs := []
    taskRec := match k.task with
      | .point _ => k.taskRec
      | _ => none }

/-- END_RETIRE (R38). -/
def execEndRetire (core : Nat) (s : State) : Host.Outcome State Fault Refusal :=
  .next (
    if !endReady s core || countsWait s core then s
    else
      let k := coreOf s core
      let serial := (k.taskRec.map (·.serial)).getD 0
      let last := match k.task with
        | .point _ => false
        | _ => true
      let s1 := revokeAll (discardLoads (flushCounts s core) core) core
      let s2 := endWalkTask s1 core
      let s3 := setCore s2 core (idleCore (coreOf s2 core))
      if last then memberEnded s3 core serial else s3)

/-! ## What is enabled -/

/-- Is a replay pass of an END that waits due: an entry whose trap was raised meets its next replay (R450)? -/
def endPass (s : State) (core : Nat) : Bool :=
  (coreOf s core).ct.wait == .ending &&
  (accsOf s core false).any (fun a => a.trapped && (match a.stage with
    | .logged c => !quietCause c
    | _ => false))

/-- The starts and ends that a core's state enables. -/
def enabledTask (s : State) (core : Nat) : List Ev :=
  (if (pointReady s core).isSome || (readyRecord s core).isSome then [Ev.taskStart core] else []) ++
  (if epilogueReady s core then [Ev.epilogueStart core] else []) ++
  (if endReady s core then [Ev.endRetire core] else []) ++
  (if endPass s core then [Ev.replayPass core false] else [])

end Sys2Proof.Machine
end

