-- ==== Sys2Proof/Machine/Cicada.lean ====
section
/-!
DEFINITION. Cicada sequencers (R52 to R69, R460) and the combining tree (R70 to R72, R433): one step for each kind of
barrier-program entry, the fire decision, the release of the members, and GBAR's count and release.
-/

namespace Sys2Proof.Machine

/-! ## The program -/

/-- The barrier-fault event (Table 27.1). -/
def raiseBarrier (s : State) (q : Sequencer) (seq : Nat) (w2 : Word) (reason : Nat) : State :=
  raiseEvent s q.asid 6 w2 (BitVec.ofNat 64 (reason + q.core0 * 2 ^ 16 + seq * 2 ^ 36 + q.pc % 65536 * 2 ^ 48))

/-- A sequencer enters FAULT at its present entry (R55, R460). (DESIGN CHOICE: log 42.) -/
def seqFault (s : State) (blk seq : Nat) (w2 : Word) (reason : Nat) : State :=
  let q := seqAt s blk seq
  raiseBarrier (setSeq s blk seq { q with st := .fault, fetched := none }) q seq w2 reason

/-- Does a sequencer execute entries? -/
def seqRuns (q : Sequencer) : Bool := q.st == .run || q.st == .full

/-- A sequencer goes on at an entry. -/
def Sequencer.goTo (q : Sequencer) (pc : Nat) : Sequencer := { q with pc := pc, fetched := none, st := .run }

/-- The kind of an entry (Table 3.1). -/
def entryKind (w : Word) : Nat := field w 63 60
/-- Mask or value of an entry: hi ‖ lo. -/
def entryMask (w : Word) : BitVec 32 := w.setWidth 32

/-- Is a field reserved for the entry's kind not zero (R54)? -/
def entryReserved (w : Word) : Bool :=
  match entryKind w with
  | 1 => field w 59 32 != 0
  | 2 => false
  | 3 => field w 59 16 != 0
  | 4 => field w 59 0 != 0
  | 5 => field w 59 16 != 0
  | 6 => field w 59 32 != 0
  | _ => field w 59 0 != 0

/-- The step that executes an entry (Table 3.2); none for a malformed kind. -/
def entryStep (blk seq : Nat) (w : Word) : Option Ev :=
  match entryKind w with
  | 1 => some (.mask blk seq (entryMask w))
  | 2 => some (.maskb blk seq (w.extractLsb' 56 4) (w.extractLsb' 32 24) (entryMask w))
  | 3 => some (.loopEntry blk seq (w.setWidth 16))
  | 4 => some (.endl blk seq)
  | 5 => some (.jump blk seq (w.setWidth 16))
  | 6 => some (.note blk seq (entryMask w))
  | 7 => some (.halt blk seq)
  | _ => none

/-- The entry at a sequencer's index is read through its block's slice (R52); a malformed one, an index beyond the program and
a fault of the read enter FAULT (R55). The word that the event of an index without entry carries is free. An entry that changes in memory
after the sequencer started executes with the value it has when its index is reached: the sequencer never reads ahead.
(DESIGN CHOICE: log 82.) -/
def fetchEntry (s : State) (blk seq : Nat) : State :=
  let q := seqAt s blk seq
  if q.pcnt ≤ q.pc then
    let w := drawWord s
    seqFault w.2 blk seq w.1 6
  else
    let va := q.base + 8 * q.pc
    match homeDo s q.core0 false { seqReq q.asid blk with who := some (.prog blk seq) } va .read 8 with
    | (s1, .fault _) => seqFault s1 blk seq (BitVec.ofNat 64 va) 9
    | (s1, .wait) => s1
    | (s1, .bytes bs) =>
      let w : Word := BitVec.ofNat 64 (leNat bs)
      if (entryStep blk seq w).isNone then seqFault s1 blk seq w 1
      else if entryReserved w then seqFault s1 blk seq w 2
      else setSeq s1 blk seq { seqAt s1 blk seq with fetched := some w }

/-- SEQ_PROGRAM_FETCH. -/
def execSeqProgramFetch (blk seq : Nat) (s : State) : Host.Outcome State Fault Refusal :=
  .next (
    let q := seqAt s blk seq
    if seqRuns q && q.fetched.isNone then fetchEntry s blk seq else s)

/-- An entry executes on a sequencer that runs. -/
def onSeq (s : State) (blk seq : Nat) (f : Sequencer → State) : State :=
  let q := seqAt s blk seq
  if seqRuns q then f q else s

/-! ## MASK and MASKB -/

/-- A member is claimed by an entry of a number, and waits in it where its release has completed (R59, R62). -/
def claimMember (blk seq sq : Nat) (s : State) (m : Nat) : State :=
  let c := (seqAt s blk seq).member m
  let k := coreOf s c
  if k.dbg.halted || groupBlk k != blk || groupSeq k != seq then s
  else match k.ct.wait with
    | .bar none bit =>
      let s1 := setThread s c false { k.ct with wait := .bar (some sq) bit }
      if bit then setSeq s1 blk seq ((seqAt s1 blk seq).setWait sq m) else s1
    | _ => s

/-- The members that a mask names. -/
def maskMembers (m : BitVec 32) : List Nat := (List.range 32).filter (fun i => m.getLsbD i)

/-- The entry that MASK or MASKB appends. -/
def newEntry (q : Sequencer) (m : BitVec 32) (tag : Option (BitVec 4)) (cnt : Nat) : MaskEntry :=
  { mask := m, wait := 0, abs := 0, cnt := cnt, sq := q.nextSq, tagged := tag.isSome, tag := tag.getD 0, fired := none }

/-- The entry appended: the sequencer goes on, and the entry claims the members that wait unclaimed (R59). -/
def appendEntry (s : State) (blk seq : Nat) (q : Sequencer) (e : MaskEntry) : State :=
  let s1 := setSeq s blk seq { q.goTo (q.pc + 1) with buf := q.buf ++ [e], nextSq := q.nextSq + 1 }
  (maskMembers e.mask).foldl (claimMember blk seq e.sq.toNat) s1

/-- The word of a MASK or MASKB entry. -/
def maskWord (m : BitVec 32) (tag : Option (BitVec 4)) (cnt : BitVec 24) : Word :=
  match tag with
  | none => BitVec.ofNat 64 (2 ^ 60 + m.toNat)
  | some t => BitVec.ofNat 64 (2 * 2 ^ 60 + t.toNat * 2 ^ 56 + cnt.toNat * 2 ^ 32 + m.toNat)

/-- A mask that can be appended, its malformed cases, and the full buffer (R54, R55). -/
def withMask (s : State) (blk seq : Nat) (m : BitVec 32) (word : Word) (f : Sequencer → State) : State :=
  onSeq s blk seq (fun q =>
    if m = 0 then seqFault s blk seq word 7
    else if 2 ^ q.gsz ≤ m.toNat then seqFault s blk seq word 8
    else if 16 ≤ q.buf.length then setSeq s blk seq { q with st := .full }
    else f q)

/-- MASK. -/
def execMask (blk seq : Nat) (m : BitVec 32) (s : State) : Host.Outcome State Fault Refusal :=
  .next (withMask s blk seq m (maskWord m none 0) (fun q => appendEntry s blk seq q (newEntry q m none 0)))

/-- MASKB: its count is reduced by the credit of its tag (R64), whose overflow is reported anew once it was used (Table 27.1). -/
def execMaskb (blk seq : Nat) (tag : BitVec 4) (cnt : BitVec 24) (m : BitVec 32) (s : State) :
    Host.Outcome State Fault Refusal :=
  .next (withMask s blk seq m (maskWord m (some tag) cnt) (fun q =>
    let cr := q.credits[tag.toNat]'tag.isLt
    let used := min cr cnt.toNat
    appendEntry s blk seq { q with
        credits := q.credits.set tag.toNat (cr - used) tag.isLt, satur := if used = 0 then q.satur else setBit q.satur tag.toNat false }
      (newEntry q m (some tag) (cnt.toNat - used))))

/-! ## Control of the stream -/

/-- LOOP of a barrier program. -/
def execLoopEntry (blk seq : Nat) (n : BitVec 16) (s : State) : Host.Outcome State Fault Refusal :=
  .next (onSeq s blk seq (fun q =>
    let w : Word := BitVec.ofNat 64 (3 * 2 ^ 60 + n.toNat)
    if n = 0 then seqFault s blk seq w 3
    else if 4 ≤ q.loops.length then seqFault s blk seq w 4
    else setSeq s blk seq { q.goTo (q.pc + 1) with loops := (n.toNat, q.pc + 1) :: q.loops }))

/-- ENDL. -/
def execEndl (blk seq : Nat) (s : State) : Host.Outcome State Fault Refusal :=
  .next (onSeq s blk seq (fun q =>
    match q.loops with
    | [] => seqFault s blk seq 0x4000_0000_0000_0000 5
    | (n, i) :: rest =>
      if n - 1 = 0 then setSeq s blk seq { q.goTo (q.pc + 1) with loops := rest }
      else setSeq s blk seq { q.goTo i with loops := (n - 1, i) :: rest }))

/-- JUMP. -/
def execJump (blk seq : Nat) (target : BitVec 16) (s : State) : Host.Outcome State Fault Refusal :=
  .next (onSeq s blk seq (fun q =>
    if q.pcnt ≤ target.toNat then seqFault s blk seq (BitVec.ofNat 64 (5 * 2 ^ 60 + target.toNat)) 6
    else setSeq s blk seq (q.goTo target.toNat)))

/-- NOTE: a trace record with the value, the sequencer and the entry index (Table 21.3). -/
def execNote (blk seq : Nat) (value : BitVec 32) (s : State) : Host.Outcome State Fault Refusal :=
  .next (onSeq s blk seq (fun q =>
    let slot := ((ctxOf s q.asid).map (·.slot)).getD 0
    traceAdd (setSeq s blk seq (q.goTo (q.pc + 1))) blk 2 (traceWord0 2 false slot q.core0 0)
      (BitVec.ofNat 64 (value.toNat + seq * 2 ^ 32)) (BitVec.ofNat 64 q.pc)))

/-- HALT. -/
def execHalt (blk seq : Nat) (s : State) : Host.Outcome State Fault Refusal :=
  .next (onSeq s blk seq (fun q => setSeq s blk seq { q with pc := q.pc + 1, fetched := none, st := .halted }))

/-! ## Firing and release (R60, R61) -/

/-- Does an entry fire? -/
def fires (e : MaskEntry) : Bool :=
  e.fired.isNone && (e.mask &&& ~~~e.wait) == 0 && (e.mask &&& e.abs) == 0 && e.cnt == 0

/-- The entry with a sequence number. -/
def entryOf (q : Sequencer) (sq : BitVec 32) : Option MaskEntry := q.buf.find? (fun e => e.sq == sq)

/-- FIRE: the fire decision at the present cycle F; the waiting bits clear. -/
def execFire (blk seq : Nat) (sq : BitVec 32) (s : State) : Host.Outcome State Fault Refusal :=
  .next (
    let q := seqAt s blk seq
    if (entryOf q sq).any fires then
      setSeq s blk seq { q with buf := q.buf.map (fun e =>
        if e.sq = sq then { e with fired := some (cycleNow s blk), wait := 0 } else e) }
    else s)

/-- A released thread issues its next instruction in a cycle and in no other (R61, R70). -/
def promptAt (s : State) (c cyc : Nat) : State :=
  let t := (coreOf s c).ct
  setThread s c false { t with prompt := some cyc, notBefore := max t.notBefore cyc }

/-- The cycle of a block that begins at its clock's first edge at or after the present instant. -/
def edgeCycle (s : State) (blk : Nat) : Nat :=
  (s.dev.cyc + (if s.dev.cphase = 0 then 0 else 1) + 4) / 5 - (blockAt s blk).lag

/-- A released member: it acquires at its group rectangle and goes on after its WAIT (R62). -/
def releaseMember (blk seq : Nat) (sq : BitVec 32) (s : State) (m : Nat) : State :=
  let c := (seqAt s blk seq).member m
  let k := coreOf s c
  match k.ct.wait with
  | .bar (some n) _ =>
    if n = sq.toNat ∧ groupBlk k = blk ∧ groupSeq k = seq then
      promptAt (finishWait (acquireAt s c (groupScope k)) c false) c (cycleNow s blk)
    else s
  | _ => s

/-- MEMBER_RELEASE: in cycle F + 24 the entry's slot frees and every member goes on. -/
def execMemberRelease (blk seq : Nat) (sq : BitVec 32) (s : State) : Host.Outcome State Fault Refusal :=
  .next (
    match (entryOf (seqAt s blk seq) sq).bind (fun e => e.fired.map (fun f => (e, f))) with
    | none => s
    | some (e, f) =>
      let s1 := (maskMembers e.mask).foldl (releaseMember blk seq sq) (advanceToCycle s blk (f + 24))
      let q := seqAt s1 blk seq
      setSeq s1 blk seq { q with
        buf := q.buf.filter (fun x => x.sq != sq), st := if q.st = .full then .run else q.st })

/-- SEQ_SNAPSHOT_LATCH (R69). -/
def execSeqSnapshotLatch (blk seq : Nat) (s : State) : Host.Outcome State Fault Refusal := .next (latchSeq s blk seq)

/-! ## The combining tree -/

/-- GBAR_COUNT_COMPLETE: the root's count is complete at the present tick L; the release tick is L + 512. -/
def execGbarCountComplete (ldom : Nat) (s : State) : Host.Outcome State Fault Refusal :=
  .next (match mapGet s.dev.ldoms ldom with
    | none => s
    | some d =>
      if d.arrived.length = d.n ∧ d.release = none then
        setDev s { s.dev with ldoms := mapSet s.dev.ldoms ldom { d with release := some (s.dev.time + 512) } }
      else s)

/-- The wait of a member whose GBAR was released while it was saved or halted: it goes on after it when it runs again (R71). -/
def gbarPassed (ldom : Nat) : WaitState := .gbar true (ldom + 65536)

/-- A core goes on after its GBAR at the next edge of its clock, with the acquire of its launch rectangle; a halted one when it resumes. -/
def gbarResume (ldom : Nat) (s : State) (c : Nat) : State :=
  let k := coreOf s c
  if k.ct.wait ≠ .gbar true ldom then s
  else if k.dbg.halted then setThread s c false { k.ct with wait := gbarPassed ldom }
  else promptAt (finishWait (acquireAt s c k.launchRect) c false) c (edgeCycle s (blockOf c))

/-- A saved core whose GBAR was released goes on after it when it is restored (R71). -/
def gbarSaved (ldom serial : Nat) (x : Saved) : Saved :=
  if x.core.ct.wait = .gbar true ldom ∧ x.core.taskRec.any (fun r => r.serial == serial) then
    { x with core := { x.core with ct := { x.core.ct with wait := gbarPassed ldom } } }
  else x

/-- The imbalance record of a release (R72, R433). -/
def imbalance (s : State) (d : LDom) (ldom : Nat) (p : Placed) : State :=
  let r := rectOf p.rect
  let blk := blockOf (coreAt r.row0 r.col0)
  let slot := ((ctxOf s p.asid).map (·.slot)).getD 0
  setBlock s blk ((blockAt s blk).traceAdd 4 (traceWord0 4 false slot d.lastCore ldom) (BitVec.ofNat 64 d.first)
    (BitVec.ofNat 64 d.last) (BitVec.ofNat 64 (d.sum - d.first)) s.dev.time)

/-- GBAR_RELEASE: at tick T every member goes on, and the domain counts anew. -/
def execGbarRelease (ldom : Nat) (s : State) : Host.Outcome State Fault Refusal :=
  .next (match mapGet s.dev.ldoms ldom with
    | none => s
    | some d =>
      match d.release, s.dev.placed.find? (fun p => p.serial == d.serial) with
      | some t, some p =>
        let s1 := (d.arrived.foldl (gbarResume ldom) (advanceToTick s t))
        let s2 := { s1 with ctxs := s1.ctxs.map (fun c =>
          let sv := c.2.saved.map (fun r => { r with cores := r.cores.map (gbarSaved ldom d.serial) })
          (c.1, { c.2 with saved := sv })) }
        let s3 := imbalance s2 d ldom p
        let d2 := { d with arrived := [], first := 0, last := 0, lastCore := 0, sum := 0, release := none }
        setDev s3 { s3.dev with ldoms := mapSet s3.dev.ldoms ldom d2 }
      | _, _ => s)

/-! ## What is enabled -/

/-- The steps of one sequencer. -/
def enabledSeq (blk seq : Nat) (q : Sequencer) : List Ev :=
  (if seqRuns q then
    match q.fetched with
    | none => [Ev.seqProgramFetch blk seq]
    | some w => if q.st == .full && decide (16 ≤ q.buf.length) then [] else (entryStep blk seq w).toList
   else []) ++
  q.buf.filterMap (fun e =>
    if fires e then some (Ev.fire blk seq e.sq)
    else if e.fired.isSome then some (Ev.memberRelease blk seq e.sq) else none)

/-- The steps of every sequencer and of the combining tree. -/
def enabledCicada (s : State) : List Ev :=
  (s.blocks.map (fun b => (b.2.seqs.map (fun q => enabledSeq b.1 q.1 q.2)).flatten)).flatten ++
  s.dev.ldoms.filterMap (fun d =>
    if d.2.release.isSome then some (Ev.gbarRelease d.1)
    else if d.2.arrived.length = d.2.n ∧ 0 < d.2.n then some (Ev.gbarCountComplete d.1) else none)

end Sys2Proof.Machine
end

