-- ==== Sys2Proof/Machine/Weevil.lean ====
section
/-!
DEFINITION. The Weevil (R147 to R162, R466): the walk instructions (R374 to R376), the windows of the blocks with residency
and prefetch (R153), the issue of points under leases (R154 to R157), and the end of work (R159).
-/

namespace Sys2Proof.Machine

/-! ## WVOPEN's checks (R149) -/

/-- Do the words of the record keep the reserved fields zero and the fields in range? -/
def recordOk (w : Walk) : Bool :=
  let w0 := w.word 0
  let w3 := w.word 3
  field w0 63 56 == 0 && field w0 48 48 == 0 && field w3 31 8 == 0 && field (w.word 4) 63 32 == 0 &&
  field (w.word 6) 63 32 == 0 && w.word 7 == 0 && w.mode != 3 &&
  decide (1 ≤ w.ndim) && decide (w.ndim ≤ 3) && decide (w.ntile ≤ 4) &&
  (List.range 3).all (fun d => w.ext d != 0 && (decide (d < w.ndim) || w.ext d == 1)) &&
  (w.mode == 0 || ((w.word 5).toNat % 16 == 0 && w.tcap != 0))

/-- Is a coordinate of a declaration admissible for its descriptor? -/
def coordFieldOk (w : Walk) (e : DescVal) (d m : Nat) : Bool :=
  let cd := declCd d m
  if dRank e ≤ m then cd == 0
  else
    decide (cdSel cd ≤ w.ndim) &&
    [0, w.ext (cdSel cd - 1) - 1].all (fun i => decide (0 ≤ cdAt cd i) && decide (cdAt cd i < (gridOf e m : Int)))

/-- Is a declaration admissible, with the descriptor of its tensor where it is loaded? -/
def declOk (s : State) (w : Walk) (j : Nat) : Bool :=
  let d := w.decl j
  if w.ntile ≤ j then d == 0
  else d / 256 % 2 ^ 24 == 0 &&
    (match ldtGet s (BitVec.ofNat 8 d) with
      | none => false
      | some e => (List.range 4).all (coordFieldOk w e d))

/-- Does the visited map lie wholly in the context's partition? -/
def mapFits (s : State) (asid : Nat) (w : Walk) : Bool :=
  match ctxOf s asid with
  | some c => decide (field (w.word 4) 31 0 + (w.points + 7) / 8 ≤ c.tab.bssize * 65536)
  | none => false

/-- Every condition of R149 on a record that was read. -/
def walkOk (s : State) (asid : Nat) (w : Walk) : Bool :=
  recordOk w && (List.range 4).all (declOk s w) && mapFits s asid w && !malformedRect w.rect && rectGranted s asid w.rect &&
  (match ctxOf s asid with
    | some c => decide (c.walks.length < 16)
    | none => false)

/-! ## WVOPEN, WVCLOSE, WVQRY, WVDONE -/

/-- The attaching record of a walk (R151). (DEDUCED: log 44.) -/
def attachRec (s : State) (rect : Word) (serial wid : Nat) : TaskRec :=
  let seed := ((myCtx s).bind (fun c => c.seeds.getLast?)).getD 0
  let r0 := s.core.taskRec
  let f (g : TaskRec → Word) : Word := (r0.map g).getD 0
  { kind := 1, asid := myAsid s, serial := serial, task := 0, rect := rect
    arg0 := f (·.arg0), arg1 := f (·.arg1), arg2 := f (·.arg2)
    win := (r0.map (·.win)).getD 0, l1 := (r0.map (·.l1)).getD 0, mqw := (r0.map (·.mqw)).getD 1
    dv := false, ldom := 0, gv := false, seq := 0, midx := 0, grect := 0, wid := wid, seed := seed }

/-- A new walk, nothing dealt. (DEDUCED: log 44, DEDUCED: log 44, DEDUCED: log 45.) -/
def newWalk (s : State) (record : List Word) (rect : Word) (num serial : Nat) (attach : Option TaskRec) : Walk :=
  let w : Walk :=
    { record := record, rect := rect, core := s.me, num := num, serial := serial, cursor := 0, pts := [], traceN := 0
      traceLost := 0, traceHeld := [], epilogue := false, epiDone := 0, doneOp := false, closing := []
      attached := rectCount (rectOf rect), boundAt := [], awaiting := [], given := [], attach := attach, kept := [], descs := []
      priv := (thr s).priv, traceBad := [], traceStop := none }
  { w with descs := (List.range w.ntile).map (fun j => (ldtGet s (BitVec.ofNat 8 (w.decl j))).getD 0) }

/-- The walk is opened (R150, R151): its launch takes a serial number, its visited map is zeroed, its state is placed. -/
def openWalk (s : State) (wid : Nat) (record : List Word) (rect : Word) (num : Nat) : State :=
  let asid := myAsid s
  let serial := s.dev.serial + 1
  let r := attachRec s rect serial wid
  let w := newWalk s record rect num serial (some r)
  let p : Placed :=
    { serial := serial, armed := s.dev.time, order := s.dev.armN, starved := false, asid := asid, index := none, wid := wid, rect := rect
      q := none, ended := [], seqs := [], ldom := none, seed := r.seed, contained := false, barFault := false, seqFault := []
      parent := s.core.taskRec.map (·.serial) }
  let s1 := setDev s { s.dev with serial := serial, armN := s.dev.armN + 1, placed := s.dev.placed ++ [p] }
  let s2 := { s1 with mem := eraseRange s1.mem (visitedKey s1 asid w 0) ((w.points + 7) / 8) }
  post (setWalk s2 asid wid w) .placement

/-- WVOPEN once its record has been read. -/
def wvopenWith (d : XReg) (ch : BitVec 3) (rect : Word) (wid : Nat) (bs : List Byte) (s : State) : Res :=
  let record := (List.range 16).map (recWord bs)
  let num := tlNext s.core 5
  if !walkOk s (myAsid s) (newWalk s record rect num 0 none) then .trap causeWalk 0
  else match joinTl 5 ch d (.walkOpen wid) none s with
    | .done s1 => .done (openWalk s1 wid record rect num)
    | r => r

/-- The effect of WVOPEN (R374): its record is read when it issues. A record range outside the address spaces is the fault of R360, in
its place before the checks of R149. -/
def wvopenRes (d a b : XReg) (wid : Nat) (ch : BitVec 3) (s : State) : Res :=
  let va := xget s a
  checked (checkRange s va 128)
    (if va.toNat % 128 ≠ 0 ∨ (walkOf s (myAsid s) wid).isSome = true then .trap causeWalk 0
    else routineGate s (match engineRead s s.me s.onMt (coreReq s s.me (thr s).priv 0) va.toNat 128 with
      | (_, .fault _) => .trap causeWalk 0
      | (_, .wait) => .wait
      | (s1, .bytes bs) => wvopenWith d ch (xget s b) wid bs s1))

/-- WVOPEN. -/
def execWvopen (h : Hdr) (d a b : XReg) (wid : BitVec 4) (s : State) : Host.Outcome State Fault Refusal :=
  issue infoM h { xr := [a, b], xw := [d] } (wvopenRes d a b wid.toNat h.ch) s

/-- A WVCLOSE that joined tl5 releases the walk, or waits for its WVOPEN operation (R375). -/
def closeWalk (s : State) (wid : Nat) (w : Walk) : State :=
  if w.doneOp then releaseWalk s (myAsid s) wid [s.me]
  else setWalk s (myAsid s) wid { w with closing := w.closing ++ [s.me] }

/-- WVCLOSE. -/
def execWvclose (h : Hdr) (d : XReg) (wid : BitVec 4) (s : State) : Host.Outcome State Fault Refusal :=
  issue infoM h { xw := [d] } (fun s =>
    match walkOf s (myAsid s) wid.toNat with
    | none => .trap causeWalk 0
    | some w => match joinTl 5 h.ch d (.walkClose wid.toNat) none s with
      | .done s1 => .done (closeWalk s1 wid.toNat w)
      | r => r) s

/-! ## Residency (R153) -/

/-- WVQRY. -/
def execWvqry (h : Hdr) (d a b : XReg) (wid : BitVec 4) (s : State) : Host.Outcome State Fault Refusal :=
  issue infoCM h { xr := [a, b], xw := [d] } (fun s =>
    match walkOf s (myAsid s) wid.toNat with
    | none => .trap causeWalk 0
    | some w =>
      let p := (xget s a).toNat
      let j := (xget s b).toNat
      if w.points ≤ p ∨ w.ntile ≤ j then .trap causeWalk 0
      else writeX d (if tileResident s (weevilReq (myAsid s) s.me (thr s).priv 0) w j p then 1 else 0) s) s

/-- Points of a walk that are DONE. -/
def donePoints (w : Walk) : Nat := (w.pts.filter (fun p => p.2 == .done)).length

/-- WVDONE. -/
def execWvdone (h : Hdr) (d : XReg) (wid : BitVec 4) (s : State) : Host.Outcome State Fault Refusal :=
  issue infoCM h { xw := [d] } (fun s =>
    match walkOf s (myAsid s) wid.toNat with
    | none => .trap causeWalk 0
    | some w => writeX d (BitVec.ofNat 64 (donePoints w % 2 ^ 48 + w.doneOp.toNat * 2 ^ 63)) s) s

/-! ## Windows and batches -/

/-- A candidate placed in ascending order of points. -/
def insertCand (c : Cand) : List Cand → List Cand
  | [] => [c]
  | x :: xs => if c.p < x.p then c :: x :: xs else x :: insertCand c xs

/-- Is a candidate one of a walk? -/
def Cand.of (c : Cand) (asid wid : Nat) : Bool := c.asid == asid && c.wid == wid

/-- Candidates in ascending order of points. -/
def sortCands (cs : List Cand) : List Cand := cs.foldl (fun acc c => insertCand c acc) []

/-- The window of a walk in a block, in ascending order of points. (DEDUCED: log 46.) -/
def windowOf (s : State) (blk asid wid : Nat) : List Cand := sortCands ((blockAt s blk).cands.filter (fun c => c.of asid wid))

/-- Is a candidate forced now: marked, or in its window for more than A ticks (R156)? -/
def Cand.isForced (c : Cand) (s : State) (w : Walk) : Bool := c.forced || decide (w.ageBound < s.dev.time - c.entered)

/-- Change the candidates of a block. -/
def setCands (s : State) (blk : Nat) (f : List Cand → List Cand) : State :=
  let b := blockAt s blk
  setBlock s blk { b with cands := f b.cands }

/-- Cores of a block that are attached to a walk and have not begun its epilogue. -/
def attachedIn (s : State) (blk asid wid : Nat) : List Nat :=
  (liveCores s).filter (fun c => blockOf c == blk &&
    (match (coreOf s c).walkAtt with
      | some a => a.asid == asid && a.wid == wid && !a.epiBegun && coreRuns (coreOf s c)
      | none => false))

/-- The tiles of a point that are resident, one bit each. -/
def residentBits (s : State) (q : Req) (w : Walk) (p : Nat) : BitVec 4 :=
  (List.range w.ntile).foldl (fun m j => if tileResident s q w j p then setBit m j true else m) 0

/-- A point becomes a candidate of a block's window, with its residency queried. -/
def enterWindow (s : State) (blk asid wid : Nat) (w : Walk) (p skip entered : Nat) : State :=
  setCands s blk (insertCand
    { asid := asid, wid := wid, p := p, skip := skip, entered := entered, known := residentBits s (weevilReq asid w.core w.priv 0) w p
      forced := decide (w.skipBound ≤ skip) || decide (w.ageBound < s.dev.time - entered) })

/-- Prefetches in flight of a block's Weevil. -/
def prefetches (s : State) (blk : Nat) : List Ev :=
  s.pending.filter (fun e => match e with
    | .prefetchComplete b _ _ _ _ => b == blk
    | _ => false)

/-- Prefetches that the candidates of a block call for and that are not in flight, in ascending order of points. -/
def wantedPrefetches (s : State) (blk : Nat) : List Ev :=
  ((sortCands (blockAt s blk).cands).map (fun c =>
    match walkOf s c.asid c.wid with
    | none => []
    | some w => ((List.range w.ntile).filter (fun j => !c.known.getLsbD j)).map (fun j =>
        Ev.prefetchComplete blk c.asid c.wid c.p j))).flatten.filter (fun e => !s.pending.contains e)

/-- Prefetches are issued, at most 16 tiles in flight. -/
def issuePrefetches (s : State) (blk : Nat) : State :=
  ((wantedPrefetches s blk).take (16 - (prefetches s blk).length)).foldl post s

/-- May a block Weevil take a batch of a walk (R150)? -/
def mayTake (s : State) (blk asid wid : Nat) : Bool :=
  match walkOf s asid wid with
  | none => false
  | some w => w.attach.isNone && decide (w.cursor < w.points) && decide ((windowOf s blk asid wid).length ≤ 48) &&
      !(attachedIn s blk asid wid).isEmpty

/-- A point of a batch enters the window; one that a trace bound already does not. -/
def dealPoint (blk asid wid : Nat) (s : State) (p : Nat) : State :=
  match walkOf s asid wid with
  | none => s
  | some w =>
    if (mapGet w.pts p).isSome then s
    else enterWindow (setWalk s asid wid { w with pts := mapSet w.pts p .cand }) blk asid wid w p 0 s.dev.time

/-- WEEVIL_BATCH_TAKE. -/
def execWeevilBatchTake (blk asid wid : Nat) (s : State) : Host.Outcome State Fault Refusal :=
  .next (match walkOf s asid wid with
    | none => s
    | some w =>
      if !mayTake s blk asid wid then s
      else
        let n := min 16 (w.points - w.cursor)
        let s1 := setWalk s asid wid { w with cursor := w.cursor + n }
        issuePrefetches (((List.range n).map (fun i => w.cursor + i)).foldl (dealPoint blk asid wid) s1) blk)

/-- What a fill of a Weevil came to: the home holds the line, does not hold it, or has not answered yet. -/
inductive FillAns where
  | here
  | gone
  | wait
  deriving DecidableEq, Repr

/-- One line filled by a Weevil; one that fails translation is dropped (R453). It waits at its home as other misses and fills do (R94,
R102). (DESIGN CHOICE: log 80.) -/
def weevilFill (s : State) (q : Req) (va : Nat) : State × FillAns :=
  let home := homeOf s q.asid va
  if isAperture va then (s, .gone)
  else match translateFor s home q va with
  | (s1, none) => (s1, .wait)
  | (s1, some (.error _)) => (s1, .gone)
  | (s1, some (.ok e)) =>
    let pa := physOf e va
    if isRim pa || !granted s1.dev home (masterOf s1 q.asid) false then (s1, .gone)
    else if lineBusy s1 home pa then (s1, .wait)
    else
      let r := ensureLine (restoreDue s1 home (lineBase pa)) home q va pa 0xF
      (r.1, if r.2 then .here else .gone)

/-- Lines filled in order: the state, and whether one of them must wait. -/
def weevilFills (q : Req) : List Nat → State → Bool → State × Bool
  | [], s, w => (s, w)
  | l :: ls, s, w =>
    match weevilFill s q l with
    | (s1, .wait) => weevilFills q ls s1 true
    | (s1, _) => weevilFills q ls s1 w

/-- PREFETCH_COMPLETE: the missing lines of the tile stand at their homes, and the tile is known resident; the place it leaves goes to the
next prefetch of the Weevil, whichever walk is its. -/
def execPrefetchComplete (blk asid wid p tile : Nat) (s : State) : Host.Outcome State Fault Refusal :=
  .next (match walkOf s asid wid with
    | none => issuePrefetches s blk
    | some w =>
      let q := { weevilReq asid w.core w.priv 0 with who := some (.tile blk asid wid p tile) }
      let r := weevilFills q ((w.tileLines tile p).filter (fun l => !lineThere s q l)) s false
      if r.2 then post r.1 (.prefetchComplete blk asid wid p tile)
      else issuePrefetches (setCands r.1 blk (fun cs => cs.map (fun c =>
        if c.of asid wid = true ∧ c.p = p then { c with known := setBit c.known tile true } else c))) blk)

/-! ## Leases and binding -/

/-- A line leased for a point of a core for 10,000 ticks (R157). -/
def leaseLine (q : Req) (wid p core : Nat) (s : State) (va : Nat) : State :=
  match linePlace s q va with
  | none => s
  | some x =>
    let b := blockAt s x.1
    match mapGet b.lines x.2 with
    | none => s
    | some ln =>
      setBlock s x.1 { b with lines := mapSet b.lines x.2 { ln with
        leases := ln.leases ++ [{ asid := q.asid, wid := wid, p := p, core := core, until_ := s.dev.time + 10000 }] } }

/-- The candidates of a window after a point was bound: it leaves, and lower points are skipped once more (R155, R156). -/
def afterBind (asid wid p bound : Nat) (cs : List Cand) : List Cand :=
  (cs.filter (fun c => !(c.of asid wid && c.p == p))).map (fun c =>
    if c.of asid wid = true ∧ c.p < p then
      { c with skip := c.skip + 1, forced := c.forced || decide (bound ≤ c.skip + 1) }
    else c)

/-- The block whose window holds a point, with the candidate. -/
def candHome (s : State) (asid wid p : Nat) : Option (Nat × Cand) :=
  s.blocks.findSome? (fun b => (b.2.cands.find? (fun c => c.of asid wid && c.p == p)).map (fun c => (b.1, c)))

/-- A point is bound to a core; `lines` are those it still waits for, each with a fill that carries a lease. The candidates below it in
the window that held it are skipped once more (R155). -/
def bindPoint (s : State) (core asid wid p : Nat) (lines : List Nat) : State :=
  match walkOf s asid wid with
  | none => s
  | some w =>
    let blk := blockOf core
    let home := candHome s asid wid p
    let kept := match home with
      | some x => (x.1, x.2.skip, x.2.entered)
      | none => (blk, 0, s.dev.time)
    let w1 := { w with
      pts := mapSet w.pts p (.bound core), boundAt := mapSet w.boundAt p s.dev.time, kept := mapSet w.kept p kept
      awaiting := if lines.isEmpty then w.awaiting else mapSet w.awaiting p lines }
    let s1 := setWalk s asid wid w1
    let s3 := match home with
      | some x => setCands s1 x.1 (afterBind asid wid p w.skipBound)
      | none => s1
    let k := coreOf s3 core
    let s4 := setCore s3 core { k with walkAtt := k.walkAtt.map (fun a => { a with bound := some p }) }
    visitRecord (lines.foldl (fun st l => post st (.forcedFillComplete core l)) s4) asid wid p core

/-- A point is bound whatever its residency: lines that are present are leased, the others are filled with a lease. -/
def bindForced (s : State) (core asid wid : Nat) (w : Walk) (p : Nat) : State :=
  let q := weevilReq asid w.core w.priv 0
  let here := (w.lines p).filter (lineThere s q)
  let away := (w.lines p).filter (fun l => !lineThere s q l)
  bindPoint (here.foldl (leaseLine q wid p core) s) core asid wid p away

/-- The lowest candidate whose leases every home grants; a refused tile is no longer known resident (R154). -/
def tryLease (core blk asid wid : Nat) (w : Walk) : List Cand → State → State
  | [], s => s
  | c :: cs, s =>
    let q := weevilReq asid w.core w.priv 0
    let gone := (List.range w.ntile).filter (fun j => !tileResident s q w j c.p)
    if gone.isEmpty then
      bindPoint ((w.lines c.p).foldl (leaseLine q wid c.p core) s) core asid wid c.p []
    else
      tryLease core blk asid wid w cs (setCands s blk (fun xs => xs.map (fun x =>
        if x.of asid wid = true ∧ x.p = c.p then { x with known := gone.foldl (fun m j => setBit m j false) x.known } else x)))

/-- Are all tiles of a candidate known resident? -/
def Cand.allKnown (c : Cand) (w : Walk) : Bool := (List.range w.ntile).all (fun j => c.known.getLsbD j)

/-- The walk that an idle attached core waits for a point of. -/
def idleAttached (s : State) (core : Nat) : Option (WalkAtt × Walk) :=
  match (coreOf s core).walkAtt with
  | none => none
  | some a =>
    if mayStart s core && a.bound.isNone && !a.epiBegun then (walkOf s a.asid a.wid).map (fun w => (a, w)) else none

/-- Is a core the first of the idle attached cores of its block and walk (R154)? -/
def hasTurn (s : State) (core : Nat) (a : WalkAtt) : Bool :=
  (attachedIn s (blockOf core) a.asid a.wid).all (fun c => decide (core ≤ c) || (idleAttached s c).isNone)

/-! ## Replay (R162) -/

/-- The address of a record of the trace. -/
def traceVa (w : Walk) (n : Nat) : Nat := (w.word 5).toNat + 16 * n

/-- A record of the trace: point and core, read for the core that opened the walk (R99), or the cause that its read meets. -/
def traceAt (s : State) (asid : Nat) (w : Walk) (n : Nat) : Except (BitVec 16) (Nat × Nat) :=
  let q := weevilReq asid w.core w.priv 0
  match peekBytes s w.core q (traceVa w n) 16 with
  | none => .error (peekCause s q (traceVa w n))
  | some bs =>
    let w0 := recWord bs 0
    .ok (field w0 47 0, field w0 63 48 + field (recWord bs 1) 3 0 * 2 ^ 16)

/-- The records of a trace from the n-th on, as far as it can be read: points and cores, with the records whose read meets a fault. A page
that is not present holds the trace there; a record that meets another cause is passed over (R162, R453). (DESIGN CHOICE: log 102.) -/
def traceFrom (s : State) (asid : Nat) (w : Walk) : Nat → Nat → List (Nat × Nat) × List (Nat × BitVec 16)
  | 0, _ => ([], [])
  | f + 1, n =>
    if w.traceStop = some n then ([], [(n, causeNotPresent)])
    else match traceAt s asid w n with
      | .ok r => let x := traceFrom s asid w f (n + 1); (r :: x.1, x.2)
      | .error c =>
        if causeCode c = causeNotPresent then ([], [(n, c)])
        else let x := traceFrom s asid w f (n + 1); (x.1, (n, c) :: x.2)

/-- Does a page that is not present hold the rest of a trace? -/
def traceHolds (bad : List (Nat × BitVec 16)) : Bool := bad.any (fun b => causeCode b.2 == causeNotPresent)

/-- The faults of a trace reported, once for each record, and the place where the trace is held (R453, R454). -/
def reportTrace (s : State) (asid wid : Nat) (bad : List (Nat × BitVec 16)) : State :=
  bad.foldl (fun st b =>
    match walkOf st asid wid with
    | none => st
    | some w =>
      let st1 := if w.traceBad.contains b.1 then st else raiseEngine st asid w.core 5 w.num b.2 (traceVa w b.1)
      setWalk st1 asid wid { w with
        traceBad := if w.traceBad.contains b.1 then w.traceBad else w.traceBad ++ [b.1]
        traceStop := if causeCode b.2 = causeNotPresent then some b.1 else w.traceStop }) s

/-- Does a core, running or saved, run or has it run the epilogue of a walk? -/
def begunAt (s : State) (asid wid core : Nat) : Bool :=
  let here (k : Core) : Bool := k.walkAtt.any (fun a => a.asid == asid && a.wid == wid && a.epiBegun)
  here (coreOf s core) || (allSavedCores s).any (fun x => x.pos % 2 ^ 20 == core && here x.core)

/-- Has a core of the attached rectangle left a walk for good: it began its epilogue, or the walk launch counts it as ended, by its
END or by containment (R162, R477)? -/
def leftWalk (s : State) (asid wid : Nat) (w : Walk) (core : Nat) : Bool :=
  begunAt s asid wid core || s.dev.placed.any (fun p => p.serial == w.serial && p.ended.contains core)

/-- The trace of a walk as far as it can be read now; none where it is not replayed. -/
def traceOf (s : State) (asid : Nat) (w : Walk) : List (Nat × Nat) × List (Nat × BitVec 16) :=
  if w.mode ≠ 2 then ([], []) else traceFrom s asid w w.tcap 0

/-- The bindings that a trace still holds: points below P, never bound, on cores of the attached rectangle that have not left the
walk. A core counts as attached from WVOPEN on, also before it joins, until its epilogue begins or it is contained; the trace is
looked at afresh at each decision. (DESIGN CHOICE: log 80.) -/
def traceLeft (s : State) (asid wid : Nat) (w : Walk) (records : List (Nat × Nat)) : List (Nat × Nat) :=
  records.filter (fun r =>
    decide (r.1 < w.points) && (mapGet w.boundAt r.1).isNone && coreIn r.2 w.rect && !leftWalk s asid wid w r.2)

/-! ## POINT_ISSUE (R154) -/

/-- Is there a point that an idle attached core takes now? -/
def pointFor (s : State) (core : Nat) : Bool :=
  match idleAttached s core with
  | none => false
  | some (a, w) =>
    let tr := traceOf s a.asid w
    let left := traceLeft s a.asid a.wid w tr.1
    tr.2.any (fun b => !w.traceBad.contains b.1 || (causeCode b.2 == causeNotPresent && w.traceStop != some b.1)) ||
    (if !left.isEmpty || traceHolds tr.2 then left.any (fun r => r.2 == core)
     else hasTurn s core a && (windowOf s (blockOf core) a.asid a.wid).any (fun c => c.isForced s w || c.allKnown w))

/-- An issue decision for a core: a point that the trace names, else, once the trace is at its end, one of its block's window. -/
def decidePoint (s0 : State) (core : Nat) (a : WalkAtt) (w0 : Walk) : State :=
  let tr := traceOf s0 a.asid w0
  let s := reportTrace s0 a.asid a.wid tr.2
  let w := (walkOf s a.asid a.wid).getD w0
  let left := traceLeft s a.asid a.wid w tr.1
  if !left.isEmpty || traceHolds tr.2 then
    match left.find? (fun r => r.2 == core) with
    | some r => bindForced s core a.asid a.wid w r.1
    | none => s
  else if !hasTurn s core a then s
  else
    let blk := blockOf core
    let win := windowOf s blk a.asid a.wid
    match win.find? (fun c => c.isForced s w) with
    | some c => bindForced s core a.asid a.wid w c.p
    | none => issuePrefetches (tryLease core blk a.asid a.wid w (win.filter (fun c => c.allKnown w)) s) blk

/-- POINT_ISSUE. (DEDUCED: log 48.) -/
def execPointIssue (core : Nat) (s : State) : Host.Outcome State Fault Refusal :=
  .next (match idleAttached s core with
    | none => s
    | some (a, w) => if pointFor s core then decidePoint s core a w else s)

/-- AGE_BOUND_EXPIRY (R156): a candidate older than A ticks is forced. -/
def execAgeBoundExpiry (blk asid wid p : Nat) (s : State) : Host.Outcome State Fault Refusal :=
  .next (match walkOf s asid wid, (windowOf s blk asid wid).find? (fun c => c.p == p) with
    | some w, some c =>
      setCands (advanceToTick s (c.entered + w.ageBound + 1)) blk (fun cs => cs.map (fun x =>
        if x.of asid wid = true ∧ x.p = p then { x with forced := true } else x))
    | _, _ => s)

/-! ## Forced fills (R156, R466) -/

/-- The point bound to a core, with the lines it waits for. -/
def waitingPoint (s : State) (core : Nat) : Option (Nat × Nat × Walk × Nat × List Nat) :=
  match (coreOf s core).walkAtt with
  | none => none
  | some a => match a.bound, walkOf s a.asid a.wid with
    | some p, some w =>
      let ls := missingLines s (weevilReq a.asid w.core w.priv 0) a.wid w p
      if ls.isEmpty then none else some (a.asid, a.wid, w, p, ls)
    | _, _ => none

/-- A fill with lease of one line of the point bound to a core: the home installs the line in class keep and leases it in one
step; one that finds no eligible way is retried. -/
def forcedFill (s : State) (core line : Nat) : State :=
  match waitingPoint s core with
  | none => s
  | some (asid, wid, w, p, ls) =>
    if !ls.contains line then s
    else match weevilFill s { weevilReq asid w.core w.priv 1 with who := some (.line core line) } line with
      | (s1, .gone) => post s1 (.forcedFillRetry core line)
      | (s1, .wait) => post s1 (.forcedFillComplete core line)
      | (s1, .here) =>
        let s2 := leaseLine (weevilReq asid w.core w.priv 1) wid p core s1 line
        setWalk s2 asid wid { w with awaiting := mapSet w.awaiting p (ls.filter (· != line)) }

/-- FORCED_FILL_COMPLETE. -/
def execForcedFillComplete (core : Nat) (line : Nat) (s : State) : Host.Outcome State Fault Refusal := .next (forcedFill s core line)

/-- The lines of the point bound to a core that are to be retried: those whose fill is not under way (R466). -/
def retryLines (s : State) (core : Nat) (ls : List Nat) : List Nat :=
  ls.filter (fun l => !s.pending.contains (.forcedFillComplete core l))

/-- The tick of the next retry for a point: the next multiple of 1,000 ticks after it was bound (R466). (DEDUCED: log 48.) -/
def retryTick (s : State) (w : Walk) (p : Nat) : Nat :=
  let t0 := (mapGet w.boundAt p).getD s.dev.time
  t0 + ((s.dev.time - t0) / 1000 + 1) * 1000

/-- FORCED_FILL_RETRY: the lines of the point that no way took are filled again, 1,000 ticks later. (DEDUCED: log 48.) -/
def execForcedFillRetry (core : Nat) (line : Nat) (s : State) : Host.Outcome State Fault Refusal :=
  .next (match waitingPoint s core with
    | none => s
    | some (_, _, w, p, ls) =>
      if !(retryLines s core ls).contains line then s
      else
        let again := retryLines s core ls
        let s1 := advanceToTick { s with pending := s.pending.filter (fun e => !again.any (fun l => e == .forcedFillRetry core l)) }
          (retryTick s w p)
        again.foldl (fun st l => forcedFill st core l) s1)

/-- WALK_STALL: A ticks after it was bound, the point starts without the leases it has not got, and kind 10 is raised. -/
def execWalkStall (core : Nat) (s : State) : Host.Outcome State Fault Refusal :=
  .next (match waitingPoint s core with
    | none => s
    | some (asid, wid, w, p, ls) =>
      if ls.isEmpty then s
      else
        let t0 := (mapGet w.boundAt p).getD s.dev.time
        let s1 := advanceToTick s (t0 + w.ageBound)
        raiseEvent (setWalk s1 asid wid { w with awaiting := mapErase w.awaiting p, given := p :: w.given }) asid 10 (BitVec.ofNat 64 p)
          (BitVec.ofNat 64 (wid + core % 2 ^ 20 * 2 ^ 16 + ls.length % 2 ^ 16 * 2 ^ 48)))

/-- The tick at which the first of a core's leases on a line ends. -/
def leaseEnd (ln : SliceLine) (core : Nat) : Option Nat :=
  (ln.leases.filter (fun l => l.core == core)).foldl (fun t l => some (t.elim l.until_ (min l.until_))) none

/-- LEASE_EXPIRY (R157): 10,000 ticks after its grant, a lease of a core on a line ends. -/
def execLeaseExpiry (blk pa core : Nat) (s : State) : Host.Outcome State Fault Refusal :=
  .next (match (mapGet (blockAt s blk).lines pa).bind (fun ln => leaseEnd ln core) with
    | none => s
    | some t =>
      let s1 := advanceToTick s t
      let b := blockAt s1 blk
      match mapGet b.lines pa with
      | none => s1
      | some ln => setBlock s1 blk { b with lines := mapSet b.lines pa { ln with
          leases := ln.leases.filter (fun x => decide (s1.dev.time < x.until_)) } })

/-! ## End of work (R159) -/

/-- Is every point of a walk dealt, and none a candidate or bound? -/
def workEnded (w : Walk) : Bool :=
  !w.epilogue && w.attach.isNone && decide (w.points ≤ w.cursor) &&
  w.pts.all (fun p => match p.2 with
    | .cand => false
    | .bound _ => false
    | _ => true)

/-- END_OF_WORK. -/
def execEndOfWork (asid wid : Nat) (s : State) : Host.Outcome State Fault Refusal :=
  .next (match walkOf s asid wid with
    | none => s
    | some w => if workEnded w then checkWalk (setWalk s asid wid { w with epilogue := true }) asid wid else s)

/-- The attached cores that have not begun the epilogue of a walk, wherever they stand, those that have not joined yet among them. -/
def walkersLeft (s : State) (asid wid : Nat) (w : Walk) : List Nat :=
  (rectCores (rectOf w.rect)).filter (fun c => !leftWalk s asid wid w c && !(coreOf s c).contained)

/-- The block whose window takes a point that returns: its own, or, after the signal, where that block has no core left that can run the
point, the block of the first core that can (R159). (DESIGN CHOICE: log 80.) -/
def returnBlock (s : State) (asid wid : Nat) (w : Walk) (blk : Nat) : Nat :=
  let bs := (walkersLeft s asid wid w).map blockOf
  if !w.epilogue || bs.contains blk then blk else bs.headD blk

/-- A point of a core that is stopped or contained returns to CANDIDATE in its window, its leases released (R157, R477), and its missing
tiles are prefetched (R153). -/
def returnPoint (s : State) (asid wid p : Nat) : State :=
  let s1 := dropLeases s asid wid p
  match walkOf s1 asid wid with
  | none => s1
  | some w =>
    let k := (mapGet w.kept p).getD (0, 0, s.dev.time)
    let blk := returnBlock s1 asid wid w k.1
    let w1 := { w with awaiting := mapErase w.awaiting p, given := w.given.filter (· != p), pts := mapSet w.pts p .cand }
    issuePrefetches (enterWindow (setWalk s1 asid wid w1) blk asid wid w1 p k.2.1 k.2.2) blk

/-- After end-of-work, a point that no attached core outside a containment can run is abandoned; the candidates of a window whose block
has no such core left go to the window of one that has (R159). -/
def abandonPoints (s : State) (asid wid : Nat) : State :=
  match walkOf s asid wid with
  | none => s
  | some w =>
    if !w.epilogue then checkWalk s asid wid
    else
      let olds := (s.blocks.map (fun b => (b.1, b.2.cands.filter (fun x => x.of asid wid)))).filter (fun b => !b.2.isEmpty)
      if (walkersLeft s asid wid w).isEmpty then
        let s1 := olds.foldl (fun st b => setCands st b.1 (fun cs => cs.filter (fun x => !x.of asid wid))) s
        checkWalk (setWalk s1 asid wid { w with pts := w.pts.map (fun p => (p.1, if p.2 = .cand then .abandoned else p.2)) }) asid wid
      else
        checkWalk (olds.foldl (fun st b =>
          let to_ := returnBlock s asid wid w b.1
          if to_ = b.1 then st
          else
            let st1 := setCands st b.1 (fun cs => cs.filter (fun x => !x.of asid wid))
            issuePrefetches (b.2.foldl (fun st2 c => setCands st2 to_ (insertCand c)) st1) to_) s) asid wid

/-! ## What is enabled -/

/-- The steps of a walk. -/
def enabledWalk (s : State) (asid wid : Nat) (w : Walk) : List Ev :=
  (if workEnded w then [Ev.endOfWork asid wid] else []) ++
  (((liveCores s).map blockOf).eraseDups.filter (fun b => mayTake s b asid wid)).map (fun b => Ev.weevilBatchTake b asid wid)

/-- The steps of the Weevils. -/
def enabledWeevil (s : State) : List Ev :=
  (s.ctxs.map (fun c => (c.2.walks.map (fun w => enabledWalk s c.1 w.1 w.2)).flatten)).flatten ++
  (s.blocks.map (fun b => (b.2.cands.filter (fun c => !c.forced)).map (fun c => Ev.ageBoundExpiry b.1 c.asid c.wid c.p))).flatten ++
  (s.blocks.map (fun b => (b.2.lines.map (fun l => l.2.leases.map (fun x => Ev.leaseExpiry b.1 l.1 x.core))).flatten)).flatten

/-- The steps of a core's walk: the issue of a point, the retried fill of a line whose lease has ended, the end of a point's wait. -/
def enabledWalker (s : State) (core : Nat) : List Ev :=
  (if pointFor s core then [Ev.pointIssue core] else []) ++
  (match waitingPoint s core with
    | none => []
    | some x => Ev.walkStall core ::
        ((retryLines s core x.2.2.2.2).filter (fun l => !s.pending.contains (.forcedFillRetry core l))).map (fun l => Ev.forcedFillRetry core l))

end Sys2Proof.Machine
end

