-- ==== Sys2Proof/Machine/Queue.lean ====
section
/-!
DEFINITION. Queue descriptors and their mirror (R385, R479), completion records (R389), and the Hive's reads and writes in a
context's memory (R99).
-/

namespace Sys2Proof.Machine

/-! ## The descriptor (Table 18.1) -/

/-- Address of a queue's descriptor. -/
def qAddr (s : State) (q : Nat) : Nat := field s.dev.qtbase 47 0 + 64 * q

/-- Address of its mirror. -/
def qMirror (s : State) (q : Nat) : Nat := qAddr s q + 0x4_0000

/-- A word of a queue's descriptor. -/
def qWord (s : State) (q j : Nat) : Word := hiveWord s (qAddr s q + 8 * j)

/-- A word written to a descriptor and to its mirror. -/
def qPut (s : State) (q j : Nat) (w : Word) : State :=
  let bs := leBytes 8 w.toNat
  hivePut (hivePut s (qAddr s q + 8 * j) bs) (qMirror s q + 8 * j) bs

def qRbase (s : State) (q : Nat) : Nat := field (qWord s q 0) 47 0
def qRlog (s : State) (q : Nat) : Nat := field (qWord s q 0) 52 48
def qCbase (s : State) (q : Nat) : Nat := field (qWord s q 1) 47 0
def qClog (s : State) (q : Nat) : Nat := field (qWord s q 1) 52 48
/-- 0 off, 1 active, 2 stopped, 3 lost. -/
def qSt (s : State) (q : Nat) : Nat := field (qWord s q 2) 17 16
def qAsid (s : State) (q : Nat) : Nat := field (qWord s q 2) 15 0
def qTail (s : State) (q : Nat) : Nat := field (qWord s q 3) 63 32
def qHead (s : State) (q : Nat) : Nat := field (qWord s q 3) 31 0
def qCseq (s : State) (q : Nat) : Nat := field (qWord s q 4) 63 32
def qEseq (s : State) (q : Nat) : Nat := field (qWord s q 4) 31 0

/-- The state of a queue set. -/
def qSetSt (s : State) (q st : Nat) : State := qPut s q 2 (putField (qWord s q 2) 17 16 st)

/-- Is a descriptor malformed (R385)? -/
def qMalformed (s : State) (q : Nat) : Bool :=
  field (qWord s q 0) 63 53 != 0 || field (qWord s q 1) 63 53 != 0 || field (qWord s q 2) 63 18 != 0 ||
  qWord s q 5 != 0 || qWord s q 6 != 0 || qWord s q 7 != 0 ||
  decide (qRlog s q < 4) || decide (16 < qRlog s q) || decide (qClog s q < 4) || decide (16 < qClog s q) ||
  qRbase s q % 64 != 0 || qCbase s q % 16 != 0

/-- The descriptor made readable (R479): a failed first copy is rewritten from the mirror; where both copies fail the queue is
lost, with kind 18. False where it is lost. -/
def qFetch (s : State) (q : Nat) : State × Bool :=
  if !poisonedIn s (qAddr s q) 64 then (s, true)
  else if !poisonedIn s (qMirror s q) 64 then (hivePut s (qAddr s q) (hiveGet s (qMirror s q) 64), true)
  else
    let readable := !(poisonedIn s (qAddr s q + 16) 8 && poisonedIn s (qMirror s q + 16) 8)
    let asid := if poisonedIn s (qAddr s q + 16) 8 then field (hiveWord s (qMirror s q + 16)) 15 0 else qAsid s q
    let s1 := qSetSt s q 3
    (if readable && (ctxOf s asid).isSome then raiseEvent s1 asid 18 (BitVec.ofNat 64 q) 0
     else superEvent s1 18 (BitVec.ofNat 64 q) 0, false)

/-- What the Hive holds of a queue. -/
def qState (s : State) (q : Nat) : QState := (mapGet s.dev.queues q).getD { open_ := [], locked := false }

/-- The state with it changed. -/
def setQ (s : State) (q : Nat) (x : QState) : State := setDev s { s.dev with queues := mapSet s.dev.queues q x }

/-! ## Completion (R389) -/

/-- A completion record where one is asked for, or where the status is not zero; the descriptor is made readable first, and a queue that
is lost gets none (R479). -/
def complete (s0 : State) (q : Nat) (seq : BitVec 32) (kind status : Nat) (cmp : Bool) : State :=
  let r := qFetch s0 q
  if cmp = false ∧ status = 0 then s0
  else if !r.2 then r.1
  else
    let s := r.1
    let n := qCseq s q
    let a := qCbase s q + 16 * (n % 2 ^ qClog s q)
    let w0 : Word := BitVec.ofNat 64 (seq.toNat + status % 2 ^ 16 * 2 ^ 32 + kind % 256 * 2 ^ 48)
    let s1 := hivePut s a (leBytes 8 w0.toNat ++ leBytes 8 s.dev.time)
    qPut s1 q 4 (putField (qWord s1 q 4) 63 32 (n + 1))

/-- A packet that had started completes: it leaves the open packets of its queue. -/
def closePacket (s : State) (k : Pkt) (kind status : Nat) : State :=
  let x := qState s k.q
  complete (setQ s k.q { x with open_ := x.open_.filter (fun p => p.seq != k.seq) }) k.q k.seq kind status k.cmp

/-- The LAUNCH packet of a launch, if a packet armed it, completes. -/
def closeLaunch (s : State) (q : Option (Nat × BitVec 32 × Bool)) (status : Nat) : State :=
  match q with
  | none => s
  | some (q, seq, cmp) => closePacket s { q := q, seq := seq, cmp := cmp } 1 status

/-! ## The Hive in a context's memory -/

/-- Bytes that the Hive reads in a context, for a request that a home's walk queue may list. (DEDUCED: log 53.) -/
def hiveRead (s : State) (asid va n : Nat) (who : Option Latch) : State × HomeAns :=
  if isAperture va then (s, .fault causeAperture)
  else readParts 0 false { hiveReq asid with r := true, who := who } (splitLines va n) s []

/-- Bytes that the Hive writes in a context. (DEDUCED: log 53.) -/
def hiveWrite (s : State) (asid va : Nat) (bytes : List Byte) (who : Option Latch) : State × HomeAns :=
  if isAperture va then (s, .fault causeAperture)
  else writeParts 0 false { hiveReq asid with w := true, who := who } bytes (splitLines va bytes.length) s

end Sys2Proof.Machine
end

