-- ==== Sys2Proof/Machine/Sha.lean ====
section
/-!
DEFINITION. SHA-384, which the spec names without defining it (R184, R186, R411, R412; notes/assumptions/10.md), and the
device's run record (R186).
-/

namespace Sys2Proof.Machine

/-! ## SHA-384 -/

/-- Round constants 0 to 9. -/
def shaK0 : List Word :=
  [0x428A_2F98_D728_AE22, 0x7137_4491_23EF_65CD, 0xB5C0_FBCF_EC4D_3B2F, 0xE9B5_DBA5_8189_DBBC, 0x3956_C25B_F348_B538,
   0x59F1_11F1_B605_D019, 0x923F_82A4_AF19_4F9B, 0xAB1C_5ED5_DA6D_8118, 0xD807_AA98_A303_0242, 0x1283_5B01_4570_6FBE]

/-- Round constants 10 to 19. -/
def shaK1 : List Word :=
  [0x2431_85BE_4EE4_B28C, 0x550C_7DC3_D5FF_B4E2, 0x72BE_5D74_F27B_896F, 0x80DE_B1FE_3B16_96B1, 0x9BDC_06A7_25C7_1235,
   0xC19B_F174_CF69_2694, 0xE49B_69C1_9EF1_4AD2, 0xEFBE_4786_384F_25E3, 0x0FC1_9DC6_8B8C_D5B5, 0x240C_A1CC_77AC_9C65]

/-- Round constants 20 to 29. -/
def shaK2 : List Word :=
  [0x2DE9_2C6F_592B_0275, 0x4A74_84AA_6EA6_E483, 0x5CB0_A9DC_BD41_FBD4, 0x76F9_88DA_8311_53B5, 0x983E_5152_EE66_DFAB,
   0xA831_C66D_2DB4_3210, 0xB003_27C8_98FB_213F, 0xBF59_7FC7_BEEF_0EE4, 0xC6E0_0BF3_3DA8_8FC2, 0xD5A7_9147_930A_A725]

/-- Round constants 30 to 39. -/
def shaK3 : List Word :=
  [0x06CA_6351_E003_826F, 0x1429_2967_0A0E_6E70, 0x27B7_0A85_46D2_2FFC, 0x2E1B_2138_5C26_C926, 0x4D2C_6DFC_5AC4_2AED,
   0x5338_0D13_9D95_B3DF, 0x650A_7354_8BAF_63DE, 0x766A_0ABB_3C77_B2A8, 0x81C2_C92E_47ED_AEE6, 0x9272_2C85_1482_353B]

/-- Round constants 40 to 49. -/
def shaK4 : List Word :=
  [0xA2BF_E8A1_4CF1_0364, 0xA81A_664B_BC42_3001, 0xC24B_8B70_D0F8_9791, 0xC76C_51A3_0654_BE30, 0xD192_E819_D6EF_5218,
   0xD699_0624_5565_A910, 0xF40E_3585_5771_202A, 0x106A_A070_32BB_D1B8, 0x19A4_C116_B8D2_D0C8, 0x1E37_6C08_5141_AB53]

/-- Round constants 50 to 59. -/
def shaK5 : List Word :=
  [0x2748_774C_DF8E_EB99, 0x34B0_BCB5_E19B_48A8, 0x391C_0CB3_C5C9_5A63, 0x4ED8_AA4A_E341_8ACB, 0x5B9C_CA4F_7763_E373,
   0x682E_6FF3_D6B2_B8A3, 0x748F_82EE_5DEF_B2FC, 0x78A5_636F_4317_2F60, 0x84C8_7814_A1F0_AB72, 0x8CC7_0208_1A64_39EC]

/-- Round constants 60 to 69. -/
def shaK6 : List Word :=
  [0x90BE_FFFA_2363_1E28, 0xA450_6CEB_DE82_BDE9, 0xBEF9_A3F7_B2C6_7915, 0xC671_78F2_E372_532B, 0xCA27_3ECE_EA26_619C,
   0xD186_B8C7_21C0_C207, 0xEADA_7DD6_CDE0_EB1E, 0xF57D_4F7F_EE6E_D178, 0x06F0_67AA_7217_6FBA, 0x0A63_7DC5_A2C8_98A6]

/-- Round constants 70 to 79. -/
def shaK7 : List Word :=
  [0x113F_9804_BEF9_0DAE, 0x1B71_0B35_131C_471B, 0x28DB_77F5_2304_7D84, 0x32CA_AB7B_40C7_2493, 0x3C9E_BE0A_15C9_BEBC,
   0x431D_67C4_9C10_0D4C, 0x4CC5_D4BE_CB3E_42B6, 0x597F_299C_FC65_7E2A, 0x5FCB_6FAB_3AD6_FAEC, 0x6C44_198C_4A47_5817]

/-- The 80 round constants: fractional bits of the cube roots of the first 80 primes. -/
def shaK : List Word := shaK0 ++ shaK1 ++ shaK2 ++ shaK3 ++ shaK4 ++ shaK5 ++ shaK6 ++ shaK7

/-- The eight working words. -/
structure ShaSt where
  a : Word
  b : Word
  c : Word
  d : Word
  e : Word
  f : Word
  g : Word
  h : Word
  deriving DecidableEq, Repr

/-- The first hash value: fractional bits of the square roots of the ninth to sixteenth primes. -/
def shaInit : ShaSt :=
  { a := 0xCBBB_9D5D_C105_9ED8
    b := 0x629A_292A_367C_D507
    c := 0x9159_015A_3070_DD17
    d := 0x152F_ECD8_F70E_5939
    e := 0x6733_2667_FFC0_0B31
    f := 0x8EB4_4A87_6858_1511
    g := 0xDB0C_2E0D_64F9_8FA7
    h := 0x47B5_481D_BEFA_4FA4 }

/-- The message schedule, newest word first; the last argument counts the words still to make. -/
def shaSchedule : Nat → List Word → List Word
  | 0, w => w
  | n + 1, w =>
    let w2 := w.getD 1 0
    let w7 := w.getD 6 0
    let w15 := w.getD 14 0
    let w16 := w.getD 15 0
    let s0 := w15.rotateRight 1 ^^^ w15.rotateRight 8 ^^^ (w15 >>> 7)
    let s1 := w2.rotateRight 19 ^^^ w2.rotateRight 61 ^^^ (w2 >>> 6)
    shaSchedule n ((w16 + s0 + w7 + s1) :: w)

/-- One round. -/
def shaRound (x : ShaSt) (k w : Word) : ShaSt :=
  let s1 := x.e.rotateRight 14 ^^^ x.e.rotateRight 18 ^^^ x.e.rotateRight 41
  let ch := (x.e &&& x.f) ^^^ (~~~x.e &&& x.g)
  let t1 := x.h + s1 + ch + k + w
  let s0 := x.a.rotateRight 28 ^^^ x.a.rotateRight 34 ^^^ x.a.rotateRight 39
  let mj := (x.a &&& x.b) ^^^ (x.a &&& x.c) ^^^ (x.b &&& x.c)
  { a := t1 + (s0 + mj), b := x.a, c := x.b, d := x.c, e := x.d + t1, f := x.e, g := x.f, h := x.g }

/-- A big-endian word of eight bytes. -/
def beWord (bs : List Byte) : Word := BitVec.ofNat 64 (leNat bs.reverse)

/-- One block of 128 bytes. -/
def shaBlock (x : ShaSt) (blk : List Byte) : ShaSt :=
  let w := ((List.range 16).map (fun i => beWord ((blk.drop (8 * i)).take 8))).reverse
  let y := (shaK.zip (shaSchedule 64 w).reverse).foldl (fun st kw => shaRound st kw.1 kw.2) x
  { a := x.a + y.a, b := x.b + y.b, c := x.c + y.c, d := x.d + y.d, e := x.e + y.e, f := x.f + y.f, g := x.g + y.g
    h := x.h + y.h }

/-- The blocks of a padded message. -/
def shaBlocks : Nat → ShaSt → List Byte → ShaSt
  | 0, x, _ => x
  | n + 1, x, bs => shaBlocks n (shaBlock x (bs.take 128)) (bs.drop 128)

/-- SHA-384 of bytes, 48 bytes. (PRESUMED: log 10.) -/
def sha384 (bs : List Byte) : List Byte :=
  let pad := (239 - bs.length % 128) % 128
  let m := bs ++ (0x80#8 :: List.replicate pad 0) ++ (leBytes 16 (8 * bs.length)).reverse
  let r := shaBlocks (m.length / 128) shaInit m
  ([r.a, r.b, r.c, r.d, r.e, r.f].map (fun (w : Word) => (leBytes 8 w.toNat).reverse)).flatten

/-! ## The run record (R186) -/

/-- The 64 bytes of an event (Table 9.9). -/
def runEvent (n kind asid tick : Nat) (dig : List Byte) : List Byte :=
  leBytes 8 (kind % 256 + asid % 2 ^ 16 * 2 ^ 16 + n % 2 ^ 32 * 2 ^ 32) ++ leBytes 8 tick ++ dig

/-- An event appended to the run record: 1 measurement, 2 launch, 3 seed push, 4 seed pop, 5 seed fork. The first event has
number 1. -/
def runAppend (s : State) (kind asid : Nat) (image : List Byte) : State :=
  let n := s.dev.runN + 1
  setDev s { s.dev with
    runN := n, runH := sha384 (s.dev.runH ++ runEvent n kind asid s.dev.time (sha384 image)) }

end Sys2Proof.Machine
end

