-- ==== Sys2Proof/Machine/Launch.lean ====
section
/-!
DEFINITION. Launch records (R380 to R383, R391), arming, the placer (R392 to R395, R468) and the end of a launch.
-/

namespace Sys2Proof.Machine

/-! ## Records -/

/-- Address of a launch record. -/
def lrAddr (s : State) (asid i : Nat) : Nat := ((ctxOf s asid).map (·.tab.pool)).getD 0 + 64 * i

/-- The Hive's state of a record. -/
def lrState (s : State) (asid i : Nat) : LrState :=
  ((ctxOf s asid).bind (fun c => mapGet c.records i)).getD { st := 0, done := 0, copy := [] }

/-- The value of Table 17.5. -/
def lrWord (st done : Nat) : Word := BitVec.ofNat 64 (st + done % 2 ^ 32 * 2 ^ 32)

/-- Word 0x38 of a record written as the Hive has it; where the home cannot take it yet, it is written later (R102, R391). -/
def lrPut (s : State) (asid i : Nat) : State :=
  let r := lrState s asid i
  let left := s.dev.lrWrites.filter (· != (asid, i))
  match hiveWrite s asid (lrAddr s asid i + 0x38) (leBytes 8 (lrWord r.st r.done).toNat) (some (.lr asid i)) with
  | (s1, .wait) => setDev s1 { s1.dev with lrWrites := left ++ [(asid, i)] }
  | (s1, _) => setDev s1 { s1.dev with lrWrites := left }

/-- The words that await their write are written where their homes take them. -/
def lrDrain (s : State) : State := s.dev.lrWrites.foldl (fun st x => lrPut st x.1 x.2) s

/-- The state of a record changed, in the Hive and in its word 0x38. -/
def setLr (s : State) (asid i : Nat) (r : LrState) : State :=
  match ctxOf s asid with
  | none => s
  | some c => lrPut (setCtx s asid { c with records := mapSet c.records i r }) asid i

/-- The outcome of a request to arm a record; a record that cannot be read has none in the spec, and one whose home has not answered yet
is asked again. -/
inductive ArmRes where
  | wait
  | armed
  | busy
  | unbuilt
  | unreadable
  deriving DecidableEq, Repr

/-- A record is armed (R391): it is copied, and its launch joins the waiting list. (DESIGN CHOICE: log 49.) -/
def armRecord (s : State) (asid i : Nat) (q : Option (Nat × BitVec 32 × Bool)) (who : Option Latch) : State × ArmRes :=
  if (lrState s asid i).st ≠ 0 then (s, .busy)
  else match hiveRead s asid (lrAddr s asid i) 64 who with
    | (s1, .fault _) => (s1, .unreadable)
    | (s1, .wait) => (s1, .wait)
    | (s1, .bytes bs) =>
      if !(recWord bs 5).getLsbD 63 then (s1, .unbuilt)
      else
        let s2 := setLr s1 asid i { lrState s1 asid i with st := 1, copy := (List.range 8).map (recWord bs) }
        let w : Waiting :=
          { asid := asid, index := i, armed := s2.dev.time, order := s2.dev.armN, q := q, resv := none, starved := false }
        (post (setDev s2 { s2.dev with waiting := s2.dev.waiting ++ [w], armN := s2.dev.armN + 1 }) .placement, .armed)

/-- Result register of a request whose outcome the spec does not state. -/
def writeOpen (d : XReg) (s : State) : Res :=
  let w := drawWord s
  writeX d w.1 w.2

/-- Field offsets that LRPATCH selects. -/
def patchOffset (n : Nat) : Nat := [0x00, 0x10, 0x18, 0x20].getD n 0

/-- The effect of LRPATCH (R380). -/
def lrpatchRes (d a b c : XReg) (s : State) : Res :=
  let i := (xget s a).toNat
  let f := (xget s b).toNat
  if 4096 ≤ i ∨ 4 ≤ f then .trap causeMemOperand 0
  else if (lrState s (myAsid s) i).st ≠ 0 then writeX d 1 s
  else match hiveWrite s (myAsid s) (lrAddr s (myAsid s) i + patchOffset f) (leBytes 8 (xget s c).toNat) none with
    | (s1, .bytes _) => writeX d 0 s1
    | (s1, .fault _) => writeOpen d s1
    | (_, .wait) => .wait

/-- LRPATCH. (DESIGN CHOICE: log 49.) -/
def execLrpatch (h : Hdr) (d a b c : XReg) (s : State) : Host.Outcome State Fault Refusal :=
  issue infoC h { xr := [a, b, c], xw := [d] } (lrpatchRes d a b c) s

/-- The effect of LRARM (R381): a release at device scope, then the request. -/
def lrarmRes (d a : XReg) (s : State) : Res :=
  let i := (xget s a).toNat
  if 4096 ≤ i then .trap causeMemOperand 0
  else releaseFirst deviceScope s (fun s =>
    match armRecord s (myAsid s) i none none with
    | (s1, .armed) => writeX d 0 s1
    | (s1, .busy) => writeX d 1 s1
    | (s1, .unbuilt) => writeX d 2 s1
    | (s1, .unreadable) => writeOpen d s1
    | (_, .wait) => .wait)

/-- LRARM. (DESIGN CHOICE: log 49.) -/
def execLrarm (h : Hdr) (d a : XReg) (s : State) : Host.Outcome State Fault Refusal :=
  issue infoC h { xr := [a], xw := [d] } (lrarmRes d a) s

/-- The effect of LRQRY (R382). -/
def lrqryRes (d a : XReg) (s : State) : Res :=
  let i := (xget s a).toNat
  if 4096 ≤ i then .trap causeMemOperand 0
  else
    let r := lrState s (myAsid s) i
    if r.st ≠ 0 then writeX d (lrWord r.st r.done) s
    else match hiveRead s (myAsid s) (lrAddr s (myAsid s) i) 64 none with
      | (s1, .bytes bs) => writeX d (lrWord (if (recWord bs 5).getLsbD 63 then 0 else 3) r.done) s1
      | (s1, .fault _) => writeOpen d s1
      | (_, .wait) => .wait

/-- LRQRY. (DESIGN CHOICE: log 49.) -/
def execLrqry (h : Hdr) (d a : XReg) (s : State) : Host.Outcome State Fault Refusal :=
  issue infoC h { xr := [a], xw := [d] } (lrqryRes d a) s

/-- SEEDRD (R383). -/
def execSeedrd (h : Hdr) (hi : Bool) (d : XReg) (s : State) : Host.Outcome State Fault Refusal :=
  issue infoC h { xw := [d] } (fun s => writeX d (s.core.seed.extractLsb' (if hi then 64 else 0) 64) s) s

/-! ## Groups -/

/-- A group of a launch: rectangle, barrier program, entry count. -/
structure Group where
  rect : Word
  prog : Nat
  count : Nat
  deriving DecidableEq, Repr

/-- A word of an armed record. -/
def recAt (r : List Word) (j : Nat) : Word := r.getD j 0

/-- Number of groups of a record. -/
def recGroups (r : List Word) : Nat := field (recAt r 5) 31 16
/-- Window contribution in KiB. -/
def recWin (r : List Word) : Nat := 8 * field (recAt r 5) 2 0
/-- L1 size in KiB. -/
def recL1 (r : List Word) : Nat := 12 * field (recAt r 5) 4 3

/-- The groups of a group table. -/
def groupsFrom (bs : List Byte) (n : Nat) : List Group :=
  (List.range n).map (fun i =>
    { rect := recWord bs (4 * i), prog := (recWord bs (4 * i + 1)).toNat, count := field (recWord bs (4 * i + 2)) 16 0 })

/-- Are the fields of a group table in range, and its reserved fields zero? -/
def groupFieldsOk (bs : List Byte) (n : Nat) : Bool :=
  (List.range n).all (fun i =>
    recWord bs (4 * i + 3) == 0 && field (recWord bs (4 * i + 2)) 63 17 == 0 &&
    decide (1 ≤ field (recWord bs (4 * i + 2)) 16 0) && decide (field (recWord bs (4 * i + 2)) 16 0 ≤ 65536))

/-- The conditions of R47 on one group. -/
def groupOk (rect : Word) (g : Group) : Bool :=
  let f := rectOf g.rect
  !malformedRect g.rect && decide (rectCount f ≤ 32) && f.row0 / 64 == f.row1 / 64 && f.col0 / 64 == f.col1 / 64 &&
  rectWithin f (rectOf rect)

/-- Are groups disjoint? -/
def disjointGroups : List Group → Bool
  | [] => true
  | g :: gs => gs.all (fun h => !rectsMeet (rectOf g.rect) (rectOf h.rect)) && disjointGroups gs

/-- Block of a group. -/
def groupBlock (g : Group) : Nat := let f := rectOf g.rect; blockOf (coreAt f.row0 f.col0)

/-- Does no block need more than 128 groups? -/
def groupsPerBlockOk (gs : List Group) : Bool := gs.all (fun g => decide ((gs.filter (fun h => groupBlock h == groupBlock g)).length ≤ 128))

/-- The bytes of the group table of a record as they stand in memory; none where an address fails. -/
def peekTable (s : State) (asid : Nat) (r : List Word) : Option (List Byte) :=
  (splitLines (recAt r 6).toNat (32 * recGroups r)).foldl (fun acc p =>
      acc.bind (fun b => (peekBytes s 0 { hiveReq asid with r := true } p.1 p.2.1).map (fun c => b ++ c))) (some [])

/-- The group table of a record with its fields checked; where it cannot be used, the status of Table 18.3: 8 for an
address that fails, 6 for a field. -/
def peekGroups (s : State) (asid : Nat) (r : List Word) : Except Nat (List Group) :=
  if recGroups r = 0 then .ok []
  else if (recAt r 6).toNat % 32 ≠ 0 then .error 8
  else match peekTable s asid r with
    | none => .error 8
    | some bs => if groupFieldsOk bs (recGroups r) then .ok (groupsFrom bs (recGroups r)) else .error 6

/-! ## Candidates (R392) -/

/-- A rectangle moved by rows and columns. -/
def shiftRect (x : Word) (from_ to_ : RectF) : Word :=
  let f := rectOf x
  rectWord { row0 := f.row0 - from_.row0 + to_.row0, col0 := f.col0 - from_.col0 + to_.col0
             row1 := f.row1 - from_.row0 + to_.row0, col1 := f.col1 - from_.col0 + to_.col0 }

/-- The positions congruent to a rectangle's modulo 64 in row and column, by rising row, then column. -/
def congruent (x : Word) : List Word :=
  let f := rectOf x
  ((List.range 16).map (fun i => (List.range 16).map (fun j =>
    { row0 := f.row0 % 64 + 64 * i, col0 := f.col0 % 64 + 64 * j
      row1 := f.row0 % 64 + 64 * i + (f.row1 - f.row0), col1 := f.col0 % 64 + 64 * j + (f.col1 - f.col0) : RectF }))).flatten.filter
    (fun g => decide (g.row1 ≤ 1023) && decide (g.col1 ≤ 1023)) |>.map rectWord

/-- The candidates of a launch within its context's grants. -/
def candidates (s : State) (asid : Nat) (r : List Word) : List Word :=
  let rect := recAt r 0
  (if (recAt r 1).getLsbD 56 then congruent rect else [rect]).filter (rectGranted s asid)

/-- The checks of R392 on a record and its groups. -/
def launchOk (s : State) (asid : Nat) (r : List Word) (gs : List Group) : Bool :=
  !malformedRect (recAt r 0) && field (recAt r 1) 2 0 == 0 && field (recAt r 1) 63 57 == 0 && field (recAt r 5) 62 32 == 0 &&
  field (recAt r 5) 15 10 == 0 && decide (field (recAt r 5) 2 0 ≤ 6) && decide (field (recAt r 5) 4 3 ≤ 2) &&
  decide (1 ≤ field (recAt r 5) 8 5) && decide (field (recAt r 5) 8 5 ≤ 8) && decide (recGroups r ≤ 32768) &&
  gs.all (groupOk (recAt r 0)) && disjointGroups gs && groupsPerBlockOk gs &&
  !(candidates s asid r).isEmpty

/-! ## Placeable (R393) -/

/-- The records that a core runs or holds. -/
def coreRecords (k : Core) : List TaskRec := k.taskRec.toList ++ k.inbox

/-- Does a core run a task or hold an inbox record (R394)? -/
def coreBusy (k : Core) : Bool := k.taskRec.isSome || !k.inbox.isEmpty

/-- Do the inboxes of a rectangle have a free entry each? -/
def inboxesFree (s : State) (x : Word) : Bool :=
  (liveCores s).all (fun c => !coreIn c x || decide ((coreOf s c).inbox.length < 2))

/-- Does every octet of a rectangle meet R77 for a split? -/
def octetsFree (s : State) (asid win l1 : Nat) (x : Word) : Bool :=
  (liveCores s).all (fun c =>
    !((List.range 8).map (octetCore c)).any (fun o => o != c && coreIn o x) ||
    (coreRecords (coreOf s c)).all (fun r => r.asid == asid && r.win == win && r.l1 == l1))

/-- The reservations of launches and saved rectangles, with the waiting entry that holds each. -/
def reservations (s : State) : List (Nat × Nat × Word) :=
  s.dev.waiting.filterMap (fun w => w.resv.map (fun x => (w.asid, w.index, x))) ++
  (s.ctxs.map (fun c => ((List.range c.2.saved.length).zip c.2.saved).filterMap (fun r =>
    r.2.resv.map (fun x => (c.1, 4096 + r.1, x))))).flatten

/-- Does a rectangle meet no reservation of another? -/
def notReserved (s : State) (asid index : Nat) (x : Word) : Bool :=
  (reservations s).all (fun r => (r.1 == asid && r.2.1 == index) || !rectsMeet (rectOf r.2.2) (rectOf x))

/-- Does a rectangle meet no contained rectangle, and no block being repaired or withdrawn (R474 to R476)? -/
def notContained (s : State) (x : Word) : Bool :=
  s.dev.contained.all (fun c => !rectsMeet (rectOf c) (rectOf x)) && s.dev.retiring.all (fun r => !rectMeetsBlock (rectOf x) r.1)

/-- The gated blocks that a rectangle meets. -/
def gatedIn (s : State) (x : Word) : List Nat :=
  (s.blocks.filter (fun b => b.2.gated && rectMeetsBlock (rectOf x) b.1)).map (·.1)

/-- Is a sequencer free: IDLE, and of no launch that has not ended? -/
def seqFree (s : State) (blk q : Nat) : Bool :=
  (seqAt s blk q).st == .idle && !s.dev.placed.any (fun p => p.seqs.any (fun x => x.1 == blk && x.2.1 == q))

/-- A free sequencer for each group, the lowest of its block; none where a block has too few. (DEDUCED: log 50.) -/
def planSeqs (s : State) : List Group → List (Nat × Nat) → Option (List (Nat × Nat))
  | [], taken => some taken
  | g :: gs, taken =>
    let b := groupBlock g
    match (List.range 128).find? (fun q => seqFree s b q && !taken.contains (b, q)) with
    | none => none
    | some q => planSeqs s gs (taken ++ [(b, q)])

/-- The lowest free launch domain. -/
def freeDomain (s : State) : Option Nat := (List.range 256).find? (fun n => (mapGet s.dev.ldoms n).isNone)

/-- Is a candidate placeable? -/
def placeable (s : State) (asid index : Nat) (r : List Word) (gs : List Group) (x : Word) : Bool :=
  inboxesFree s x && octetsFree s asid (recWin r) (recL1 r) x && notReserved s asid index x && notContained s x &&
  (planSeqs s (gs.map (fun g => { g with rect := shiftRect g.rect (rectOf (recAt r 0)) (rectOf x) })) []).isSome &&
  (!(recAt r 5).getLsbD 9 || (freeDomain s).isSome)

/-- Is every core of a rectangle idle with an empty inbox (R394)? -/
def allIdle (s : State) (x : Word) : Bool := (liveCores s).all (fun c => !coreIn c x || !coreBusy (coreOf s c))

/-- Where a launch is placed: on its reservation once all of it is idle (R394), else on its lowest placeable candidate (R393). -/
def placeFor (s : State) (w : Waiting) (r : List Word) (gs : List Group) : Option Word :=
  match w.resv.filter (fun x => allIdle s x && placeable s w.asid w.index r gs x) with
  | some x => some x
  | none => (candidates s w.asid r).find? (placeable s w.asid w.index r gs)

/-! ## Placing (R395) -/

/-- Block-local fields of a group rectangle, as MEMBERSHIP holds them (Table 2.4). -/
def localFields (x : Word) : Word :=
  let f := rectOf x
  BitVec.ofNat 64 (f.row0 % 64 + f.col0 % 64 * 2 ^ 6 + f.row1 % 64 * 2 ^ 12 + f.col1 % 64 * 2 ^ 18)

/-- The task record of a core (Table 18.5), with the group fields that its block sends it. -/
def taskRecord (w : Waiting) (r : List Word) (x : Word) (serial : Nat) (ldom : Option Nat) (seed : BitVec 128)
    (gs : List (Group × Nat × Nat)) (core : Nat) : TaskRec :=
  let g := gs.find? (fun g => coreIn core g.1.rect)
  { kind := 0, asid := w.asid, serial := serial, task := recAt r 1 &&& 0x00FF_FFFF_FFFF_FFFF, rect := x
    arg0 := recAt r 2, arg1 := recAt r 3, arg2 := recAt r 4, win := recWin r, l1 := recL1 r, mqw := field (recAt r 5) 8 5
    dv := ldom.isSome, ldom := ldom.getD 0, gv := g.isSome
    seq := (g.map (·.2.2)).getD 0, midx := (g.map (fun g => memberIdx core (rectOf g.1.rect))).getD 0
    grect := (g.map (fun g => localFields g.1.rect)).getD 0, wid := 0, seed := seed }

/-- A group's sequencer is started at entry 0 (R52). -/
def startSeq (asid : Nat) (s : State) (g : Group × Nat × Nat) : State :=
  let f := rectOf g.1.rect
  setSeq s g.2.1 g.2.2 { Sequencer.reset with
    st := .run, base := g.1.prog, pcnt := g.1.count, asid := asid, gsz := rectCount f, core0 := coreAt f.row0 f.col0
    gcols := rectCols f }

/-- A record enters a core's inbox; a core that was stopped there serves placement again. -/
def deliverRec (mk : Nat → TaskRec) (s : State) (core : Nat) : State :=
  let k := coreOf s core
  setCore s core { k with inbox := k.inbox ++ [mk core], stopped := false }

/-- A launch is placed on a candidate. -/
def placeLaunch (s0 : State) (w : Waiting) (x : Word) (gs0 : List Group) : State :=
  let lr := lrState s0 w.asid w.index
  let r := lr.copy
  let serial := s0.dev.serial + 1
  let seed := ((ctxOf s0 w.asid).bind (fun c => c.seeds.getLast?)).getD 0
  let gs1 := gs0.map (fun g => { g with rect := shiftRect g.rect (rectOf (recAt r 0)) (rectOf x) })
  let gs := gs1.zip ((planSeqs s0 gs1 []).getD [])
  let ldom := if (recAt r 5).getLsbD 9 then freeDomain s0 else none
  let s1 := runAppend (setDev s0 { s0.dev with serial := serial }) 2 w.asid ((r.map (fun v => leBytes 8 v.toNat)).flatten)
  let s2 := gs.foldl (startSeq w.asid) s1
  let p : Placed :=
    { serial := serial, armed := w.armed, order := w.order, starved := w.starved, asid := w.asid, index := some w.index, wid := 0, rect := x, q := w.q, ended := []
      seqs := gs.map (fun g => (g.2.1, g.2.2, coreAt (rectOf g.1.rect).row0 (rectOf g.1.rect).col0)), ldom := ldom, seed := seed
      contained := false, barFault := false, seqFault := [], parent := none }
  let doms := match ldom with
    | none => s2.dev.ldoms
    | some n => mapSet s2.dev.ldoms n { serial := serial, n := rectCount (rectOf x), arrived := [], first := 0, last := 0
                                        lastCore := 0, sum := 0, release := none }
  let s3 := setDev s2 { s2.dev with
    ldoms := doms, placed := s2.dev.placed ++ [p]
    waiting := s2.dev.waiting.filter (fun v => !(v.asid == w.asid && v.index == w.index)) }
  let s4 := (rectCores (rectOf x)).foldl (deliverRec (taskRecord w r x serial ldom seed gs)) s3
  setLr s4 w.asid w.index { lrState s4 w.asid w.index with st := 2 }

/-- A launch is refused at placement with a status of Table 18.3 (R392). -/
def refuseLaunch (s : State) (w : Waiting) (status : Nat) : State :=
  let s1 := setDev s { s.dev with waiting := s.dev.waiting.filter (fun v => !(v.asid == w.asid && v.index == w.index)) }
  closeLaunch (setLr s1 w.asid w.index { lrState s1 w.asid w.index with st := 0 }) w.q status

/-- What the placer would do with a waiting launch now: refuse it, place it, or wake blocks. -/
inductive PlaceAct where
  | refuse (status : Nat)
  | place (x : Word) (gs : List Group)
  | wake (bs : List Nat)
  | hold
  deriving DecidableEq, Repr

/-- The placer's decision on a waiting launch. A launch whose context is not resident waits. (DEDUCED: log 50.) -/
def placeAct (s : State) (w : Waiting) : PlaceAct :=
  let r := (lrState s w.asid w.index).copy
  if (ctxOf s w.asid).any (·.resident) = false then .hold
  else match peekGroups s w.asid r with
    | .error e => .refuse (if launchOk s w.asid r [] then e else 6)
    | .ok gs =>
      if !launchOk s w.asid r gs then .refuse 6
      else match placeFor s w r gs with
        | none => .hold
        | some x => if (gatedIn s x).isEmpty then .place x gs else .wake (gatedIn s x)

/-- A walk whose attaching records can be delivered now (R151). -/
def walkReady (s : State) (w : Walk) : Bool :=
  match w.attach with
  | none => false
  | some r => inboxesFree s w.rect && octetsFree s r.asid r.win r.l1 w.rect && notReserved s r.asid 8192 w.rect &&
      notContained s w.rect

/-- The walks of every context. -/
def allWalks (s : State) : List (Nat × Nat × Walk) :=
  (s.ctxs.map (fun c => c.2.walks.map (fun w => (c.1, w.1, w.2)))).flatten

/-- The attaching records of a walk are delivered. -/
def deliverWalk (s : State) (asid wid : Nat) (w : Walk) : State :=
  match w.attach with
  | none => s
  | some r =>
    (rectCores (rectOf w.rect)).foldl (deliverRec (fun _ => r)) (setWalk s asid wid { w with attach := none })

/-! ## Saved rectangles (R48, R50, R68, R394) -/

/-- Positions that the cores of a saved rectangle left. -/
def savedCores (r : SavedRect) : List Nat := r.cores.map (fun x => x.pos % 2 ^ 20)

/-- Have all cores of a saved rectangle been saved? -/
def savedComplete (s : State) (r : SavedRect) : Bool := (liveCores s).all (fun c => !coreIn c r.rect || !(coreOf s c).stopReq)

/-- The serial numbers of the launches that a core is a member of: those of its records, and those of its timeline sets, which a launch
whose END it retired leaves on it (R127). -/
def coreSerials (k : Core) : List Nat := (coreRecords k).map (·.serial) ++ (k.tls.toList ++ k.tlsPrev.toList).map (·.serial)

/-- The serial numbers of the launches that saved cores are members of. -/
def savedSerials (r : SavedRect) : List Nat := ((r.cores.map (fun x => coreSerials x.core)).flatten).eraseDups

/-- May a saved rectangle move: does every launch of it lie wholly within it (R68)? -/
def movable (s : State) (r : SavedRect) : Bool :=
  (savedSerials r).all (fun n => match s.dev.placed.find? (fun p => p.serial == n) with
    | some p => (rectCores (rectOf p.rect)).all (savedCores r).contains
    | none => true)

/-- A core moved with its rectangle. -/
def shiftCore (f g : RectF) (c : Nat) : Nat := coreAt (rowOf c - f.row0 + g.row0) (colOf c - f.col0 + g.col0)

/-- The group of a sequencer. -/
def Sequencer.group (q : Sequencer) : Group :=
  let g := max 1 q.gcols
  { rect := rectWord { row0 := rowOf q.core0, col0 := colOf q.core0, row1 := rowOf q.core0 + (q.gsz - 1) / g
                       col1 := colOf q.core0 + (g - 1) }
    prog := q.base, count := q.pcnt }

/-- The saved sequencers of a context whose groups have members among the cores of a rectangle. -/
def savedSeqs (s : State) (asid : Nat) (r : SavedRect) : List (Nat × Nat × Sequencer) :=
  match ctxOf s asid with
  | none => []
  | some c => ((c.saved.map (·.seqs)).flatten).filter (fun x =>
      (rectCores (rectOf x.2.2.group.rect)).any (savedCores r).contains)

/-- The sequencers that a restore on a position takes: those the groups had, or free ones of other blocks. (DEDUCED: log 41.) -/
def restorePlan (s : State) (asid : Nat) (r : SavedRect) (x : Word) : Option (List (Nat × Nat)) :=
  let old := savedSeqs s asid r
  if x = r.rect then some (old.map (fun y => (y.1, y.2.1)))
  else planSeqs s (old.map (fun y => { y.2.2.group with rect := shiftRect y.2.2.group.rect (rectOf r.rect) (rectOf x) })) []

/-- May the cores of a saved rectangle take up a position: free cores, R77, grants, reservations, containment, sequencers? -/
def restoreFits (s : State) (asid index : Nat) (r : SavedRect) (x : Word) : Bool :=
  let to_ := shiftCore (rectOf r.rect) (rectOf x)
  let ts := (savedCores r).map to_
  ts.all (fun c => !coreBusy (coreOf s c) && !(coreOf s c).contained) && rectGranted s asid x &&
  r.cores.all (fun y => ((List.range 8).map (octetCore (to_ (y.pos % 2 ^ 20)))).all (fun o => ts.contains o ||
    (coreRecords (coreOf s o)).all (fun t => t.asid == asid && t.win == y.core.win && t.l1 == y.core.l1kb))) &&
  notReserved s asid index x && notContained s x && (restorePlan s asid r x).isSome

/-- The positions that R50 and R68 permit a saved rectangle. -/
def restorePlaces (s : State) (r : SavedRect) : List Word := if movable s r then congruent r.rect else [r.rect]

/-- The position a saved rectangle is restored to: its reservation once all of it is idle (R394), else the lowest that fits.
(DEDUCED: log 41.) -/
def restoreSpot (s : State) (asid index : Nat) (r : SavedRect) : Option Word :=
  if savedComplete s r && !r.cores.isEmpty && (ctxOf s asid).any (·.resident) then
    match r.resv.filter (fun x => allIdle s x && restoreFits s asid index r x) with
    | some x => some x
    | none => (restorePlaces s r).find? (restoreFits s asid index r)
  else none

/-- The saved rectangles of every context, with the indices that name them. -/
def allSaved (s : State) : List (Nat × Nat × SavedRect) :=
  (s.ctxs.map (fun c => ((List.range c.2.saved.length).zip c.2.saved).map (fun r => (c.1, 4096 + r.1, r.2)))).flatten

/-- Can a saved rectangle that comes before a place in the order of arming be restored now? -/
def savedBefore (s : State) (order : Nat) : Bool :=
  (allSaved s).any (fun x => decide (x.2.2.order < order) && (restoreSpot s x.1 x.2.1 x.2.2).isSome)

/-- The first waiting launch that the placer can act on, where no saved rectangle comes before it. -/
def nextLaunch (s : State) : Option Waiting :=
  (s.dev.waiting.find? (fun w => placeAct s w != .hold)).filter (fun w => !savedBefore s w.order)

/-- PLACEMENT: the placer scans its list in arming order and acts on the first launch it can refuse or place; then on a walk
whose records can be delivered. Words of launch records that await their write are written first. (DESIGN CHOICE: log 5,
DEDUCED: log 43.) -/
def execPlacement (s0 : State) : Host.Outcome State Fault Refusal :=
  let s := lrDrain s0
  .next (match nextLaunch s with
    | some w => match placeAct s w with
      | .refuse e => refuseLaunch s w e
      | .place x gs => placeLaunch s w x gs
      | .wake bs => askWake s bs
      | .hold => s
    | none => match (allWalks s).find? (fun w => walkReady s w.2.2) with
      | some (asid, wid, w) => deliverWalk s asid wid w
      | none => s)

/-! ## Reservation and starvation (R394, R468) -/

/-- Reservation time W of a context. -/
def waitTime (s : State) (asid : Nat) : Nat :=
  let n := ((ctxOf s asid).map (·.tab.wait)).getD 0
  if n = 0 then 100000 else n

/-- Busy cores of a rectangle. -/
def busyCores (s : State) (x : Word) : Nat := ((liveCores s).filter (fun c => coreIn c x && coreBusy (coreOf s c))).length

/-- The candidate with the fewest busy cores, the first of equal ones. -/
def fewestBusy (s : State) : List Word → Option Word
  | [] => none
  | x :: xs => match fewestBusy s xs with
    | none => some x
    | some y => if busyCores s x ≤ busyCores s y then some x else some y

/-- The candidate that a waiting launch would reserve: one that meets no earlier reservation. -/
def reservable (s : State) (w : Waiting) : Option Word :=
  fewestBusy s ((candidates s w.asid (lrState s w.asid w.index).copy).filter (fun x =>
    notContained s x && notReserved s w.asid w.index x))

/-- The waiting launch of a record. -/
def waitingOf (s : State) (asid index : Nat) : Option Waiting :=
  s.dev.waiting.find? (fun w => w.asid == asid && w.index == index)

/-- The state with a waiting launch changed. -/
def setWaiting (s : State) (w : Waiting) : State :=
  setDev s { s.dev with waiting := s.dev.waiting.map (fun v => if v.asid = w.asid ∧ v.index = w.index then w else v) }

/-- The saved rectangle of a context that an index from 4,096 upward names. -/
def savedAt (s : State) (asid index : Nat) : Option SavedRect := (ctxOf s asid).bind (fun c => c.saved[index - 4096]?)

/-- The state with a saved rectangle changed. -/
def setSavedAt (s : State) (asid index : Nat) (r : SavedRect) : State :=
  match ctxOf s asid with
  | none => s
  | some c => setCtx s asid { c with saved := c.saved.set (index - 4096) r }

/-- The candidate that a saved rectangle would reserve. -/
def reservableSaved (s : State) (asid index : Nat) (r : SavedRect) : Option Word :=
  fewestBusy s ((restorePlaces s r).filter (fun x =>
    rectGranted s asid x && notContained s x && notReserved s asid index x))

/-- A waiting entry without a reservation that could take one: its record or index, its place in the order of arming, and the tick W after
its arming. -/
def reservers (s : State) : List (Nat × Nat × Nat × Nat) :=
  (s.dev.waiting.filter (fun w => w.resv.isNone && (reservable s w).isSome)).map (fun w =>
    (w.asid, w.index, w.order, w.armed + waitTime s w.asid)) ++
  (s.ctxs.map (fun c => ((List.range c.2.saved.length).zip c.2.saved).filterMap (fun r =>
    if r.2.resv.isNone && (reservableSaved s c.1 (4096 + r.1) r.2).isSome then
      some (c.1, 4096 + r.1, r.2.order, r.2.armed + waitTime s c.1) else none))).flatten

/-- Those that reserve next: of the ones whose W ends first, or has ended, the ones armed first (R394). -/
def nextReservers (s : State) : List (Nat × Nat) :=
  let rs := (reservers s).map (fun x => (x.1, x.2.1, x.2.2.1, max s.dev.time x.2.2.2))
  (rs.filter (fun x => rs.all (fun y => decide (x.2.2.2 < y.2.2.2) || (x.2.2.2 == y.2.2.2 && decide (x.2.2.1 ≤ y.2.2.1))))).map
    (fun x => (x.1, x.2.1))

/-- RESERVATION: W ticks after its arming a launch, or a saved rectangle, reserves one candidate, in arming order. -/
def execReservation (asid index : Nat) (s : State) : Host.Outcome State Fault Refusal :=
  .next (if !(nextReservers s).contains (asid, index) then s
    else if index < 4096 then
      match waitingOf s asid index with
      | none => s
      | some w =>
        if w.resv.isSome then s
        else
          let s1 := advanceToTick s (w.armed + waitTime s asid)
          setWaiting s1 { w with resv := reservable s1 w }
    else match savedAt s asid index with
      | none => s
      | some r =>
        if r.resv.isSome then s
        else
          let s1 := advanceToTick s (r.armed + waitTime s asid)
          setSavedAt s1 asid index { r with resv := reservableSaved s1 asid index r })

/-- The record index of the launch of a saved rectangle. -/
def savedIndex (s : State) (r : SavedRect) : Nat :=
  ((r.cores.findSome? (fun x => x.core.taskRec.map (·.serial))).bind (fun n =>
    (s.dev.placed.find? (fun p => p.serial == n)).bind (·.index))).getD 0

/-- The starvation event; a launch that holds no reservation names no candidate, and that word is free. -/
def raiseStarved (s : State) (asid index : Nat) (resv : Option Word) : State :=
  match resv with
  | some x => raiseEvent s asid 13 (BitVec.ofNat 64 index) x
  | none => let w := drawWord s; raiseEvent w.2 asid 13 (BitVec.ofNat 64 index) w.1

/-- PLACEMENT_STARVED: 2W ticks after arming, kind 13 once. (DESIGN CHOICE: log 42.) -/
def execPlacementStarved (asid index : Nat) (s : State) : Host.Outcome State Fault Refusal :=
  .next (if index < 4096 then
      match waitingOf s asid index with
      | none => s
      | some w =>
        if w.starved then s
        else raiseStarved (setWaiting (advanceToTick s (w.armed + 2 * waitTime s asid)) { w with starved := true }) asid index w.resv
    else match savedAt s asid index with
      | none => s
      | some r =>
        if r.starved then s
        else raiseStarved (setSavedAt (advanceToTick s (r.armed + 2 * waitTime s asid)) asid index { r with starved := true }) asid
          (savedIndex s r) r.resv)

/-! ## The end of a launch (R395, R151) -/

/-- Have the operations on tl0 to tl6 of a launch's set on a core all completed (R127)? -/
def setDone (s : State) (serial core : Nat) : Bool :=
  (List.range 7).all (fun n => let t := tlOf s core serial (BitVec.ofNat 3 n); t.i == t.v)

/-- Cores of a launch that run or hold something of it. -/
def membersDone (s : State) (p : Placed) : Bool :=
  (rectCores (rectOf p.rect)).all (fun c => p.ended.contains c && setDone s p.serial c)

/-- Does a launch end now? One whose core opened a walk ends after the walk's launch (R151). -/
def launchOver (s : State) (p : Placed) : Bool :=
  !s.dev.placed.any (fun x => x.parent == some p.serial) && decide (rectCount (rectOf p.rect) ≤ p.ended.length) && membersDone s p

/-- The sequencers of an ended launch return to IDLE (R57). -/
def idleSeqs (s : State) (p : Placed) : State := p.seqs.foldl (fun st x => setSeq st x.1 x.2.1 Sequencer.reset) s

/-- A core as the end of a launch leaves it: without that launch's timelines (R127), and free of its walk (R151). -/
def launchGone (p : Placed) (k : Core) : Core :=
  let keep (t : TlSet) : Bool := t.serial != p.serial
  { k with
    tls := k.tls.filter keep, tlsPrev := k.tlsPrev.filter keep
    walkAtt := if p.index.isNone && k.walkAtt.any (fun a => a.asid == p.asid && a.wid == p.wid && a.epiDone) then none else k.walkAtt }

/-- Every core, running or saved, as the end of a launch leaves it. -/
def clearLaunch (s : State) (p : Placed) : State :=
  let s1 := { s with ctxs := s.ctxs.map (fun c => (c.1, { c.2 with saved := c.2.saved.map (fun r =>
    { r with cores := r.cores.map (fun x => { x with core := launchGone p x.core }) }) })) }
  (rectCores (rectOf p.rect)).foldl (fun st c =>
    let k := coreOf st c
    if (k.tls.toList ++ k.tlsPrev.toList).any (fun t => t.serial == p.serial) || k.walkAtt.isSome then setCore st c (launchGone p k) else st) s1

/-- A launch ends: its domain is free, its record idle and counted, its packet complete. -/
def endLaunch (s0 : State) (p : Placed) : State :=
  let s := clearLaunch s0 p
  let s1 := idleSeqs s p
  let doms := match p.ldom with
    | none => s1.dev.ldoms
    | some n => mapErase s1.dev.ldoms n
  let s2 := setDev s1 { s1.dev with placed := s1.dev.placed.filter (fun x => x.serial != p.serial), ldoms := doms }
  let s3 := match p.index with
    | none => s2
    | some i => setLr s2 p.asid i { lrState s2 p.asid i with st := 0, done := (lrState s2 p.asid i).done + 1 }
  closeLaunch s3 p.q (if p.contained then 9 else 0)

/-- LAUNCH_END. -/
def execLaunchEnd (serial : Nat) (s : State) : Host.Outcome State Fault Refusal :=
  .next (match s.dev.placed.find? (fun p => p.serial == serial) with
    | none => s
    | some p => if launchOver s p then post (endLaunch s p) .placement else s)

/-! ## What is enabled -/

/-- The steps of the placer. -/
def enabledPlacer (s : State) : List Ev :=
  (if !s.dev.lrWrites.isEmpty || (nextLaunch s).isSome || (allWalks s).any (fun w => walkReady s w.2.2) then [Ev.placement] else []) ++
  (nextReservers s).map (fun x => Ev.reservation x.1 x.2) ++
  (s.dev.waiting.filter (fun w => !w.starved)).map (fun w => Ev.placementStarved w.asid w.index) ++
  (s.ctxs.map (fun c => ((List.range c.2.saved.length).zip c.2.saved).map (fun r =>
    if r.2.starved then [] else [Ev.placementStarved c.1 (4096 + r.1)]))).flatten.flatten ++
  (s.dev.placed.filter (launchOver s)).map (fun p => Ev.launchEnd p.serial)

end Sys2Proof.Machine
end

