-- ==== Sys2Proof/Machine/Hive.lean ====
section
/-!
DEFINITION. Queues and packets (R385 to R390, R401, R405): notify writes, the mapping of queues, each kind of packet at its
start, and the completion of those that complete later.
-/

namespace Sys2Proof.Machine

/-! ## Work and mapping (R387) -/

/-- Is a queue's context resident? -/
def qResident (s : State) (q : Nat) : Bool := (ctxOf s (qAsid s q)).any (·.resident)

/-- Does a queue have work? One that TLWAIT or FENCE blocks has. -/
def hasWork (s : State) (q : Nat) : Bool := qSt s q == 1 && (qHead s q != qTail s q || (qState s q).locked) && qResident s q

/-- The queues with work, of those that a notify write or QRESYNC has told the Hive of. -/
def workQueues (s : State) : List Nat := (s.dev.queues.map (·.1)).filter (hasWork s)

/-- Is a queue mapped: every queue with work while 64 or fewer have work, else those of the present quantum? -/
def qMapped (s : State) (q : Nat) : Bool :=
  hasWork s q && (decide ((workQueues s).length ≤ 64) || s.dev.mapped.contains q)

/-- The queues mapped now are noted, before a step that may give a 65th queue work: they stay mapped up to the next quantum, and the last
one that was mapped is where the cyclic order goes on from (R387). Before any queue was mapped the order begins after queue 0.
(DESIGN CHOICE: log 99.) -/
def noteMapped (s : State) : State :=
  let ws := workQueues s
  if ws.length ≤ 64 then
    let news := ws.filter (fun q => !s.dev.mapped.contains q)
    setDev s { s.dev with mapped := ws, qcursor := if news.isEmpty then s.dev.qcursor else news.foldl max 0 }
  else s

/-! ## Packets (R388) -/

/-- The eight words of the packet at a queue's head. -/
def packetWords (s : State) (q : Nat) : List Word :=
  let a := qRbase s q + 64 * (qHead s q % 2 ^ qRlog s q)
  (List.range 8).map (fun j => hiveWord s (a + 8 * j))

/-- The bytes of a packet. -/
def packetBytes (ws : List Word) : List Byte := (ws.map (fun w => leBytes 8 w.toNat)).flatten

/-- A word of a packet. -/
def pw (ws : List Word) (j : Nat) : Word := ws.getD j 0

/-- Are the words of a packet from a number upward zero? -/
def zeroFrom (ws : List Word) (j : Nat) : Bool := (ws.drop j).all (· == 0)

/-- Header of a packet. -/
def packetHead (q : Nat) (ws : List Word) : Pkt := { q := q, seq := (pw ws 0).extractLsb' 32 32, cmp := (pw ws 0).getLsbD 8 }

/-- Kind of a packet. -/
def packetKind (ws : List Word) : Nat := field (pw ws 0) 7 0

/-- Are the reserved bits of a packet zero (Table 18.2)? -/
def packetReservedOk (ws : List Word) : Bool :=
  field (pw ws 0) 31 9 == 0 &&
  (match packetKind ws with
    | 1 => field (pw ws 1) 63 12 == 0 && zeroFrom ws 2
    | 2 => zeroFrom ws 3
    | 3 => zeroFrom ws 3
    | 4 => zeroFrom ws 3
    | 5 => zeroFrom ws 1
    | 6 => zeroFrom ws 2
    | 7 => field (pw ws 3) 63 34 == 0 && zeroFrom ws 4
    | 8 => field (pw ws 3) 63 41 == 0 && field (pw ws 3) 39 33 == 0 && zeroFrom ws 4
    | 9 => zeroFrom ws 1
    | _ => zeroFrom ws 2)

/-- The step that a packet is; none for a kind that is refused. -/
def packetStep (q : Nat) (ws : List Word) : Option Ev :=
  let k := packetHead q ws
  match packetKind ws with
  | 1 => some (.launch k ((pw ws 1).setWidth 12))
  | 2 => some (.tlwait k (pw ws 1) (pw ws 2))
  | 3 => some (.tlsignal k (pw ws 1) (pw ws 2))
  | 4 => some (.seedpush k (pw ws 1) (pw ws 2))
  | 5 => some (.seedpop k)
  | 6 => some (.seedfork k (pw ws 1))
  | 7 => some (.copy k (pw ws 1) (pw ws 2) ((pw ws 3).setWidth 32) ((pw ws 3).extractLsb' 32 2))
  | 8 => some (.window k (pw ws 1) (pw ws 2) ((pw ws 3).setWidth 32) ((pw ws 3).getLsbD 32) ((pw ws 3).getLsbD 40))
  | 9 => some (.fencePacket k)
  | 10 => some (.marker k (pw ws 1))
  | _ => none

/-- The status of a packet that is refused before its kind acts: sequence error, kind, reserved field. -/
def refusal (s : State) (q : Nat) (ws : List Word) : Option Nat :=
  if (packetHead q ws).seq.toNat ≠ qEseq s q then some 3
  else if (packetStep q ws).isNone then some 1
  else if !packetReservedOk ws then some 2
  else none

/-- The head and the expected sequence number advance over a packet. -/
def passPacket (s : State) (q : Nat) : State :=
  let s1 := qPut s q 3 (putField (qWord s q 3) 31 0 (qHead s q + 1))
  qPut s1 q 4 (putField (qWord s1 q 4) 31 0 (qEseq s1 q + 1))

/-- May the Hive take a packet of a queue now? -/
def mayTakePacket (s : State) (q : Nat) : Bool := qMapped s q && !(qState s q).locked

/-- The packet event of a queue whose next packet the Hive does not start: a malformed descriptor or a sequence error stops the
queue, any other refusal completes the packet, and the next follows. -/
def settleQueue (q : Nat) : Nat → State → State
  | 0, s => s
  | n + 1, s =>
    if !mayTakePacket s q then s
    else match qFetch s q with
      | (s1, false) => s1
      | (s1, true) =>
        if qMalformed s1 q then qSetSt s1 q 2
        else
          let ws := packetWords s1 q
          let k := packetHead q ws
          match refusal s1 q ws with
          | none => s1
          | some 3 => complete (qSetSt s1 q 2) q k.seq (packetKind ws) 3 k.cmp
          | some st => settleQueue q n (complete (passPacket s1 q) q k.seq (packetKind ws) st k.cmp)

/-- The refused packets at the head of every queue are dealt with, once. -/
def settleEach (s : State) : State := (s.dev.queues.map (·.1)).foldl (fun st q => settleQueue q 65537 st) s

/-- The refused packets at the head of every mapped queue are dealt with: a second time, since that may leave 64 queues with work, all of
which are mapped then (R387). -/
def settleAll (s : State) : State := settleEach (settleEach s)

/-- The refused packets at the head of a queue are dealt with, then those of the queues that this, or the packet before it, leaves
mapped (R387). -/
def settle1 (s : State) (q : Nat) : State := settleAll (settleQueue q 65537 s)

/-- The next packet of a queue that starts. (DEDUCED: log 51.) -/
def nextPacket (s : State) (q : Nat) : Option Ev :=
  if !mayTakePacket s q || qMalformed s q then none
  else
    let ws := packetWords s q
    if (refusal s q ws).isSome then none else packetStep q ws

/-- A packet starts: it is the next of its queue, the head and eseq move on, its handler runs. One whose handler must wait for a home
has not started, and is taken again. (DEDUCED: log 51.) -/
def tryPacket (s : State) (q : Nat) (e : Ev) (f : State → State × Bool) : State :=
  match qFetch s q with
  | (s1, false) => s1
  | (s1, true) =>
    if nextPacket s1 q = some e then
      match f (noteMapped s1) with
      | (s2, true) => settle1 (passPacket s2 q) q
      | (s2, false) => s2
    else s1

/-- A packet whose handler never waits starts. -/
def startPacket (s : State) (q : Nat) (e : Ev) (f : State → State) : State := tryPacket s q e (fun st => (f st, true))

/-- A packet that has started stays open until it completes. -/
def openPacket (s : State) (k : Pkt) (p : PkState) (lock : Bool) : State :=
  let x := qState s k.q
  setQ s k.q { open_ := x.open_ ++ [{ seq := k.seq, cmp := k.cmp, st := p }], locked := x.locked || lock }

/-- An open packet of a queue. -/
def openOf (s : State) (k : Pkt) : Option PkState := ((qState s k.q).open_.find? (fun p => p.seq == k.seq)).map (·.st)

/-- A packet that held its queue's lock completes. -/
def unlockPacket (s : State) (k : Pkt) (kind status : Nat) : State :=
  let s1 := closePacket s k kind status
  settle1 (setQ s1 k.q { qState s1 k.q with locked := false }) k.q

/-! ## NOTIFY_WRITE (R386, R423) -/

/-- The block in which a queue lies: the one whose entry of HOME_TABLE homes the ring of its packets (R28). (DEDUCED: log 67.) -/
def queueBlock (s : State) (q : Nat) : Nat := homeHash (lineBase (qRbase s q))

/-- NOTIFY_WRITE: it wakes the Hive's rim island (number 0) and a gated block in which the queue lies (R28, R423), and the latest value
of the notify word becomes the tail; a tail too far ahead stops the queue. -/
def execNotifyWrite (q : Nat) (value : Word) (s : State) : Host.Outcome State Fault Refusal :=
  .next (
    let v := ((mapGet s.dev.notify q).getD value).toNat
    let sa := wakeRim s [0]
    let s0 := if (blockAt sa (queueBlock sa q)).gated then wakeFor sa (queueBlock sa q) none else sa
    match qFetch (setQ (noteMapped s0) q (qState s0 q)) q with
    | (s1, false) => s1
    | (s1, true) =>
      if 2 ^ qRlog s1 q < (v + 2 ^ 32 - qHead s1 q) % 2 ^ 32 then qSetSt s1 q 2
      else settle1 (qPut s1 q 3 (putField (qWord s1 q 3) 63 32 v)) q)

/-! ## LAUNCH and timeline words -/

/-- LAUNCH. (DESIGN CHOICE: log 49.) -/
def execLaunch (k : Pkt) (index : BitVec 12) (s : State) : Host.Outcome State Fault Refusal :=
  .next (tryPacket s k.q (.launch k index) (fun s =>
    match armRecord s (qAsid s k.q) index.toNat (some (k.q, k.seq, k.cmp)) (some (.step (.launch k index))) with
    | (s1, .armed) => (openPacket s1 k .launch false, true)
    | (s1, .busy) => (complete s1 k.q k.seq 1 4 k.cmp, true)
    | (s1, .unbuilt) => (complete s1 k.q k.seq 1 5 k.cmp, true)
    | (s1, .unreadable) => (complete s1 k.q k.seq 1 8 k.cmp, true)
    | (s1, .wait) => (s1, false)))

/-- A core number that no core has: the Hive as the agent of an access. -/
def hiveAgent : Nat := 2 ^ 30

/-- The request of a packet's access: R and W are checked, U and the block group are not (R98, R99). (DEDUCED: log 53.) -/
def packetReq (asid : Nat) : Req := { hiveReq asid with hive := false }

/-- What a read of a timeline word came to. -/
inductive TlRead where
  | bad
  | wait
  | got (w : Word)
  deriving DecidableEq, Repr

/-- The value of a timeline word at its home. -/
def readTimelineWord (s : State) (asid : Nat) (va : Word) (who : Latch) : State × TlRead :=
  if va.toNat % 8 ≠ 0 ∨ 2 ^ 56 ≤ va.toNat ∨ isAperture va.toNat = true then (s, .bad)
  else match homeDo s hiveAgent false { packetReq asid with r := true, who := some who } va.toNat .read 8 with
    | (s1, .fault _) => (s1, .bad)
    | (s1, .wait) => (s1, .wait)
    | (s1, .bytes bs) => (s1, .got (BitVec.ofNat 64 (leNat bs)))

/-- TLWAIT: it holds its queue's lock until it is satisfied. -/
def execTlwait (k : Pkt) (va n : Word) (s : State) : Host.Outcome State Fault Refusal :=
  .next (startPacket s k.q (.tlwait k va n) (fun s =>
    match readTimelineWord s (qAsid s k.q) va (.step (.tlwaitSatisfied k va n)) with
    | (s1, .bad) => complete s1 k.q k.seq 2 8 k.cmp
    | (s1, _) => openPacket s1 k (.tlwait va.toNat n) true))

/-- TLWAIT_SATISFIED: the word is at least n; the queue moves on after an acquire at device scope. -/
def execTlwaitSatisfied (k : Pkt) (va n : Word) (s : State) : Host.Outcome State Fault Refusal :=
  .next (if openOf s k ≠ some (.tlwait va.toNat n) then s
    else match readTimelineWord s (qAsid s k.q) va (.step (.tlwaitSatisfied k va n)) with
      | (s1, .bad) => unlockPacket s1 k 2 8
      | (s1, .wait) => s1
      | (s1, .got w) => if n.toNat ≤ w.toNat then unlockPacket s1 k 2 0 else s1)

/-- TLSIGNAL: n is stored at the word's home after the Hive's earlier writes. -/
def execTlsignal (k : Pkt) (va n : Word) (s : State) : Host.Outcome State Fault Refusal :=
  .next (tryPacket s k.q (.tlsignal k va n) (fun s =>
    if va.toNat % 8 ≠ 0 ∨ 2 ^ 56 ≤ va.toNat ∨ isAperture va.toNat = true then (complete s k.q k.seq 3 8 k.cmp, true)
    else match homeDo s hiveAgent false { packetReq (qAsid s k.q) with w := true, who := some (.step (.tlsignal k va n)) }
        va.toNat (.write (leBytes 8 n.toNat)) 8 with
      | (s1, .fault _) => (complete s1 k.q k.seq 3 8 k.cmp, true)
      | (s1, .bytes _) => (complete s1 k.q k.seq 3 0 k.cmp, true)
      | (s1, .wait) => (s1, false)))

/-! ## Seeds (R184, R405) -/

/-- The seed stack of a context, its top last. -/
def seedsOf (s : State) (asid : Nat) : List (BitVec 128) := ((ctxOf s asid).map (·.seeds)).getD []

/-- The seed stack changed, with the run-record event of the packet (R186). -/
def seedsTo (s : State) (k : Pkt) (kind : Nat) (image : List Byte) (xs : List (BitVec 128)) : State :=
  let asid := qAsid s k.q
  match ctxOf s asid with
  | none => complete s k.q k.seq kind 7 k.cmp
  | some c => complete (runAppend (setCtx s asid { c with seeds := xs }) (kind - 1) asid image) k.q k.seq kind 0 k.cmp

/-- The bytes of the packet at a queue's head, before it is passed. -/
def headImage (s : State) (q : Nat) : List Byte := packetBytes (packetWords s q)

/-- SEEDPUSH; a full stack refuses. -/
def execSeedpush (k : Pkt) (lo hi : Word) (s : State) : Host.Outcome State Fault Refusal :=
  .next (startPacket s k.q (.seedpush k lo hi) (fun s1 =>
    let xs := seedsOf s1 (qAsid s1 k.q)
    if 16 ≤ xs.length then complete s1 k.q k.seq 4 7 k.cmp
    else seedsTo s1 k 4 (headImage s k.q) (xs ++ [hi ++ lo])))

/-- SEEDPOP; an empty stack refuses. -/
def execSeedpop (k : Pkt) (s : State) : Host.Outcome State Fault Refusal :=
  .next (startPacket s k.q (.seedpop k) (fun s1 =>
    let xs := seedsOf s1 (qAsid s1 k.q)
    if xs.isEmpty then complete s1 k.q k.seq 5 7 k.cmp else seedsTo s1 k 5 (headImage s k.q) xs.dropLast))

/-- The child of a seed (R184). -/
def seedChild (parent : BitVec 128) (n : Word) : BitVec 128 :=
  BitVec.ofNat 128 (leNat ((sha384 (leBytes 16 parent.toNat ++ leBytes 8 n.toNat)).take 16))

/-- SEEDFORK; an empty or full stack refuses. -/
def execSeedfork (k : Pkt) (n : Word) (s : State) : Host.Outcome State Fault Refusal :=
  .next (startPacket s k.q (.seedfork k n) (fun s1 =>
    let xs := seedsOf s1 (qAsid s1 k.q)
    match xs.getLast? with
    | none => complete s1 k.q k.seq 6 7 k.cmp
    | some p => if 16 ≤ xs.length then complete s1 k.q k.seq 6 7 k.cmp else seedsTo s1 k 6 (headImage s k.q) (xs ++ [seedChild p n])))

/-! ## COPY (R388, R401) -/

/-- Does a device range of a COPY break R360 or R74, or name aperture 0 or 1? -/
def badCopyRange (s : State) (asid : Nat) (x : Word) (n : Nat) : Bool :=
  badAddress x n || (n != 0 && x.toNat / 2 ^ 52 != (x.toNat + n - 1) / 2 ^ 52 && decide (15 * 2 ^ 52 < x.toNat + n)) ||
  (isAperture x.toNat && (decide (x.toNat / 2 ^ 48 % 16 < 2) || (apPieces s hiveAgent asid x.toNat n).isNone))

/-- A piece of a COPY that begins at an offset, on its port. -/
def pieceAt (port at_ len : Nat) : CopyPiece :=
  { port := port, at_ := at_, len := len, cursor := 0, buf := [], why := none, raised := false }

/-- The pieces of a COPY: one for a copy in the device, else pieces of 4 KiB, given to the two ports alternately; no order holds among
them (R401). (DESIGN CHOICE: log 42.) -/
def copyPieces (dir n : Nat) : List CopyPiece :=
  if n = 0 then []
  else if dir = 0 then [pieceAt 0 0 n]
  else (List.range ((n + 4095) / 4096)).map (fun i => pieceAt (i % 2) (4096 * i) (min 4096 (n - 4096 * i)))

/-- COPY: direction 0 in the device, 1 from the host, 2 to the host. -/
def execCopy (k : Pkt) (dst src : Word) (bytes : BitVec 32) (dir : BitVec 2) (s : State) : Host.Outcome State Fault Refusal :=
  .next (startPacket s k.q (.copy k dst src bytes dir) (fun s =>
    let asid := qAsid s k.q
    if dir = 3 then complete s k.q k.seq 7 2 k.cmp
    else if (dir != 2 && badCopyRange s asid dst bytes.toNat) || (dir != 1 && badCopyRange s asid src bytes.toNat) then
      complete s k.q k.seq 7 8 k.cmp
    else openPacket s k (.copy asid dst.toNat src.toNat bytes.toNat dir.toNat (copyPieces dir.toNat bytes.toNat)) false))

/-- Bytes that the host holds at an address: the outside gives them. -/
def hostBytes (s : State) : Nat → List Byte × State
  | 0 => ([], s)
  | n + 1 =>
    let w := drawWord s
    let r := hostBytes w.2 n
    (w.1.setWidth 8 :: r.1, r.2)

/-- Bytes that a COPY reads from the host: the request goes out through a port with the host address, and the outside gives the bytes (R401,
R482). -/
def hostRead (s : State) (port at_ n : Nat) : List Byte × State :=
  hostBytes { s with out := s.out ++ [OutMsg.copyRead (writePort s port) (BitVec.ofNat 64 at_) n] } n

/-- n bytes read for a COPY. (DEDUCED: log 53.) -/
def copyRead (s : State) (k : Pkt) (asid va n : Nat) : State × HomeAns :=
  if isAperture va then engineReadFor s hiveAgent false (packetReq asid) (some (.pkt k.q)) va n
  else readParts hiveAgent false { packetReq asid with r := true, who := some (.pkt k.q) } (splitLines va n) s []

/-- An open COPY packet set. -/
def setCopy (s : State) (k : Pkt) (p : PkState) : State :=
  let x := qState s k.q
  setQ s k.q { x with open_ := x.open_.map (fun o => if o.seq = k.seq then { o with st := p } else o) }

/-- The engine-fault event of a COPY packet: no core issued it, and the fields that would name one are free. -/
def raiseCopy (s : State) (asid : Nat) (cause : BitVec 16) (va : Nat) : State :=
  let w := drawWord s
  if causeCode cause == causeDataError then
    raiseEvent w.2 asid 14 (BitVec.ofNat 64 va) ((w.1 &&& 0x0000_FF0F_FFFF_0000) ||| BitVec.ofNat 64 (cause.toNat / 256 % 8 * 256))
  else raiseEvent w.2 asid 3 (BitVec.ofNat 64 va) ((w.1 &&& 0xFFFF_FFFF_FFFF_0000) ||| BitVec.ofNat 64 cause.toNat)

/-- An open COPY packet: its context, its addresses, its bytes and its direction. -/
structure CopyJob where
  asid : Nat
  dst : Nat
  src : Nat
  n : Nat
  dir : Nat
  deriving DecidableEq, Repr

/-- The COPY packet with the piece that begins at an offset replaced. -/
def setPieces (s : State) (k : Pkt) (j : CopyJob) (at_ : Nat) (ps : List CopyPiece) : State :=
  match openOf s k with
  | some (.copy _ _ _ _ _ olds) =>
    setCopy s k (.copy j.asid j.dst j.src j.n j.dir ((olds.map (fun p => if p.at_ = at_ then ps else [p])).flatten))
  | _ => s

/-- A fault of a COPY (R453): one that is held stops the piece, any other ends the packet with status 8. -/
def copyFault (s : State) (k : Pkt) (j : CopyJob) (p : CopyPiece) (cause : BitVec 16) (va : Nat) : State :=
  if engineRetries cause then
    let s1 := if p.raised || engineQuiet cause then s else raiseCopy s j.asid cause va
    setPieces s1 k j p.at_ [{ p with why := some cause, raised := p.raised || !engineQuiet cause }]
  else settle1 (closePacket (raiseCopy s j.asid cause va) k 7 8) k.q

/-- A piece goes on after bytes that it wrote, up to its end. -/
def pieceMove (s : State) (k : Pkt) (j : CopyJob) (p : CopyPiece) (m : Nat) : State :=
  let p1 := { p with cursor := p.cursor + m, buf := p.buf.drop m }
  setPieces s k j p.at_ (if p.len ≤ p1.cursor then [] else [p1])

/-- The source bytes of a unit. -/
def copySource (s : State) (k : Pkt) (j : CopyJob) (p : CopyPiece) (at_ n : Nat) : State × HomeAns :=
  if j.dir = 1 then let r := hostRead s p.port (j.src + at_) n; (r.2, .bytes r.1) else copyRead s k j.asid (j.src + at_) n

/-- More of a piece's source is bound. -/
def pieceRead (s : State) (k : Pkt) (j : CopyJob) (p : CopyPiece) : State :=
  let at_ := p.at_ + p.cursor + p.buf.length
  match copySource s k j p at_ (unitRun (j.src + at_) (p.len - p.cursor - p.buf.length)) with
  | (s1, .bytes bs) => setPieces s1 k j p.at_ [{ p with buf := p.buf ++ bs }]
  | (s1, .fault c) => copyFault s1 k j p c (j.src + at_)
  | (s1, .wait) => s1

/-- Bound bytes of a piece are written: a sector to the host, through the other port where the piece's is down (R482), a unit in the
device (R363). -/
def pieceWrite (s : State) (k : Pkt) (j : CopyJob) (p : CopyPiece) (m : Nat) : State :=
  let d := j.dst + p.at_ + p.cursor
  if j.dir = 2 then
    pieceMove { s with out := s.out ++ [OutMsg.hostWrite (some (writePort s p.port)) (BitVec.ofNat 64 d) (p.buf.take m)] } k j p m
  else
    let u := unitRun d m
    match engineWriteFor s hiveAgent false { packetReq j.asid with who := some (.pkt k.q) } (some (.pkt k.q)) d (p.buf.take u) with
    | (s1, .bytes _) => pieceMove s1 k j p u
    | (s1, .fault c) => copyFault s1 k j p c d
    | (s1, .wait) => s1

/-- One unit of a piece: a sector is written once its source bytes are bound, and reads may run ahead (R363). (DESIGN CHOICE: log 23.) -/
def pieceStep (s : State) (k : Pkt) (j : CopyJob) (p : CopyPiece) : State :=
  let room := p.len - p.cursor
  let m := sectorRun ((if j.dir = 2 then j.src else j.dst) + p.at_ + p.cursor) room
  let need := if j.dir = 0 then copyNeed j.dst j.src j.n p.cursor else 0
  if p.buf.length < max m need then pieceRead s k j p
  else if p.buf.length < room then
    let w := drawWord s
    let at_ := p.at_ + p.cursor + p.buf.length
    match copySource w.2 k j p at_ (unitRun (j.src + at_) (room - p.buf.length)) with
    | (s1, .bytes bs) => if w.1.getLsbD 0 then setPieces s1 k j p.at_ [{ p with buf := p.buf ++ bs }] else pieceWrite w.2 k j p m
    | _ => pieceWrite w.2 k j p m
  else pieceWrite s k j p m

/-- The piece that goes on: any of those that no fault stopped. -/
def nextGo (s : State) (ps : List CopyPiece) : Option (CopyPiece × State) :=
  match ps.filter (fun p => p.why.isNone) with
  | [] => none
  | [p] => some (p, s)
  | p :: qs => let w := drawWord s; some ((p :: qs).getD (w.1.toNat % (qs.length + 1)) p, w.2)

/-- The next unit of a COPY that has pieces left. -/
def copyGo (s : State) (k : Pkt) : State :=
  match openOf s k with
  | some (.copy asid dst src n dir ps) =>
    match nextGo s ps with
    | none => s
    | some (p, s1) => pieceStep s1 k { asid := asid, dst := dst, src := src, n := n, dir := dir } p
  | _ => s

/-- The next units of the COPY packets of a queue. -/
def copiesGo (s : State) (q : Nat) : State :=
  (qState s q).open_.foldl (fun st o => copyGo st { q := q, seq := o.seq, cmp := o.cmp }) s

/-- COPY_PACKET_COMPLETE: a COPY with bytes left performs its next unit; one with none completes. (DESIGN CHOICE: log 42.) -/
def execCopyPacketComplete (k : Pkt) (status : BitVec 16) (s : State) : Host.Outcome State Fault Refusal :=
  .next (match openOf s k with
    | some (.copy _ _ _ _ _ []) => if status = 0 then settle1 (closePacket s k 7 0) k.q else s
    | some (.copy _ _ _ _ _ _) => copyGo s k
    | _ => s)

/-! ## WINDOW (R86, R87) -/

/-- Is a WINDOW packet malformed? (DEDUCED: log 52.) -/
def badWindow (base size : Word) (blocks : BitVec 32) : Bool :=
  badBase base || badBase size || size == 0 || badBlocks (blocks.setWidth 64)

/-- Does the range of a window that is set leave global space (R360, Table 18.3)? (DEDUCED: log 52.) -/
def windowOut (base size : Word) : Bool := decide (2 ^ 56 ≤ base.toNat + size.toNat) || isAperture base.toNat ||
  isAperture (base.toNat + size.toNat - 1)

/-- WINDOW. -/
def execWindow (k : Pkt) (base size : Word) (blocks : BitVec 32) (pin clear : Bool) (s : State) : Host.Outcome State Fault Refusal :=
  .next (startPacket s k.q (.window k base size blocks pin clear) (fun s =>
    if badWindow base size blocks then complete s k.q k.seq 8 2 k.cmp
    else if !clear && windowOut base size then complete s k.q k.seq 8 8 k.cmp
    else openPacket s k (.window base.toNat size.toNat (blocks.setWidth 64) pin clear) false))

/-- Status of a completed WINDOW packet: a refusal carries the code of Table 17.3. -/
def windowStatus (code : Nat) : Nat := if code = 0 then 0 else 16 + code

/-- A WINDOW packet's change is carried out, or refused. -/
def windowPacket (s : State) (k : Pkt) (asid base size : Nat) (blocks : Word) (pin clear : Bool) : State :=
  match ctxOf s asid with
  | none => s
  | some c =>
    if clear then
      let code := winClrStatus c base
      if code = 0 ∧ changeWaits s asid base none = true then s
      else settle1 (closePacket (if code = 0 then changeWindow s asid base none else s) k 8 (windowStatus code)) k.q
    else
      let w := windowFrom base size blocks pin
      let code := winSetStatus s c w
      if code ≠ 0 then settle1 (closePacket s k 8 (windowStatus code)) k.q
      else match gatedOf s w with
        | [] =>
          if changeWaits s asid base (some w) then s
          else settle1 (closePacket (changeWindow s asid base (some w)) k 8 0) k.q
        | bs => askWake s bs

/-- The open WINDOW packets of a context for a base, with their queues. -/
def windowPackets (s : State) (asid base : Nat) : List (Nat × OpenPk) :=
  (s.dev.queues.map (fun q => (q.2.open_.filter (fun p =>
    qAsid s q.1 == asid && (match p.st with
      | .window b _ _ _ _ => b == base
      | _ => false))).map (fun p => (q.1, p)))).flatten

/-- WINDOW_CHANGE_COMPLETE: the change of a window of a core's CWIN, or of a WINDOW packet, is carried out (R87). -/
def execWindowChangeComplete (asid : Nat) (base : Word) (s : State) : Host.Outcome State Fault Refusal :=
  .next (match (liveCores s).findSome? (fun c =>
      if enginesRun (coreOf s c) then ((coreOf s c).ops.find? (isWindowOp asid base.toNat)).map (fun o => (c, o)) else none) with
    | some (c, o) => windowStep s c o
    | none => match windowPackets s asid base.toNat with
      | [] => s
      | x :: _ => match x.2.st with
        | .window b size blocks pin clear =>
          windowPacket s { q := x.1, seq := x.2.seq, cmp := x.2.cmp } asid b size blocks pin clear
        | _ => s)

/-! ## FENCE and MARKER -/

/-- FENCE: it holds its queue's lock until every earlier packet of the queue has completed. -/
def execFencePacket (k : Pkt) (s : State) : Host.Outcome State Fault Refusal :=
  .next (if openOf s k = some .fence then
      if (qState s k.q).open_.length ≤ 1 then unlockPacket s k 9 0 else s
    else startPacket s k.q (.fencePacket k) (fun s => openPacket s k .fence true))

/-- MARKER: a trace record in block 0. -/
def execMarker (k : Pkt) (value : Word) (s : State) : Host.Outcome State Fault Refusal :=
  .next (startPacket s k.q (.marker k value) (fun s =>
    let slot := ((ctxOf s (qAsid s k.q)).map (·.slot)).getD 0
    complete (traceAdd s 0 3 (traceWord0 3 false slot 0 0) value (BitVec.ofNat 64 k.q)) k.q k.seq 10 0 k.cmp))

/-! ## The quantum (R387) -/

/-- The next 64 queues with work in ascending number, cyclically from the last one mapped. -/
def nextQueues (s : State) : List Nat :=
  let ws := workQueues s
  (ws.filter (fun q => decide (s.dev.qcursor < q)) ++ ws.filter (fun q => decide (q ≤ s.dev.qcursor))).take 64

/-- QUEUE_QUANTUM: at the next tick that is a multiple of 2,000,000 the Hive maps the next 64 queues with work. -/
def execQueueQuantum (s : State) : Host.Outcome State Fault Refusal :=
  .next (
    let s1 := advanceToTick s ((s.dev.time / 2000000 + 1) * 2000000)
    if (workQueues s1).length ≤ 64 then setDev s1 { s1.dev with mapped := [] }
    else
      let qs := nextQueues s1
      settleAll (setDev s1 { s1.dev with mapped := qs, qcursor := qs.getLast?.getD 0 }))

/-! ## What is enabled -/

/-- The steps of an open packet. -/
def enabledPacket (s : State) (q : Nat) (p : OpenPk) : List Ev :=
  let k : Pkt := { q := q, seq := p.seq, cmp := p.cmp }
  match p.st with
  | .copy _ _ _ _ _ ps => if ps.isEmpty || ps.any (fun p => p.why.isNone) then [Ev.copyPacketComplete k 0] else []
  | .window base _ _ _ _ => [Ev.windowChangeComplete (qAsid s q) (BitVec.ofNat 64 base)]
  | .tlwait va n =>
    match (readTimelineWord s (qAsid s q) (BitVec.ofNat 64 va) (.step (.tlwaitSatisfied k (BitVec.ofNat 64 va) n))).2 with
    | .got w => if n.toNat ≤ w.toNat then [Ev.tlwaitSatisfied k (BitVec.ofNat 64 va) n] else []
    | _ => [Ev.tlwaitSatisfied k (BitVec.ofNat 64 va) n]
  | .fence => if (qState s q).open_.length ≤ 1 then [Ev.fencePacket k] else []
  | .launch => []

/-- The steps of the queues. -/
def enabledQueues (s : State) : List Ev :=
  s.dev.queues.filterMap (fun q => nextPacket s q.1) ++
  (s.dev.queues.map (fun q => (q.2.open_.map (enabledPacket s q.1)).flatten)).flatten ++
  (if 64 < (workQueues s).length then [Ev.queueQuantum] else [])

end Sys2Proof.Machine
end

