-- ==== Sys2Proof/Machine/Stop.lean ====
section
/-!
DEFINITION. Pre-emption and restore (R48 to R50, R66 to R68, R71, R487): the boundary at which a core stops, the image of
Table 2.6, and the steps CORE_STOP and RESTORE. A debug halt (R426) stops a core in the same way.
-/

namespace Sys2Proof.Machine

/-! ## The image of Table 2.6 -/

/-- Bytes of a save slot. -/
def slotBytes : Nat := 131072

/-- The program counter, the header address of the block, x0 to x31 and p0 to p7 of a thread. -/
def threadWords (t : Thread) : List Word := [t.pc, t.blk] ++ t.x.toList ++ [t.p.setWidth 64]

/-- The registers of Table 13.6 that a task's core holds, after the compute thread's words. -/
def taskWords (k : Core) : List Word :=
  [k.ct.trapVec, trapCauseWord k.ct, k.ct.trapPc, k.ct.trapAddr, k.ct.trapBlk, k.tdtBase, k.timerCmp, k.cntBase,
   k.mqWeight.setWidth 64] ++ k.tshape.toList ++ [if k.wake then 1 else 0]

/-- A task record (Table 18.5). -/
def recordWords (r : TaskRec) : List Word :=
  [r.rect, BitVec.ofNat 64 (r.kind * 2 ^ 56) ||| (r.task &&& 0x00FF_FFFF_FFFF_FFFF), r.arg0, r.arg1, r.arg2,
   BitVec.ofNat 64 (r.mqw * 2 ^ 32 + r.l1 / 12 * 2 ^ 27 + r.win / 8 * 2 ^ 24 + r.dv.toNat * 2 ^ 16 + r.ldom),
   BitVec.ofNat 64 r.serial, BitVec.ofNat 64 r.wid]

/-- Values of n bytes each written upward from an address. -/
def writeVals (m : List Host.Cell) (a n : Nat) : List Nat → List Host.Cell
  | [] => m
  | v :: vs => writeVals (writeBytes m a (leBytes n v)) (a + n) n vs

/-- Bytes of a core's local memory beside its L1. -/
def localBytes (k : Core) : Nat := 98304 - k.l1kb * 1024

/-- The poison of a range travels with its bytes to another place: every 8 bytes of a poisoned unit poison the unit that they come to
(R470). -/
def movePoison (s : State) (src dst n : Nat) : State :=
  let us := s.poisoned.filter (fun u => decide (u < src + n) && decide (src < u + unitLen u))
  us.foldl (fun st u => (List.range (unitLen u / 8)).foldl (fun st2 j =>
    let a := u + 8 * j
    if src ≤ a ∧ a < src + n then addPoison st2 (unitOf (dst + (a - src))) else st2) st) (unpoison s dst n)

/-- The MVCALL queue in the image: its length, then its entries. -/
def mvWords (k : Core) : List Word :=
  BitVec.ofNat 64 k.mvq.length :: (k.mvq.map (fun q => [q.1, q.2.1, q.2.2.1, BitVec.ofNat 64 q.2.2.2])).flatten

/-- A copy cursor in the image: timeline and number, then the cursor. -/
def cursorWords (k : Core) : List Word :=
  ((k.ops.take 64).map (fun o => [BitVec.ofNat 64 (o.tl + o.num * 8), BitVec.ofNat 64 o.cursor])).flatten

/-- A ring handle in the image, 64 bytes: its state and fields, then the states of its slots, two bits each. -/
def handleWords (x : Handle) : List Word :=
  let slotCode : RSlot → Nat := fun y => match y with
    | .free => 0
    | .granted _ _ => 1
    | .filled => 2
    | .held => 3
  let slots := (x.slots.foldr (fun y n => slotCode y + 4 * n) 0 : Nat)
  [BitVec.ofNat 64 (x.st.code + x.z * 2 ^ 16 + x.base * 2 ^ 32),
   BitVec.ofNat 64 (x.head + x.grantPtr * 2 ^ 16 + x.slot * 2 ^ 32 + x.cur * 2 ^ 48),
   BitVec.ofNat 64 (x.peer + x.peerH.toNat * 2 ^ 16)] ++ (List.range 5).map (fun j => BitVec.ofNat 64 (slots / 2 ^ (64 * j)))

/-- A barrier wait in the image. -/
def barWord (w : WaitState) : Word :=
  match w with
  | .bar none bit => BitVec.ofNat 64 (1 + 256 * bit.toNat)
  | .bar (some n) bit => BitVec.ofNat 64 (2 + 256 * bit.toNat + n * 2 ^ 32)
  | .gbar arrived l => BitVec.ofNat 64 (3 + 256 * arrived.toNat + l * 2 ^ 32)
  | _ => 0

/-- The barrier wait of a word of the image; none for a thread that waits in none. -/
def barOf (w : Word) : Option WaitState :=
  match field w 7 0 with
  | 1 => some (.bar none (w.getLsbD 8))
  | 2 => some (.bar (some (field w 63 32)) (w.getLsbD 8))
  | 3 => some (.gbar (w.getLsbD 8) (field w 63 32))
  | _ => none

/-- The record of a held part in the image: its address, then its cause, thread, bytes and place in program order. -/
def heldWords (a : Access) : List Word :=
  let cause := match a.stage with
    | .held c => c.toNat
    | _ => 0
  [BitVec.ofNat 64 a.addr, BitVec.ofNat 64 (cause + a.mt.toNat * 2 ^ 16 + a.n % 256 * 2 ^ 24 + a.seq % 2 ^ 32 * 2 ^ 32)]

/-- The waits of a core in the image: how many parts are held, its side log (entries, and the place in program order of the oldest), its
barrier and FUSE waits, its gang with the gang's reconvergence point (R66), the points of up to six other masks, and the records of up
to 23 held parts. -/
def waitWords (s : State) (core : Nat) : List Word :=
  let k := coreOf s core
  let mine := s.net.filter (fun a => a.core == core)
  let log := mine.filter (·.logged)
  let others := ((k.rcvs.filter (fun r => r.1 != k.gang.toNat)).take 6).map (fun r => [BitVec.ofNat 64 r.1, r.2])
  [BitVec.ofNat 64 ((mine.filter (·.isHeld)).length), BitVec.ofNat 64 (log.length + ((log.head?.map (·.seq)).getD 0) * 2 ^ 32),
   barWord k.ct.wait, k.ct.fuseKept.setWidth 64, k.gang.setWidth 64, (mapGet k.rcvs k.gang.toNat).getD 0] ++
  others.flatten ++ List.replicate (12 - 2 * others.length) 0 ++ (((mine.filter (·.isHeld)).take 23).map heldWords).flatten

/-- Number of a matrix operation, with its hint and state in the image. -/
def MOp.num : MOp → Nat
  | .tld _ _ => 0 | .tst _ _ => 1 | .tzero _ => 2 | .ttrn _ _ => 3 | .tcmp _ _ _ => 4 | .mma _ _ _ _ => 5 | .mmas _ _ _ _ _ => 6
  | .mmag _ _ _ _ _ => 7 | .azero _ => 8 | .ald _ _ => 9 | .ast _ _ _ => 10 | .acvt _ _ _ _ => 11 | .aadd _ _ _ _ => 12

/-- The tl2 numbers of the other cores of an MMAG, by their place in the octet, each one more than the number; 0 for a core that takes no
part. -/
def partnerWord (c : MCmd) (j : Nat) : Nat :=
  ((c.partners.find? (fun p => octetCore p.1 j == p.1)).map (fun p => p.2 + 1)).getD 0

/-- A queued matrix command in the image, 128 bytes: its instruction word, its number on tl2, the TSHAPE images, the descriptor image, or
for an MMAG the tl2 numbers of the other cores, its cursor, its operation. -/
def cmdWords (c : MCmd) : List Word :=
  let images : List Word := match c.op with
    | .mmag _ _ _ _ _ => (List.range 8).map (fun j => BitVec.ofNat 64 (partnerWord c j))
    | _ => (List.range 8).map (fun j => BitVec.ofNat 64 (c.desc.toNat / 2 ^ (64 * j)))
  [c.word, BitVec.ofNat 64 c.num] ++ c.shapes.toList ++ images ++ [BitVec.ofNat 64 c.cursor, BitVec.ofNat 64 (c.op.num + c.ch.toNat * 2 ^ 8)]

/-- The image of a core written to a save slot (Table 2.6; notes/assumptions/34.md). (DESIGN CHOICE: log 34.) -/
def saveImage (s : State) (core base : Nat) : State :=
  let k := coreOf s core
  let m1 := copyRange s.mem (localKey core 0) base (localBytes k)
  let m2 := writeVals m1 (base + 0x1_8000) 512 (k.v.toList.map (·.toNat))
  let m3 := writeVals m2 (base + 0x1_A000) 2048 (k.t.toList.map (·.toNat))
  let m4 := writeVals m3 (base + 0x1_C000) 4096 (k.a.toList.map (·.toNat))
  let m5 := writeVals m4 (base + 0x1_E000) 128 (k.k.toList.map (·.toNat))
  let m6 := writeWords m5 (base + 0x1_E400) (threadWords k.ct ++ taskWords k)
  let m7 := writeWords m6 (base + 0x1_E600) (threadWords k.mt ++ mvWords k)
  let m8 := writeWords m7 (base + 0x1_E800) (cursorWords k)
  let m9 := writeWords m8 (base + 0x1_EC00) ((k.h.toList.map handleWords).flatten)
  let m10 := writeWords m9 (base + 0x1_EE00) (waitWords s core)
  let m11 := writeWords m10 (base + 0x1_F000) ((k.inbox.map recordWords).flatten)
  let m12 := writeWords m11 (base + 0x1_F200) ((k.mq.map cmdWords).flatten)
  let m13 := writeWords m12 (slotTls base) (slotWords k)
  movePoison (unpoison { s with mem := m13 } base slotBytes) (localKey core 0) base (localBytes k)

/-- A value of n bytes in memory. -/
def readVal (s : State) (w a n : Nat) : BitVec w := BitVec.ofNat w (readLe s.mem a n)

/-- A timeline set with I and V as its save slot holds them. -/
def loadTls (s : State) (a : Nat) (t : TlSet) : TlSet :=
  { t with tl := Vector.ofFn (fun i =>
      let x := t.tl[i]
      { x with i := (readW s.mem (a + 16 * i.val)).toNat, v := (readW s.mem (a + 16 * i.val + 8)).toNat }) }

/-- The timelines of a restored core come from its save slot (R49, R127). -/
def loadSlotTls (s : State) (core slot : Nat) : State :=
  let k := coreOf s core
  setCore s core { k with tls := k.tls.map (loadTls s (slotTls slot)), tlsPrev := k.tlsPrev.map (loadTls s (slotTls slot + 128)) }

/-- A thread with the words of its image. A program counter that was changed addresses a header if the word there is one. -/
def loadThread (s : State) (core : Nat) (t : Thread) (a : Nat) : Thread :=
  let pc := wordAddr (readW s.mem a)
  let t1 := { t with
    pc := pc, blk := wordAddr (readW s.mem (a + 8)), x := Vector.ofFn fun i => readW s.mem (a + 16 + 8 * i.val)
    p := (readW s.mem (a + 272)).setWidth 8 }
  if pc = t.pc then t1 else { t1 with waitKept := none, fuseKept := 0, entry := if (headerAt s core t1 pc).getD false then .header else .word }

/-- The registers of a task taken from its image, as SWR takes them (Tables 13.6, 13.7). -/
def loadTask (s : State) (k : Core) (a : Nat) : Core :=
  let w (i : Nat) : Word := readW s.mem (a + 8 * i)
  { k with
    ct := { k.ct with
      trapVec := wordAddr (w 0), trapPp := (w 1).getLsbD 63, trapCause := (w 1).setWidth 16, trapPc := wordAddr (w 2)
      trapAddr := w 3, trapBlk := wordAddr (w 4) }
    tdtBase := w 5 &&& 0x00FF_FFFF_FFFF_C000, timerCmp := w 6, cntBase := w 7 &&& 0x00FF_FFFF_FFFF_FFF9
    mqWeight := weightStore (w 8), tshape := Vector.ofFn fun i => shapeStore (w (9 + i.val)), wake := k.wake || (w 13).getLsbD 0 }

/-- The MVCALL queue of an image. -/
def loadMvq (s : State) (a : Nat) : List (Word × Word × Word × Nat) :=
  (List.range (min 2 (readW s.mem a).toNat)).map (fun i =>
    let b := a + 8 + 32 * i
    (readW s.mem b, readW s.mem (b + 8), readW s.mem (b + 16), (readW s.mem (b + 24)).toNat))

/-- The cursor of an operation as the image has it. -/
def loadCursor (s : State) (a : Nat) (o : EngOp) : EngOp :=
  match (List.range 64).find? (fun i => readW s.mem (a + 16 * i) == BitVec.ofNat 64 (o.tl + o.num * 8)) with
  | some i => { o with cursor := (readW s.mem (a + 16 * i + 8)).toNat }
  | none => o

/-- The state of a handle of a code. -/
def HState.ofCode : Nat → HState
  | 1 => .rx | 2 => .txIdle | 3 => .txWait | 4 => .txHold | 5 => .error | _ => .unconf

/-- A ring handle with the fields of its image; whom a granted slot was granted to stays as the handle has it. -/
def loadHandle (s : State) (a : Nat) (x : Handle) : Handle :=
  let w (i : Nat) : Word := readW s.mem (a + 8 * i)
  let codes := (w 3).toNat + (w 4).toNat * 2 ^ 64 + (w 5).toNat * 2 ^ 128 + (w 6).toNat * 2 ^ 192 + (w 7).toNat * 2 ^ 256
  { x with
    st := HState.ofCode (field (w 0) 7 0), z := field (w 0) 31 16, base := field (w 0) 63 32, head := field (w 1) 15 0
    grantPtr := field (w 1) 31 16, slot := field (w 1) 47 32, cur := field (w 1) 63 48, peer := field (w 2) 15 0
    peerH := BitVec.ofNat 3 (field (w 2) 18 16)
    slots := ((List.range x.slots.length).zip x.slots).map (fun y => match codes / 4 ^ y.1 % 4, y.2 with
      | 1, old => old
      | 2, _ => .filled
      | 3, _ => .held
      | _, _ => .free) }

/-- A task record of an inbox with the fields of its image. -/
def loadRecord (s : State) (a : Nat) (r : TaskRec) : TaskRec :=
  let w (i : Nat) : Word := readW s.mem (a + 8 * i)
  { r with
    rect := w 0, kind := field (w 1) 63 56, task := w 1 &&& 0x00FF_FFFF_FFFF_FFFF, arg0 := w 2, arg1 := w 3, arg2 := w 4
    mqw := field (w 5) 35 32, l1 := 12 * field (w 5) 28 27, win := 8 * field (w 5) 26 24, dv := (w 5).getLsbD 16
    ldom := field (w 5) 15 0, serial := (w 6).toNat, wid := (w 7).toNat }

/-- A queued matrix command with the numbers, images and cursor of the image. -/
def loadCmd (s : State) (a : Nat) (c : MCmd) : MCmd :=
  let w (i : Nat) : Word := readW s.mem (a + 8 * i)
  let c1 := { c with
    word := w 0, num := (w 1).toNat, shapes := Vector.ofFn fun i => w (2 + i.val), cursor := (w 14).toNat }
  match c.op with
  | .mmag _ _ _ _ _ => { c1 with
      partners := c.partners.map (fun p => (p.1, ((List.range 8).find? (fun j => octetCore p.1 j == p.1)).elim p.2
        (fun j => (w (6 + j)).toNat - 1))) }
  | _ => { c1 with desc := BitVec.ofNat 512 (readLe s.mem (a + 48) 64) }

/-- The waits, the gang and the reconvergence points of an image. -/
def loadWaits (s : State) (k : Core) (a : Nat) : Core :=
  let w (i : Nat) : Word := readW s.mem (a + 8 * i)
  let gang := (w 4).setWidth 8
  let others := ((List.range 6).map (fun i => ((w (6 + 2 * i)).toNat, w (7 + 2 * i)))).filter (fun r => r.1 != 0)
  { k with
    ct := { k.ct with
      wait := if (barOf (barWord k.ct.wait)).isSome || (barOf (w 2)).isSome then (barOf (w 2)).getD .none else k.ct.wait
      fuseKept := (w 3).setWidth 8 }
    gang := gang
    rcvs := others.foldl (fun m r => mapSet m r.1 r.2)
      (if w 5 = 0 then mapErase k.rcvs gang.toNat else mapSet (mapErase k.rcvs gang.toNat) gang.toNat (w 5)) }

/-- The registers of an image that an error in memory spoiled hold no value (R470). -/
def loadErrors (s : State) (k : Core) (base : Nat) : Core :=
  let bad (a n : Nat) : Bool := poisonedIn s (base + a) n
  if !bad 0x1_8000 0x6800 then k
  else
    let mark {w : Nat} (p : BitVec w) (n from_ step size shift : Nat) : BitVec w :=
      (List.range n).foldl (fun q i => if bad (from_ + step * i) size then setBit q (i + shift) true else q) p
    let pm (q : BitVec 16) (a shift : Nat) : BitVec 16 := if bad a 8 then q ||| (0xFF#16 <<< shift) else q
    { k with
      vPoison := mark k.vPoison 16 0x1_8000 512 512 0, tPoison := mark k.tPoison 4 0x1_A000 2048 2048 0
      aPoison := mark k.aPoison 2 0x1_C000 4096 4096 0, kPoison := mark k.kPoison 8 0x1_E000 128 128 0
      xPoison := mark (mark k.xPoison 31 0x1_E418 8 8 1) 31 0x1_E618 8 8 33
      pPoison := pm (pm k.pPoison 0x1_E510 0) 0x1_E710 8 }

/-- A core with the registers, the local memory, the ring state, the waits, the queues, the cursors and the timelines of its image; its L1
and its instruction buffer are empty (Table 2.6, R204). (DESIGN CHOICE: log 34.) -/
def loadImage (s0 : State) (core base : Nat) : State :=
  let k0 := coreOf s0 core
  let s := movePoison { s0 with mem := copyRange s0.mem base (localKey core 0) (localBytes k0) } base (localKey core 0) (localBytes k0)
  let k1 : Core := { k0 with
    v := Vector.ofFn fun i => readVal s 4096 (base + 0x1_8000 + 512 * i.val) 512
    t := Vector.ofFn fun i => readVal s 16384 (base + 0x1_A000 + 2048 * i.val) 2048
    a := Vector.ofFn fun i => readVal s 32768 (base + 0x1_C000 + 4096 * i.val) 4096
    k := Vector.ofFn fun i => readVal s 1024 (base + 0x1_E000 + 128 * i.val) 128
    ct := loadThread s core k0.ct (base + 0x1_E400)
    mt := loadThread s core k0.mt (base + 0x1_E600)
    mvq := loadMvq s (base + 0x1_E718), ops := k0.ops.map (loadCursor s (base + 0x1_E800))
    h := Vector.ofFn fun i => loadHandle s (base + 0x1_EC00 + 64 * i.val) k0.h[i]
    inbox := ((List.range k0.inbox.length).zip k0.inbox).map (fun r => loadRecord s (base + 0x1_F000 + 64 * r.1) r.2)
    mq := ((List.range k0.mq.length).zip k0.mq).map (fun c => if c.1 < 8 then loadCmd s (base + 0x1_F200 + 128 * c.1) c.2 else c.2)
    l1 := [], ibuf := [] }
  loadSlotTls (setCore s core (loadErrors s (loadWaits s (loadTask s k1 (base + 0x1_E518)) (base + 0x1_EE00)) base)) core base

/-! ## The boundary (R48, R426, R487) -/

/-- Has the entry that claims a waiting core fired, so that its stop is deferred to the release (R66)? -/
def claimFired (s : State) (core : Nat) : Bool :=
  let k := coreOf s core
  match k.ct.wait with
  | .bar (some n) _ => (seqAt s (groupBlk k) (groupSeq k)).buf.any (fun e => e.sq.toNat == n && e.fired.isSome)
  | _ => false

/-- Does a thread have to go on before its core can stop? -/
def threadHolds (s : State) (core : Nat) (mt : Bool) : Bool :=
  let t := threadOf s core mt
  t.active && (match t.wait with
    | .access _ => !waitRestarts s core mt t
    | .bar _ _ => claimFired s core
    | _ => false)

/-- Must a thread first enter its block, so that its program counter addresses an instruction word (R203)? -/
def threadOutside (s : State) (core : Nat) (mt : Bool) : Bool :=
  let t := threadOf s core mt
  t.active && !t.looped && t.wait == .none && t.entry != .word

/-- Does a matrix command that uses the core's registers execute? -/
def matrixBusy (s : State) (core : Nat) : Bool :=
  let runs (c : MCmd) : Bool := c.started && !c.stopped && !c.proxy
  match mqHead s core with
  | none => false
  | some c => runs c || (c.proxy && (mqHead s c.bcore).any (fun l => runs l && l.partners.contains (core, c.num)))

/-- Is a copy or a gather within a sector of its destination? Cursors are saved at sector granularity (Table 2.6). -/
def midSector (o : EngOp) : Bool :=
  let within (dst : Nat) : Bool := !o.stopped && o.phase != phaseDone && decide (o.cursor ≠ 0) && decide (sectorStart (dst + o.cursor) ≠ dst + o.cursor)
  match o.op with
  | .copy dst _ _ => within dst
  | .gather dst _ _ _ _ _ => within dst
  | _ => false

/-- Are the loads of a core bound or held, its matrix command finished, its copies at the end of a sector, its engine faults recorded? -/
def drained (s : State) (core : Nat) : Bool :=
  !matrixBusy s core && !countsWait s core && !(enginesRun (coreOf s core) && (coreOf s core).ops.any midSector) &&
  s.net.all (fun a => a.core != core || !a.op.reads || a.isHeld) &&
  s.pending.all (fun e => match e with
    | .engineFault c _ _ _ => c != core
    | .pendingLoadFault aid _ => (accFind s aid).all (fun a => a.core != core)
    | _ => true)

/-- Can a core stop now, with its gang at one boundary (R428)? -/
def canStop (s : State) (core : Nat) : Bool :=
  (gangOf s core).all (fun c => !threadHolds s c false && !threadHolds s c true) && drained s core

/-- A stop that finds a thread of the core before a block's entry enters the block first. (DEDUCED: log 25.) -/
def enterFirst (s : State) (core : Nat) : Option State :=
  if threadOutside s core false then some (reachWord s (leaderOf s core) false)
  else if threadOutside s core true then some (reachWord s core true)
  else none

/-- Reads of access kind 3 that their instruction has not taken yet go: it executes afresh (R487). -/
def dropReads (s : State) (core : Nat) (mt : Bool) : State :=
  let s0 := dropHeld s core mt
  let t := threadOf s0 core mt
  let ids := (t.slots.filter (fun x => x.dst == .bytes)).map (·.id)
  let s1 := { s0 with net := s0.net.filter (fun a => !(a.core == core && a.mt == mt && ids.contains a.slot && a.op.reads)) }
  setThread s1 core mt { t with slots := t.slots.filter (fun x => !ids.contains x.id) }

/-- A thread at its boundary: only WAIT and GBAR keep their wait (R49, R66, R71); the ticks waited so far are kept (R458). -/
def Thread.atBoundary (t : Thread) (now : Nat) : Thread :=
  let t1 := { t with
    yielded := false, relPass := false, relMark := none, got := []
    fuseKept := match t.wait with | .fuse m => m | _ => 0 }
  match t.wait with
  | .bar _ _ => { t1 with waitFrom := now - t.waitFrom }
  | .gbar _ _ => { t1 with waitFrom := now - t.waitFrom }
  | .tlw _ _ _ _ => { t1 with wait := .none, waitKept := some (now - t.waitFrom, t.waitRaised) }
  | .fuse _ => { t1 with wait := .none, waitKept := some (now - t.waitFrom, t.waitRaised) }
  | _ => { t1 with wait := .none }

/-- A claimed WAIT becomes absent in its entry (R66). -/
def markAbsent (s : State) (core : Nat) : State :=
  let k := coreOf s core
  match k.ct.wait with
  | .bar (some n) _ =>
    let q := seqAt s (groupBlk k) (groupSeq k)
    let m := groupMember k
    setSeq s (groupBlk k) (groupSeq k) { q with buf := q.buf.map (fun e =>
      if e.sq.toNat = n then { e with wait := setBit e.wait m false, abs := setBit e.abs m true } else e) }
  | _ => s

/-- A recorded claim is asserted again, or the WAIT is unclaimed where no entry of that number stands (R67). (DEDUCED: log 55.) -/
def reassert (s : State) (core : Nat) : State :=
  let k := coreOf s core
  match k.ct.wait with
  | .bar (some n) bit =>
    let q := seqAt s (groupBlk k) (groupSeq k)
    let m := groupMember k
    if q.buf.any (fun e => e.sq.toNat == n && e.abs.getLsbD m) then
      setSeq s (groupBlk k) (groupSeq k) { q with buf := q.buf.map (fun e =>
        if e.sq.toNat = n then { e with abs := setBit e.abs m false, wait := if bit then setBit e.wait m true else e.wait }
        else e) }
    else
      match claimOf q m with
      | none => setThread s core false { k.ct with wait := .bar none bit }
      | some e =>
        let s1 := setThread s core false { k.ct with wait := .bar (some e.sq.toNat) bit }
        if bit then setSeq s1 (groupBlk k) (groupSeq k) (q.setWait e.sq.toNat m) else s1
  | .bar none bit =>
    let q := seqAt s (groupBlk k) (groupSeq k)
    let m := groupMember k
    match claimOf q m with
    | none => s
    | some e =>
      let s1 := setThread s core false { k.ct with wait := .bar (some e.sq.toNat) bit }
      if bit then setSeq s1 (groupBlk k) (groupSeq k) (q.setWait e.sq.toNat m) else s1
  | _ => s

/-- The common part of a stop and a halt: counts flushed, unfinished reads dropped, both threads at their boundary. A halted core
stands there already. -/
def quiesce (s : State) (core : Nat) : State :=
  if (coreOf s core).dbg.halted then s else
  let s1 := dropReads (dropReads (flushCounts s core) core false) core true
  let s2 := markAbsent s1 core
  let k := coreOf s2 core
  setCore s2 core { k with ct := k.ct.atBoundary s.dev.time, mt := k.mt.atBoundary s.dev.time, cnt := [] }

/-- What a core that waits in WAIT or GBAR does when it runs again: its block is fetched again (R203), a GBAR that was released
meanwhile is left with its acquire (R71), an arrival that can be signalled is. (DEDUCED: log 55.) -/
def rewait (s : State) (core : Nat) : State :=
  let leave (st : State) : State :=
    match (coreOf st core).ct.wait with
    | .gbar true l => if 65536 ≤ l then finishWait (acquireAt st core (coreOf st core).launchRect) core false else st
    | _ => st
  let t := (coreOf s core).ct
  if t.wait = .none ∨ t.active = false then s
  else
    let s1 := setThread s core false { t with waitFrom := s.dev.time - t.waitFrom }
    arrivals (leave (reachWord s1 (leaderOf s1 core) false)) core

/-! ## CORE_STOP -/

/-- The number that names the accesses of a saved core in flight: its position and an unused multiple of 2^20. (DESIGN CHOICE: log 40.) -/
def ghostOf (s : State) (core : Nat) : Nat :=
  let used := ((s.ctxs.map (fun c => (c.2.saved.map (fun r => r.cores.map (fun x => x.pos / 2 ^ 20))).flatten)).flatten).foldl max 0
  core % 2 ^ 20 + (used + 1) * 2 ^ 20

/-- A device step that acts for a core's ring handle, for another number of the core. -/
def Ev.forCore (old new : Nat) : Ev → Ev
  | .ringReservationRequest tx h => .ringReservationRequest (if tx = old then new else tx) h
  | .ringGrant tx h g => .ringGrant (if tx = old then new else tx) h g
  | .commitComplete tx h => .commitComplete (if tx = old then new else tx) h
  | e => e

/-- The accesses, ring steps and held messages of a core go on under another number. (DESIGN CHOICE: log 40.) -/
def renumber (s : State) (old new : Nat) : State :=
  let b := blockAt s (blockOf old)
  let mine := b.held.filter (fun h => h.core == old)
  let s1 := { s with
    net := s.net.map (fun a => if a.core = old then { a with core := new } else a)
    pending := s.pending.map (Ev.forCore old new) }
  if mine.isEmpty then s1
  else
    let s2 := setBlock s1 (blockOf old) { b with held := b.held.filter (fun h => h.core != old) }
    let b2 := blockAt s2 (blockOf new)
    setBlock s2 (blockOf new) { b2 with held := b2.held ++ mine.map (fun h => { h with core := new }) }

/-- The wakes that travel to a core reach its latch. (DEDUCED: log 37.) -/
def takeWakes (s : State) (core : Nat) : State :=
  if s.pending.contains (.wakeArrival core) then
    setCore { s with pending := s.pending.filter (· != .wakeArrival core) } core { coreOf s core with wake := true }
  else s

/-- Rank of a core among the granted cores, row-major over the grants in table order (Table 19.2). -/
def grantRank (core : Nat) : List Word → Nat
  | [] => 0
  | g :: gs =>
    if malformedRect g then grantRank core gs
    else if coreIn core g then memberIdx core (rectOf g)
    else rectCount (rectOf g) + grantRank core gs

/-- The save slot of a core in a context. -/
def saveSlot (c : Context) (core : Nat) : Nat := c.tab.save + slotBytes * grantRank core c.tab.grants

/-- The saved rectangle that a core that stops belongs to: the latest one that holds its position. -/
def addSaved (x : Saved) (rs : List SavedRect) : List SavedRect :=
  let i := (List.range rs.length).foldl (fun n j => if (rs[j]?).any (fun r => coreIn (x.pos % 2 ^ 20) r.rect) then some j else n) none
  match i with
  | none => rs
  | some j => (List.range rs.length).zip rs |>.map (fun r => if r.1 = j then { r.2 with cores := r.2.cores ++ [x] } else r.2)

/-- A position that a pre-empted core has left: its debug registers stay, its unit is free. -/
def vacated (k : Core) : Core :=
  { Core.reset with
    ctx := k.ctx, win := k.win, l1kb := k.l1kb, stopped := true
    dbg := { k.dbg with halted := false, why := 0, pendHalt := none, step := false } }

/-- A bound point goes back to its window (R157). -/
def giveBack (s : State) (core : Nat) : State :=
  match (coreOf s core).walkAtt with
  | none => s
  | some a => match a.bound with
    | none => s
    | some p =>
      let s1 := returnPoint s a.asid a.wid p
      setCore s1 core { coreOf s1 core with walkAtt := some { a with bound := none } }

/-- The saved cores of a context. -/
def savedOf (s : State) (asid : Nat) : List Saved := ((ctxOf s asid).map (fun c => (c.saved.map (·.cores)).flatten)).getD []

/-- Is a member of a launch saved, one that has retired its END or has yet to start among them (R68)? -/
def memberSaved (s : State) (asid serial : Nat) (core : Nat) : Bool :=
  (savedOf s asid).any (fun x => x.pos % 2 ^ 20 == core && (coreSerials x.core).contains serial)

/-- Once every member of a group is pre-empted, its sequencer's image is saved, with member 0 and in the state, and the
sequencer is IDLE (R68). -/
def saveSeqs (s : State) (asid serial : Nat) : State :=
  match s.dev.placed.find? (fun p => p.serial == serial) with
  | none => s
  | some p =>
    p.seqs.foldl (fun st x =>
      let q := seqAt st x.1 x.2.1
      if (savedSeqAt st x.1 x.2.1).isSome || !((List.range q.gsz).map q.member).all (memberSaved st asid serial) then st
      else match ctxOf st asid with
        | none => st
        | some c =>
          let put (r : SavedRect) : SavedRect :=
            if r.cores.any (fun y => y.pos % 2 ^ 20 == q.core0) && !r.seqs.any (fun z => z.1 == x.1 && z.2.1 == x.2.1) then
              { r with seqs := r.seqs ++ [(x.1, x.2.1, q)] }
            else r
          let slot := ((savedOf st asid).find? (fun y => y.pos % 2 ^ 20 == q.core0)).map (·.slot)
          let st1 := setCtx st asid { c with saved := c.saved.map put }
          let st2 := match slot with
            | none => st1
            | some a => { st1 with mem := writeWords st1.mem (a + 0x1_F700) (seqImage q) }
          setSeq st2 x.1 x.2.1 Sequencer.reset) s

/-! ## The engine-state area (Table 19.7) -/

/-- A reduction session in the area, 64 bytes. -/
def sessWords (x : Session) : List Word :=
  let st : Nat := match x.st with
    | .closed => 0
    | .opening => 1
    | .opened => 2
    | .closing => 3
  [BitVec.ofNat 64 (st + x.ty.code.toNat * 2 ^ 8), BitVec.ofNat 64 x.base, BitVec.ofNat 64 x.size, BitVec.ofNat 64 x.num,
   BitVec.ofNat 64 x.core, BitVec.ofNat 64 x.opens, BitVec.ofNat 64 x.closes, BitVec.ofNat 64 x.raised.toNat]

/-- A level record (Table 7.1), 128 bytes. -/
def levelWords (l : Level) : List Word :=
  [BitVec.ofNat 64 l.og, BitVec.ofNat 64 l.ranges.length] ++
  ((List.range 4).map (fun j => match l.ranges[j]? with
    | some r => [BitVec.ofNat 64 r.1, BitVec.ofNat 64 r.2]
    | none => [0, 0])).flatten ++ List.replicate 6 0

/-- A walk state in the area: its record, cursor and counts. -/
def walkWords (w : Walk) : List Word :=
  w.record ++ [BitVec.ofNat 64 w.cursor, BitVec.ofNat 64 ((w.pts.filter (fun p => p.2 == .done)).length), BitVec.ofNat 64 w.traceN,
   BitVec.ofNat 64 w.traceLost, w.rect, BitVec.ofNat 64 w.attached]

/-- The engine state of a context written to its area in memory, as its engines hold it. (DESIGN CHOICE: log 83.) -/
def writeEng (m : List Host.Cell) (c : Context) : List Host.Cell :=
  let e := c.tab.eng
  let m1 := (List.range 256).foldl (fun m i => writeBytes m (e + 64 * i) (leBytes 64 ((mapGet c.ldt i).getD 0).toNat)) m
  let m2 := writeWords m1 (e + 0x4000) ((c.sessions.toList.map sessWords).flatten)
  let m3 := c.walks.foldl (fun m w => writeWords m (e + 0x4400 + 4096 * w.1) (walkWords w.2)) m2
  let m4 := writeWords m3 (e + 0x1_4400) [BitVec.ofNat 64 c.snapG, BitVec.ofNat 64 c.levels.length]
  let m5 := writeWords m4 (e + 0x1_4440) ((c.levels.map levelWords).flatten)
  let seeds := (c.seeds.map (fun x => leBytes 16 x.toNat)).flatten
  writeBytes m5 (e + 0x1_4840) (seeds ++ List.replicate (256 - seeds.length) 0)

/-- The loaded descriptors, the snapshot counters and levels and the seed stack of a context as its area in memory holds them.
(DESIGN CHOICE: log 83.) -/
def readEng (m : List Host.Cell) (c : Context) : Context :=
  let e := c.tab.eng
  let g := (readW m (e + 0x1_4400)).toNat
  let level (k : Nat) : Level :=
    let a := e + 0x1_4440 + 128 * k
    { og := (readW m a).toNat
      ranges := (List.range ((readW m (a + 8)).toNat % 8)).map (fun j => ((readW m (a + 16 + 16 * j)).toNat, (readW m (a + 24 + 16 * j)).toNat)) }
  { c with
    ldt := ((List.range 256).map (fun i => (i, BitVec.ofNat 512 (readLe m (e + 64 * i) 64)))).filter (fun x => dV x.2)
    snapG := g, levels := (List.range ((readW m (e + 0x1_4408)).toNat % 16)).map level
    seeds := (List.range c.seeds.length).map (fun i => BitVec.ofNat 128 (readLe m (e + 0x1_4840 + 16 * i) 16)) }

/-- PREEMPT or CTXEVICT ends when the cores it stopped are saved; an evicted context is no longer resident (R405, R407). (DEDUCED: log 57.) -/
def endStops (s : State) : State :=
  match s.dev.svcStop with
  | none => s
  | some (asid, evict) =>
    match ctxOf s asid with
    | none => s
    | some c =>
      if c.saved.any (fun r => !savedComplete s r) then s
      else
        let s1 := if evict then
            { setCtx s asid { c with resident := false } with mem := writeEng s.mem c }
          else s
        setDev s1 { s1.dev with svcStop := none, svcBusy := false, svcDone := true, svcStatus := 0 }

/-- A core at its boundary is saved, and its position is free (R48). (DEDUCED: log 41.) -/
def saveCore (s0 : State) (core : Nat) : State :=
  let asid := (coreOf s0 core).ctx.getD 0
  match ctxOf s0 asid with
  | none => setCore s0 core (vacated (coreOf s0 core))
  | some c0 =>
    let slot := saveSlot c0 core
    let s1 := saveImage (takeWakes (giveBack (quiesce s0 core) core) core) core slot
    let k := coreOf s1 core
    let g := ghostOf s1 core
    let k1 := { k with
      l1 := [], ibuf := [], ops := k.ops.map (fun o => { o with buf := [] }), stopped := false, stopReq := false, cycleHeld := cycleNow s1 (blockOf core) - k.cycleFrom }
    let x : Saved := { pos := g, slot := slot, core := k1 }
    let s2 := setCore (renumber s1 core g) core (vacated k)
    let s3 := match ctxOf s2 asid with
      | none => s2
      | some c => setCtx s2 asid { c with saved := addSaved x c.saved }
    (coreSerials k).eraseDups.foldl (fun st n => saveSeqs st asid n) s3

/-- CORE_STOP: a core that was asked to stop is saved once it stands at its boundary and has drained. -/
def execCoreStop (core : Nat) (s : State) : Host.Outcome State Fault Refusal :=
  .next (
    if !(coreOf s core).stopReq || !canStop s core then s
    else match enterFirst s core with
      | some t => t
      | none => endStops (saveCore s core))

/-- A rectangle of a context is asked to stop: a saved rectangle is made for it, and each of its cores is told. Cores whose
earlier occupant is saved and that hold nothing are not. (DEDUCED: log 41.) -/
def askStop (s : State) (asid : Nat) (rect : Word) : State :=
  match ctxOf s asid with
  | none => s
  | some c =>
    let f := rectOf rect
    let first := (s.dev.placed.filter (fun p => p.asid == asid && rectsMeet (rectOf p.rect) f)).foldl
      (fun (n : Option Placed) p => if n.any (fun q => decide (q.order ≤ p.order)) then n else some p) none
    let s1 := setCtx s asid { c with saved := c.saved ++
      [{ rect := rect, cores := [], seqs := [], armed := (first.map (·.armed)).getD s.dev.time, order := (first.map (·.order)).getD s.dev.armN
         resv := none, starved := first.any (·.starved) }] }
    (rectCores f).foldl (fun st i =>
      let k := coreOf st i
      if k.stopped then st else setCore st i { k with stopReq := true, ctx := some asid }) s1

/-! ## RESTORE -/

/-- What a restore moves: the old and the new rectangle, and the sequencers, old and new. -/
structure Move where
  from_ : Word
  to_ : Word
  seqs : List ((Nat × Nat) × (Nat × Nat))
  deriving DecidableEq, Repr

/-- A core that moves with the rectangle. -/
def Move.core (m : Move) (cs : List Nat) (c : Nat) : Nat :=
  if cs.contains c then shiftCore (rectOf m.from_) (rectOf m.to_) c else c

/-- The block that takes the place of a block. -/
def Move.block (m : Move) (cs : List Nat) (b : Nat) : Nat :=
  match cs.find? (fun c => blockOf c == b) with
  | none => b
  | some c => blockOf (m.core cs c)

/-- A launch rectangle that moves. -/
def Move.rect (m : Move) (x : Word) : Word := if m.from_ = m.to_ then x else shiftRect x (rectOf m.from_) (rectOf m.to_)

/-- A sequencer that moves. -/
def Move.seq (m : Move) (b q : Nat) : Nat × Nat := (m.seqs.find? (fun x => x.1 == (b, q))).elim (b, q) (·.2)

/-- MEMBERSHIP at the new position: blk, and seq of a moved group (R50). -/
def Move.membership (m : Move) (w : Word) : Word :=
  if w.getLsbD 56 then
    let p := m.seq (field w 31 24) (field w 63 57)
    putField (putField w 31 24 p.1) 63 57 p.2
  else w

/-- A task record at the new position. -/
def Move.record (m : Move) (old : Nat) (r : TaskRec) : TaskRec :=
  { r with rect := m.rect r.rect, seq := if r.gv then (m.seq (blockOf old) r.seq).2 else r.seq }

/-- An engine operation at the new position: the sequencer that its tag names. -/
def Move.op (m : Move) (o : EngOp) : EngOp :=
  { o with tag := o.tag.map (fun t => let p := m.seq t.1 t.2.1; (p.1, p.2, t.2.2)) }

/-- A matrix command at the new position: the cores that an MMAG names. -/
def Move.cmd (m : Move) (cs : List Nat) (c : MCmd) : MCmd :=
  { c with partners := c.partners.map (fun p => (m.core cs p.1, p.2)), bcore := m.core cs c.bcore }

/-- A saved core as it runs again at a position; a thread that a trap loop stopped goes on from there (R448). -/
def Move.state (m : Move) (cs : List Nat) (s : State) (asid : Nat) (x : Saved) : Core :=
  let old := x.pos % 2 ^ 20
  let k := x.core
  let here := coreOf s (m.core cs old)
  let ghost := coreOf s x.pos
  let now := cycleNow s (blockOf (m.core cs old))
  let loop := k.ct.looped || k.mt.looped
  { k with
    ctx := some asid, stopped := false, stopReq := false, powered := true, contained := false
    cycleFrom := now - k.cycleHeld
    dbg := { here.dbg with
      halted := k.dbg.halted && !loop, why := if loop then 0 else k.dbg.why, pendHalt := if loop then none else k.dbg.pendHalt
      step := k.dbg.step }
    membership := m.membership k.membership, launchRect := m.rect k.launchRect
    taskRec := k.taskRec.map (m.record old), inbox := k.inbox.map (m.record old)
    ops := k.ops.map m.op, mq := k.mq.map (m.cmd cs), walkAtt := k.walkAtt
    blocked := false
    ct := { k.ct with
      pendTraps := k.ct.pendTraps ++ ghost.ct.pendTraps, lastIssue := now, looped := false, notBefore := min k.ct.notBefore now, prompt := none }
    mt := { k.mt with
      pendTraps := k.mt.pendTraps ++ ghost.mt.pendTraps, lastIssue := now, looped := false, notBefore := min k.mt.notBefore now
      prompt := none } }

/-- The key of an aperture piece or of a ring slot at the new position; an access replayed is translated afresh. -/
def Move.access (m : Move) (cs : List Nat) (s : State) (a : Access) : Access :=
  if !a.isKey then a
  else match a.op, keyHome a.va with
    | .send _ _ _ _, .core rx =>
      let d := m.core cs rx
      { a with va := localKey d (a.va - localKey rx 0), addr := 0xF2_0000_0000_0000 + d * 2 ^ 20 + (a.va - localKey rx 0) }
    | _, _ => match apPieces s a.core a.asid a.addr a.n with
      | some [p] => { a with va := p.key }
      | _ => a

/-- A saved core is placed at its position, with its image and what is in flight for it. -/
def restoreCore (m : Move) (cs : List Nat) (asid : Nat) (s : State) (x : Saved) : State :=
  let new := m.core cs (x.pos % 2 ^ 20)
  let s1 := loadImage (setCore s new x.core) new x.slot
  let s2 := setCore s1 new (m.state cs s asid { x with core := coreOf s1 new })
  let s3 := renumber { s2 with cores := mapErase s2.cores x.pos } x.pos new
  { s3 with net := s3.net.map (fun a => if a.core = new then m.access cs s3 a else a) }

/-- The sequencers of wholly pre-empted groups are loaded (R68). -/
def loadSeqs (m : Move) (cs : List Nat) (s : State) (olds : List (Nat × Nat × Sequencer)) : State :=
  olds.foldl (fun st x =>
    let p := m.seq x.1 x.2.1
    setSeq st p.1 p.2 { x.2.2 with core0 := m.core cs x.2.2.core0 }) s

/-- What the Hive holds of the launches of a moved rectangle. -/
def Move.placed (m : Move) (cs : List Nat) (serials : List Nat) (p : Placed) : Placed :=
  if m.from_ = m.to_ || !serials.contains p.serial then p
  else { p with
    rect := m.rect p.rect, ended := p.ended.map (m.core cs)
    seqs := p.seqs.map (fun x => let q := m.seq x.1 x.2.1; (q.1, q.2, m.core cs x.2.2))
    seqFault := p.seqFault.map (fun x => m.seq x.1 x.2) }

/-- A walk of a moved rectangle. -/
def Move.walk (m : Move) (cs : List Nat) (serials : List Nat) (w : Walk) : Walk :=
  let f := m.core cs
  let w1 := { w with core := f w.core, closing := w.closing.map f }
  if m.from_ = m.to_ || !serials.contains w.serial then w1
  else { w1 with
    rect := m.rect w.rect
    attach := w.attach.map (fun r => { r with rect := m.rect r.rect })
    pts := w.pts.map (fun p => (p.1, match p.2 with
      | .bound c => .bound (f c)
      | .running c => .running (f c)
      | y => y))
    kept := w.kept.map (fun k => (k.1, m.block cs k.2.1, k.2.2)) }

/-- The engine state of a context after its cores moved. -/
def Move.ctx (m : Move) (cs : List Nat) (serials : List Nat) (c : Context) : Context :=
  let f := m.core cs
  { c with
    sessions := c.sessions.map (fun x => { x with core := f x.core, openCore := f x.openCore })
    walks := c.walks.map (fun w => (w.1, m.walk cs serials w.2))
    snapOps := c.snapOps.map (fun o => (o.1, o.2.1, o.2.2.1, f o.2.2.2)) }

/-- A prefetch of a moved walk, at the Weevil of its block's new place. -/
def Move.prefetch (m : Move) (cs : List Nat) (mine : Nat → Nat → Bool) (e : Ev) : Ev :=
  match e with
  | .prefetchComplete b asid wid p tile => if mine asid wid then .prefetchComplete (m.block cs b) asid wid p tile else e
  | _ => e

/-- The candidates of the walks of moved launches, in the windows of their new blocks with their prefetches. (DEDUCED: log 46.) -/
def moveCands (m : Move) (cs serials : List Nat) (asid : Nat) (s : State) : State :=
  let moved (a wid : Nat) : Bool := a == asid && (walkOf s asid wid).any (fun w => serials.contains w.serial)
  let mine (x : Cand) : Bool := moved x.asid x.wid
  let olds := s.blocks.map (fun b => (m.block cs b.1, b.2.cands.filter mine))
  let s1 := { s with
    blocks := s.blocks.map (fun b => (b.1, { b.2 with cands := b.2.cands.filter (fun x => !mine x) }))
    pending := s.pending.map (m.prefetch cs moved) }
  olds.foldl (fun st x =>
    if x.2.isEmpty then st else issuePrefetches (x.2.foldl (fun st2 c => setCands st2 x.1 (insertCand c)) st) x.1) s1

/-- A commit on its way to a core that moved (R352). -/
def Move.commit (m : Move) (cs serials : List Nat) (c : Commit) : Commit :=
  if serials.contains c.serial then { c with rx := m.core cs c.rx } else c

/-- The commits of every core, resident or saved, after cores moved. -/
def moveCommits (m : Move) (cs serials : List Nat) (s : State) : State :=
  let f (k : Core) : Core := { k with commits := k.commits.map (m.commit cs serials) }
  { s with
    core := f s.core, cores := s.cores.map (fun k => (k.1, f k.2))
    ctxs := s.ctxs.map (fun c =>
      (c.1, { c.2 with saved := c.2.saved.map (fun r => { r with cores := r.cores.map (fun x => { x with core := f x.core }) }) })) }

/-- The combining tree's counts of a moved launch (R71). -/
def Move.dom (m : Move) (cs : List Nat) (serials : List Nat) (d : LDom) : LDom :=
  if serials.contains d.serial then { d with arrived := d.arrived.map (m.core cs), lastCore := m.core cs d.lastCore } else d

/-- A halted core that moved finds its image in the debug save area of its new position. (DESIGN CHOICE: log 34.) -/
def reimage (m : Move) (cs : List Nat) (s : State) (x : Saved) : State :=
  let new := m.core cs (x.pos % 2 ^ 20)
  let k := coreOf s new
  if k.dbg.halted && new != x.pos % 2 ^ 20 then saveImage s new k.dbg.save.toNat else s

/-- Accesses that wait for a pre-empted target are retried (R450). -/
def retryAbsent (s : State) : State :=
  (s.net.filter (fun a => match a.stage with
    | .logged c => causeCode c == causeRemoteAbsent
    | .held c => causeCode c == causeRemoteAbsent && decide (a.core < 2 ^ 20)
    | _ => false)).foldl (fun st a => replayOne redApply st a.id) s

/-- Every core of a saved rectangle is restored at a position, before any issues (R50); entries of the side logs and the stopped
operations are retried (R450, R453), the remote-absent entries that wait for these cores too. -/
def restoreRect (s : State) (asid index : Nat) (r : SavedRect) (x : Word) : State :=
  let olds := savedSeqs s asid r
  let plan := (restorePlan s asid r x).getD []
  let m : Move := { from_ := r.rect, to_ := x, seqs := (olds.map (fun y => (y.1, y.2.1))).zip plan }
  let cs := savedCores r
  let ns := savedSerials r
  let s1 := { s with ctxs := s.ctxs.map (fun c =>
    (c.1, if c.1 = asid then
        let kept := (c.2.saved.eraseIdx (index - 4096)).map (fun y =>
          { y with seqs := y.seqs.filter (fun z => !olds.any (fun w => w.1 == z.1 && w.2.1 == z.2.1)) })
        m.ctx cs ns { c.2 with saved := kept }
      else c.2)) }
  let s2 := setDev s1 { s1.dev with
    placed := (s1.dev.placed.map (m.placed cs ns)).map (fun p => if r.starved && ns.contains p.serial then { p with starved := true } else p)
    ldoms := s1.dev.ldoms.map (fun d => (d.1, m.dom cs ns d.2)) }
  let vac (st : State) (c : Nat) : State := let k := coreOf st c; setCore st c { k with stopped := false }
  let s2a := if m.from_ = m.to_ then s2 else moveCands m cs ns asid s2
  let s3 := r.cores.foldl (restoreCore m cs asid) (loadSeqs m cs (cs.foldl vac s2a) olds)
  let s4 := moveCommits m cs ns (r.cores.foldl (reimage m cs) s3)
  let news := cs.map (m.core cs)
  let runs := news.filter (fun c => !(coreOf s4 c).dbg.halted)
  let s5 := runs.foldl (fun st c => reassert (injectHeld st c) c) s4
  let s6 := runs.foldl rewait s5
  let pass (st : State) (p : Nat × Bool) : State :=
    if (accsOf st p.1 p.2).any (fun a => a.logged || a.isHeld) then post st (.replayPass p.1 p.2) else st
  let s7 := news.foldl (fun st c => pass (pass st (c, false)) (c, true)) s6
  s7.ctxs.foldl (fun st c => retryEngines (.restore (if c.1 = asid then news else [])) st c.1) (retryAbsent s7)

/-- RESTORE: the placer restores a saved rectangle of a context at the lowest position that R50 and R68 permit; a gated block
there is woken first. -/
def execRestore (asid : Nat) (rect : Word) (s : State) : Host.Outcome State Fault Refusal :=
  .next (match (allSaved s).find? (fun x => x.1 == asid && x.2.2.rect == rect && (restoreSpot s x.1 x.2.1 x.2.2).isSome) with
    | none => s
    | some x => match restoreSpot s asid x.2.1 x.2.2 with
      | none => s
      | some y => if (gatedIn s y).isEmpty then post (restoreRect s asid x.2.1 x.2.2 y) .placement else askWake s (gatedIn s y))

/-! ## What is enabled -/

/-- The stop of a core that was asked to stop. -/
def enabledStop (s : State) (core : Nat) : List Ev :=
  if (coreOf s core).stopReq && canStop s core then [Ev.coreStop core] else []

/-- The saved rectangles that can be restored, where no launch that was armed earlier can be placed. (DEDUCED: log 41.) -/
def enabledRestore (s : State) : List Ev :=
  ((allSaved s).filter (fun x => (restoreSpot s x.1 x.2.1 x.2.2).isSome &&
    !s.dev.waiting.any (fun w => decide (w.order < x.2.2.order) && placeAct s w != .hold))).map
    (fun x => Ev.restore x.1 x.2.2.rect)

end Sys2Proof.Machine
end

