-- ==== Sys2Proof/Machine/Super.lean ====
section
/-!
DEFINITION. Supervisor commands (R402 to R407, R412, R459, R476, R477), the HOME_TABLE (R84) and shoot-downs (R105 to R108).
-/

namespace Sys2Proof.Machine

/-! ## Status -/

/-- The command in progress ends with a status (Table 19.3). -/
def svcEnd (s : State) (status : Nat) : State :=
  setDev s { s.dev with svcBusy := false, svcDone := true, svcStatus := BitVec.ofNat 16 status }

/-- The context that a command names, if it is resident. -/
def residentCtx (s : State) (a : Word) : Option (Nat × Context) :=
  if 2 ^ 16 ≤ a.toNat then none
  else ((ctxOf s a.toNat).filter (·.resident)).map (fun c => (a.toNat, c))

/-- A command on blocks some of which are gated wakes them and goes on afterwards (R422). -/
def afterWake (s : State) (bs : List Nat) (e : Ev) (f : State → State) : State :=
  if bs.isEmpty then f s else post (askWake s bs) e

/-! ## CTXLOAD (R403, Table 19.2) -/

/-- A word of a context table. -/
def tabWord (s : State) (pa j : Nat) : Word := hiveWord s (pa + 8 * j)

/-- The rectangles of a grant list. -/
def grantRects (gs : List Word) : List Word := gs.filter (fun g => g != 0xFFFF_FFFF_FFFF_FFFF)

/-- The fields of a context table. -/
def readTab (s : State) (pa : Nat) : CtxTab :=
  let w := tabWord s pa
  let sh := field (w 10) 63 32
  let res := field (w 12) 63 32
  { pa := pa, asid := field (w 0) 15 0, ptroot := (w 1).toNat, tdt := w 2, tvec := w 3, tcmp := w 4, cntb := w 5
    pool := (w 6).toNat, eng := (w 7).toNat, save := (w 8).toNat, bsbase := field (w 9) 15 0, bssize := field (w 9) 31 16
    shlim := sh, pinlim := field (w 10) 31 0, shpool := (w 11).toNat, shres := if res = 0 then sh else res
    wait := field (w 12) 31 0, grants := (List.range 8).map (fun j => w (13 + j))
    peers := ((List.range 4).filter (fun j => field (w (21 + j)) 15 0 != 0xFFFF)).map (fun j =>
      (field (w (21 + j)) 15 0, field (w (21 + j)) 31 16))
    evlog := field (w 25) 52 48, evbase := field (w 25) 47 0, msia := w 26, msid := (w 27).setWidth 32, bssave := (w 28).toNat }

/-- Are the reserved fields of a table zero, and is it valid? -/
def tabReservedOk (s : State) (pa : Nat) : Bool :=
  let w := tabWord s pa
  (w 0).getLsbD 63 && field (w 0) 62 16 == 0 && field (w 9) 63 32 == 0 && field (w 25) 63 53 == 0 && field (w 27) 63 32 == 0 &&
  (List.range 4).all (fun j => field (w (21 + j)) 63 32 == 0) && w 29 == 0 && w 30 == 0 && w 31 == 0

/-- Does an address lie in HBM (Table 5.1)? -/
def inHbm (pa : Nat) : Bool := decide (pa < 2 ^ 41)

/-- Are the addresses of a table aligned and in range, and its sizes within their limits? (DEDUCED: log 56.) -/
def tabFieldsOk (t : CtxTab) (shres : Nat) : Bool :=
  t.ptroot % 16384 == 0 && inHbm t.ptroot && t.pool % 65536 == 0 && t.eng % 2 ^ 22 == 0 && inHbm t.eng && inHbm t.save &&
  t.shpool % 256 == 0 && inHbm t.shpool && t.bssave % 65536 == 0 && inHbm t.bssave && t.evbase % 32 == 0 && inHbm t.evbase &&
  decide (4 ≤ t.evlog) && decide (t.evlog ≤ 16) && decide (64 ≤ t.bsbase) && decide (t.shlim ≤ shres) &&
  t.peers.all (fun p => decide (p.1 < 4096))

/-- Does a partition lie below the block-store size of every block in service (R13, R80)? -/
def partitionOk (s : State) (t : CtxTab) : Bool :=
  (List.range 256).all (fun b => (blockAt s b).wdn || decide (t.bsbase + t.bssize ≤ 64 * (blockAt s b).bsz))

/-- Is a partition apart from those of the other resident contexts (R80)? -/
def partitionApart (s : State) (t : CtxTab) : Bool :=
  s.ctxs.all (fun c => !c.2.resident || c.1 == t.asid || decide (c.2.tab.bsbase + c.2.tab.bssize ≤ t.bsbase) ||
    decide (t.bsbase + t.bssize ≤ c.2.tab.bsbase))

/-- Are rectangles disjoint? -/
def rectsApart : List Word → Bool
  | [] => true
  | g :: gs => gs.all (fun h => !rectsMeet (rectOf g) (rectOf h)) && rectsApart gs

/-- Do grants meet R31: aligned, disjoint, also from those of the other resident contexts, with no core of a withdrawn block? -/
def grantsOk (s : State) (asid : Nat) (gs : List Word) : Bool :=
  let rs := grantRects gs
  rs.all (fun g => !malformedRect g && octetAligned (rectOf g)) && rectsApart rs &&
  rs.all (fun g => s.blocks.all (fun b => !(b.2.wdn && rectMeetsBlock (rectOf g) b.1))) &&
  s.ctxs.all (fun c => !c.2.resident || c.1 == asid ||
    (grantRects c.2.tab.grants).all (fun h => rs.all (fun g => !rectsMeet (rectOf g) (rectOf h))))

/-- The gated blocks that grants meet. -/
def grantsGated (s : State) (gs : List Word) : List Nat := ((grantRects gs).map (gatedIn s)).flatten.eraseDups

/-- The lowest context slot that no resident context has. (DEDUCED: log 56.) -/
def freeSlot (s : State) : Option Nat := (List.range 64).find? (fun n => !s.ctxs.any (fun c => c.2.resident && c.2.slot == n))

/-- A context that no engine state precedes. -/
def freshCtx (t : CtxTab) (slot : Nat) : Context :=
  { tab := t, resident := true, slot := slot, pinUsed := 0, shUsed := 0, shRaised := false, windows := [], ldt := []
    sessions := Vector.replicate 16 Session.reset, walks := [], snapG := 0, levels := [], snapOps := [], snapLevels := []
    refunds := [], seeds := [], records := [], es := 0, saved := [], overflow := [] }

/-- The context of a table: one that was resident before with the same engine-state area goes on from it (R30, R405). (DEDUCED: log 56.) -/
def loadCtx (s : State) (t : CtxTab) (slot : Nat) : Context :=
  match ctxOf s t.asid with
  | some c => if c.tab.eng = t.eng then readEng s.mem { c with tab := t, resident := true, slot := slot, es := 0 } else freshCtx t slot
  | none => freshCtx t slot

/-- A block without what its agents hold for a context. -/
def Block.forget (b : Block) (asid : Nat) : Block :=
  { b with
    snapViews := b.snapViews.filter (fun v => v.asid != asid), shadow := b.shadow.filter (fun x => x.asid != asid)
    xa := b.xa.filter (fun x => x.asid != asid), spills := b.spills.filter (fun x => x.asid != asid)
    results := b.results.filter (fun x => x.asid != asid), opened := b.opened.filter (fun x => x.1 != asid)
    cands := b.cands.filter (fun c => c.asid != asid) }

/-- The engine-state area that a context leaves for another stays closed to every master (R405). (DESIGN CHOICE: log 83.) -/
def sealOld (s : State) (t : CtxTab) : State :=
  match ctxOf s t.asid with
  | some c => if c.tab.eng = t.eng ∨ s.dev.sealed.contains c.tab.eng = true then s
    else setDev s { s.dev with sealed := s.dev.sealed ++ [c.tab.eng] }
  | none => s

/-- The context of a table resident; one created anew finds nothing of an earlier context of its identifier at the agents (R132). -/
def enterCtx (s : State) (t : CtxTab) (slot : Nat) : State :=
  let s0 := sealOld s t
  let s1 := if (ctxOf s t.asid).any (fun c => c.tab.eng == t.eng) then s0
    else { s0 with blocks := s0.blocks.map (fun b => (b.1, b.2.forget t.asid)) }
  setCtx s1 t.asid (loadCtx s t slot)

/-- Does the shadow pool of a table differ from the last residency's while it is in use (R465)? -/
def poolChanged (s : State) (t : CtxTab) : Bool :=
  match ctxOf s t.asid with
  | none => false
  | some c => (c.tab.shpool != t.shpool || c.tab.shres != t.shres) && (!c.levels.isEmpty || c.shUsed != 0)

/-- CTXLOAD: a field refused is status 3, a forbidding state status 4; a gated block of the grants is woken first (R422). (DESIGN CHOICE: log 5, DEDUCED: log 56.) -/
def execCtxload (arg0 : Word) (s : State) : Host.Outcome State Fault Refusal :=
  .next (
    let pa := arg0.toNat
    let t := readTab s pa
    if pa % 256 ≠ 0 ∨ inHbm pa = false then svcEnd s 3
    else if !tabReservedOk s pa || !tabFieldsOk t t.shres || !partitionOk s t || !partitionApart s t || !grantsOk s t.asid t.grants ||
        poolChanged s t then svcEnd s 3
    else if (ctxOf s t.asid).any (·.resident) then svcEnd s 4
    else match freeSlot s with
      | none => svcEnd s 4
      | some n => afterWake s (grantsGated s t.grants) (.ctxload arg0) (fun s =>
          post (settleAll (svcEnd (enterCtx (noteMapped s) t n) 0)) .placement))

/-- CTXUPD: the updatable fields are read again; held accesses are retried (R464, R465). -/
def execCtxupd (arg0 : Word) (s : State) : Host.Outcome State Fault Refusal :=
  .next (match residentCtx s arg0 with
    | none => svcEnd s 2
    | some (asid, c) =>
      let t := readTab s c.tab.pa
      if t.shlim < c.shUsed ∨ c.tab.shres < t.shlim ∨ grantsOk s asid t.grants = false then svcEnd s 3
      else afterWake s (grantsGated s t.grants) (.ctxupd arg0) (fun s =>
        let tab := { c.tab with
          tdt := t.tdt, tvec := t.tvec, tcmp := t.tcmp, cntb := t.cntb, shlim := t.shlim, pinlim := t.pinlim, wait := t.wait
          grants := t.grants }
        let s1 := setCtx s asid { c with tab := tab }
        post (svcEnd (retryPushes s1) 0) .placement))

/-! ## Pre-emption by command -/

/-- The octet of a core as a rectangle. -/
def octetRect (core : Nat) : Word :=
  rectWord { row0 := rowOf core / 2 * 2, col0 := colOf core / 4 * 4, row1 := rowOf core / 2 * 2 + 1, col1 := colOf core / 4 * 4 + 3 }

/-- The rectangles that hold every core of a context: its grants, and the octets of cores that it holds beside them. (DEDUCED: log 57.) -/
def ctxRects (s : State) (asid : Nat) (c : Context) : List Word :=
  let gs := grantRects c.tab.grants
  let more := (liveCores s).filter (fun i =>
    (coreOf s i).ctx == some asid && coreBusy (coreOf s i) && !gs.any (fun g => coreIn i g))
  gs ++ (more.map octetRect).eraseDups

/-- CTXEVICT: every core of the context is pre-empted, then its residency is released. (DEDUCED: log 57.) -/
def execCtxevict (arg0 : Word) (s : State) : Host.Outcome State Fault Refusal :=
  .next (match residentCtx s arg0 with
    | none => svcEnd s 2
    | some (asid, c) =>
      let s1 := (ctxRects s asid c).foldl (fun st g => askStop st asid g) s
      endStops (setDev s1 { s1.dev with svcStop := some (asid, true) }))

/-- PREEMPT: an octet-aligned rectangle of a grant of the context is pre-empted. (DEDUCED: log 57.) -/
def execPreempt (arg0 arg1 : Word) (s : State) : Host.Outcome State Fault Refusal :=
  .next (match residentCtx s arg0 with
    | none => svcEnd s 2
    | some (asid, _) =>
      if malformedRect arg1 || !octetAligned (rectOf arg1) || !rectGranted s asid arg1 then svcEnd s 3
      else
        let s1 := askStop s asid arg1
        endStops (setDev s1 { s1.dev with svcStop := some (asid, false) }))

/-! ## QRESYNC, BSSPLIT -/

/-- QRESYNC (R402): head and tail take the count, eseq the sequence number, and the queue is active. (DEDUCED: log 51.) -/
def execQresync (arg0 arg1 : Word) (s : State) : Host.Outcome State Fault Refusal :=
  .next (
    let q := arg0.toNat
    if 4096 ≤ q then svcEnd s 3
    else
      let n := field arg1 31 0
      let s1 := qPut s q 3 (BitVec.ofNat 64 (n * 2 ^ 32 + n))
      let s2 := qPut s1 q 4 (putField (qWord s1 q 4) 31 0 (field arg1 63 32))
      let s3 := qSetSt s2 q 1
      settle1 (svcEnd (setQ s3 q (qState s3 q)) 0) q)

/-- Lines of a slice whose set lies in capacity that becomes block store. (DEDUCED: log 58.) -/
def movedLines (b : Block) (blk new : Nat) : List Nat :=
  (b.lines.filter (fun l => decide (1344 * (8 - new) ≤ setOf b blk l.1))).map (·.1)

/-- BSSPLIT (R81): the lines held in the capacity being moved are written back and invalidated, bytes that become block store
read as zero, and bytes that become cache are lost; lines that the new capacity leaves no way for go as well. (DEDUCED: log 58.) -/
def execBssplit (arg0 arg1 : Word) (s : State) : Host.Outcome State Fault Refusal :=
  .next (
    let blk := arg0.toNat
    let new := arg1.toNat
    if 256 ≤ blk ∨ new < 1 ∨ 7 < new then svcEnd s 3
    else if s.ctxs.any (fun c => c.2.resident && decide (64 * new < c.2.tab.bsbase + c.2.tab.bssize)) then svcEnd s 4
    else afterWake s (if (blockAt s blk).gated then [blk] else []) (.bssplit arg0 arg1) (fun s =>
      let s1 := (movedLines (blockAt s blk) blk new).foldl (fun st pa => dropLine st blk pa) s
      let lo := min new (blockAt s blk).bsz * 2 ^ 22
      let s2 := trimSets (setBlock s1 blk { blockAt s1 blk with bsz := new }) blk
      svcEnd (unpoison { s2 with mem := eraseRange s2.mem (bsKey blk lo) (2 ^ 25 - lo) } (bsKey blk lo) (2 ^ 25 - lo)) 0))

/-! ## SIGNRUN, ATTEST, SVNADV (R411, R412) -/

/-- The first 112 bytes of a record of the run-record chain. -/
def chainBytes (s : State) (nonce : List Byte) : List Byte :=
  leBytes 8 s.dev.runN ++ s.dev.runH ++ leBytes 8 s.dev.time ++ nonce

/-- A signed record at a physical address; the last 48 bytes are not stated and are free. (DESIGN CHOICE: log 59.) -/
def signRecord (s : State) (pa : Nat) (nonce : List Byte) : State :=
  if !inHbm (pa + 255) then svcEnd s 3
  else
    let body := chainBytes s nonce
    let sig := ecdsaSign (sha384 body)
    let rest := (List.range 6).foldl (fun (acc : List Byte × State) _ =>
      let w := drawWord acc.2
      (acc.1 ++ leBytes 8 w.1.toNat, w.2)) ([], s)
    svcEnd (hivePut rest.2 pa (body ++ sig ++ rest.1)) 0

/-- SIGNRUN. (DESIGN CHOICE: log 59.) -/
def execSignrun (arg0 : Word) (s : State) : Host.Outcome State Fault Refusal :=
  .next (signRecord s arg0.toNat (List.replicate 48 0))

/-- ATTEST: a nonce that a saved seed stack would be is refused (R405). (DESIGN CHOICE: log 59, log 83.) -/
def execAttest (arg0 arg1 : Word) (s : State) : Host.Outcome State Fault Refusal :=
  .next (
    if !inHbm (arg1.toNat + 47) || sealedSeeds s arg1.toNat 48 then svcEnd s 3
    else signRecord s arg0.toNat (hiveGet s arg1.toNat 48))

/-- SVNADV. -/
def execSvnadv (arg0 : Word) (s : State) : Host.Outcome State Fault Refusal :=
  .next (
    if s.dev.imageSvn < arg0.toNat then svcEnd s 4
    else if arg0.toNat < s.dev.svn then svcEnd s 3
    else svcEnd (setDev s { s.dev with svn := arg0.toNat }) 0)

/-! ## SEQRESET (R459) -/

/-- The launch that a sequencer serves. (DEDUCED: log 50.) -/
def seqOwner (s : State) (blk q : Nat) : Option Placed := s.dev.placed.find? (fun p => p.seqs.any (fun x => x.1 == blk && x.2.1 == q))

/-- Does a core wait in WAIT for a sequencer? -/
def waitsFor (k : Core) (blk q : Nat) : Bool :=
  groupBlk k == blk && groupSeq k == q && k.membership.getLsbD 56 &&
  (match k.ct.wait with
    | .bar _ _ => true
    | _ => false)

/-- Cores that wait take the barrier-membership fault before their instruction, their gangs the partner cause (R255, R447); one
that is halted executes its instruction again when it resumes, and takes it then. -/
def faultWaiters (s : State) (cs : List Nat) : State :=
  let partners := ((cs.map (gangOf s)).flatten).eraseDups.filter (fun c => !cs.contains c)
  let hit (cause : BitVec 16) (st : State) (c : Nat) : State :=
    let k := coreOf st c
    if k.dbg.halted then setThread st c false { k.ct with wait := .none }
    else setThread st c false (k.ct.trapEnter cause k.ct.pc (k.ct.entry != .word) 0 (cycleNow st (blockOf c)))
  partners.foldl (hit causePartner) (cs.foldl (hit causeBarrier) s)

/-- The saved cores of which a test holds execute their WAIT or GBAR again when they are restored. -/
def againSaved (s : State) (p : Core → Bool) : State :=
  { s with ctxs := s.ctxs.map (fun c => (c.1, { c.2 with saved := c.2.saved.map (fun r => { r with cores := r.cores.map (fun x =>
      if p x.core then { x with core := { x.core with ct := { x.core.ct with wait := .none } } } else x) }) })) }

/-- A sequencer reset to an index. An entry that has fired and whose members have not resumed yet goes with the buffer: they wait as
before. (DESIGN CHOICE: log 91.) -/
def seqRestart (s : State) (blk q n : Nat) : State :=
  let x := seqAt s blk q
  let s1 := setSeq s blk q { x with
    st := .run, pc := n, loops := [], credits := Vector.replicate 16 0, satur := 0, buf := [], fetched := none }
  ((liveCores s).filter (fun c => waitsFor (coreOf s c) blk q)).foldl (fun st c =>
    let k := coreOf st c
    match k.ct.wait with
    | .bar _ bit => setThread st c false { k.ct with wait := .bar none bit }
    | _ => st) s1

/-- A sequencer reset to IDLE: its waiting members take the fault, and so does every later WAIT of the group; also the members of an
entry that has fired and whose instant of release is not reached. (DESIGN CHOICE: log 91.) -/
def seqStop (s : State) (blk q : Nat) : State :=
  let x := seqAt s blk q
  let s1 := setSeq s blk q { x with
    st := .idle, pc := 0, loops := [], credits := Vector.replicate 16 0, satur := 0, buf := [], fetched := none }
  let s2 := setDev s1 { s1.dev with placed := s1.dev.placed.map (fun p =>
    if p.seqs.any (fun y => y.1 == blk && y.2.1 == q) then { p with seqFault := p.seqFault ++ [(blk, q)] } else p) }
  let mine := (liveCores s2).filter (fun c => waitsFor (coreOf s2 c) blk q && !(coreOf s2 c).stopped)
  againSaved (faultWaiters s2 mine) (fun k => waitsFor k blk q)

/-- SEQRESET. (DEDUCED: log 60.) -/
def execSeqreset (arg0 arg1 : Word) (s : State) : Host.Outcome State Fault Refusal :=
  .next (
    let blk := field arg0 7 0
    let q := field arg0 14 8
    match seqOwner s blk q with
    | none => svcEnd s 2
    | some p =>
      if (ctxOf s p.asid).any (·.resident) = false then svcEnd s 2
      else if (seqAt s blk q).st = .idle then svcEnd s 4
      else if arg1 = 0xFFFF_FFFF_FFFF_FFFF then svcEnd (seqStop s blk q) 0
      else if (seqAt s blk q).pcnt ≤ arg1.toNat then svcEnd s 3
      else svcEnd (seqRestart s blk q arg1.toNat) 0)

/-! ## CONTAIN and UNCONTAIN (R476, R477) -/

/-- The members of a launch that stand in a rectangle. -/
def membersIn (s : State) (p : Placed) (rect : Word) : List Nat :=
  (rectCores (rectOf p.rect)).filter (fun c => coreIn c rect && !away s c p.serial)

/-- Traffic of a core that is stopped at once: writes under way are performed or dropped, part by part; the rest goes. (DESIGN CHOICE: log 61.) -/
def dropTraffic (s : State) (core : Nat) : State :=
  let s1 := (s.net.filter (fun a => a.core == core && a.queued && a.op.writes)).foldl (fun st a =>
    let w := drawWord st
    if w.1.getLsbD 0 then deliver w.2 a.id else w.2) s
  { s1 with net := s1.net.filter (fun a => a.core != core) }

/-- A timeline set whose operations are abandoned: V := I. -/
def abandonTls (t : TlSet) : TlSet := { t with tl := t.tl.map (fun x => { x with v := x.i, doneAbove := [] }) }

/-- A contained core after its reset; its timelines stand with V = I. -/
def containedCore (k : Core) : Core :=
  { Core.reset with contained := true, tls := k.tls.map abandonTls, tlsPrev := k.tlsPrev.map abandonTls }

/-- The walks that operations of a core opened: a WVCLOSE of them waits no longer. -/
def endOpens (s : State) (k : Core) : State :=
  k.ops.foldl (fun st o => match o.op with
    | .walkOpen wid => openEnded st o.asid wid
    | _ => st) s

/-- A bound or running point of a contained core returns to its window; its epilogue counts as ended. -/
def leaveWalk (s : State) (core : Nat) : State :=
  let k := coreOf s core
  match k.walkAtt with
  | none => s
  | some a =>
    match a.bound, k.task with
    | some p, _ => returnPoint s a.asid a.wid p
    | none, .point p => returnPoint s a.asid a.wid p
    | _, _ => s

/-- One core of a contained rectangle: its traffic, its ring handles, its walk, then its reset. (DESIGN CHOICE: log 61.) -/
def containCore (s0 : State) (core : Nat) : State :=
  let s := leaveWalk (revokeAll (dropTraffic s0 core) core) core
  let k := coreOf s core
  let b := blockAt s (blockOf core)
  let s1 := endOpens (setBlock s (blockOf core) { b with held := b.held.filter (fun h => h.core != core) }) k
  let mine (e : Ev) : Bool := match e with
    | .ringReservationRequest tx _ => tx == core
    | .ringGrant tx _ _ => tx == core
    | .commitComplete tx _ => tx == core
    | .wakeArrival c => c == core
    | .engineFault c _ _ _ => c == core
    | _ => false
  let s2 := { s1 with pending := s1.pending.filter (fun e => !mine e) }
  let s3 := setCore s2 core (containedCore k)
  unpoison { s3 with mem := eraseRange s3.mem (localKey core 0) 98304 } (localKey core 0) 98304

/-- Members of a launch outside that wait in GBAR. -/
def gbarWaiters (s : State) (p : Placed) : List Nat :=
  (liveCores s).filter (fun c => launchOf (coreOf s c) == some p.serial && (match (coreOf s c).ct.wait with
    | .gbar _ _ => true
    | _ => false))

/-- The mechanisms of a launch with members inside (R477): its groups there, its launch domain, its walk. (DESIGN CHOICE: log 61.) -/
def containLaunch (rect : Word) (s : State) (p : Placed) : State :=
  let ms := membersIn s p rect
  if ms.isEmpty then s
  else
    let s1 := (p.seqs.filter (fun x => (rectCores (rectOf (seqAt s x.1 x.2.1).group.rect)).any ms.contains)).foldl
      (fun st x => seqStop st x.1 x.2.1) s
    let s2 := match p.ldom with
      | none => s1
      | some n =>
        let doms := s1.dev.ldoms.map (fun d => if d.1 = n then
          (d.1, { d.2 with arrived := [], first := 0, last := 0, lastCore := 0, sum := 0, release := none }) else d)
        againSaved (faultWaiters (setDev s1 { s1.dev with ldoms := doms }) (gbarWaiters s1 p))
          (fun k => launchOf k == some p.serial && (match k.ct.wait with
            | .gbar _ l => decide (l < 65536)
            | _ => false))
    let fresh := ms.filter (fun c => !p.ended.contains c)
    let s3 := setDev s2 { s2.dev with placed := s2.dev.placed.map (fun x =>
      if x.serial = p.serial then { x with contained := true, barFault := x.barFault || p.ldom.isSome, ended := x.ended ++ fresh }
      else x) }
    if p.index.isSome then s3
    else match walkOf s3 p.asid p.wid with
      | none => s3
      | some w => if w.serial = p.serial then setWalk s3 p.asid p.wid { w with attached := w.attached - fresh.length } else s3

/-- The containment event of each context with a core inside. -/
def containEvents (s : State) (rect : Word) : State :=
  let f := rectOf rect
  (s.ctxs.filter (fun c => c.2.resident && (grantRects c.2.tab.grants).any (fun g => rectsMeet (rectOf g) f))).foldl
    (fun st c => raiseEvent st c.1 17 rect (BitVec.ofNat 64 (1 + coreAt f.row0 f.col0 * 2 ^ 16))) s

/-- A rectangle is contained. (DESIGN CHOICE: log 61.) -/
def containRect (s : State) (rect : Word) : State :=
  let s1 := setDev s { s.dev with contained := s.dev.contained ++ [rect] }
  let s2 := s1.dev.placed.foldl (containLaunch rect) s1
  let s3 := (rectCores (rectOf rect)).foldl containCore s2
  let s4 := (allWalks s3).foldl (fun st w => abandonPoints st w.1 w.2.1) s3
  containEvents s4 rect

/-- CONTAIN. -/
def execContain (arg0 : Word) (s : State) : Host.Outcome State Fault Refusal :=
  .next (
    if malformedRect arg0 || !octetAligned (rectOf arg0) then svcEnd s 3
    else if s.dev.contained.any (fun c => rectsMeet (rectOf c) (rectOf arg0)) then svcEnd s 4
    else svcEnd (containRect s arg0) 0)

/-- UNCONTAIN: the cores inside are idle and free for placement. -/
def execUncontain (arg0 : Word) (s : State) : Host.Outcome State Fault Refusal :=
  .next (
    if s.dev.contained.contains arg0 then
      let s1 := setDev s { s.dev with contained := s.dev.contained.filter (· != arg0) }
      let s2 := (rectCores (rectOf arg0)).foldl (fun st c => setCore st c { coreOf st c with contained := false }) s1
      post (svcEnd s2 0) .placement
    else svcEnd s 4)

/-- UNKNOWN_COMMAND. -/
def execUnknownCommand (_ : BitVec 8) (s : State) : Host.Outcome State Fault Refusal := .next (svcEnd s 1)

/-- SVC_STATUS_READ: ovr and done are cleared by a read. -/
def execSvcStatusRead (s : State) : Host.Outcome State Fault Refusal := .next (setDev s (svcStatusClear s.dev))

/-! ## HOME_TABLE (R84) -/

/-- The table as a list of 256 slices. -/
def homeList (d : Device) : List Nat := if d.home.isEmpty then List.range 256 else d.home

/-- Does a slice serve: neither withdrawn nor gated? -/
def serves (s : State) (blk : Nat) : Bool := !(blockAt s blk).wdn && !(blockAt s blk).gated

/-- Lines, shadow state and reduction targets homed through changed entries go to their new homes; the old ones write back. The results
of a close stay with the unit that formed them. -/
def rehome (s : State) (new : List Nat) : State :=
  let old := homeList s.dev
  let moved (asid va : Nat) : Bool :=
    (windowAt s asid va).isNone && old.getD (homeHash (lineBase va)) 0 != new.getD (homeHash (lineBase va)) 0
  let s1 := s.blocks.foldl (fun st b => ((blockAt st b.1).lines.filter (fun l => moved l.2.asid l.2.va)).foldl
    (fun st2 l => dropLine st2 b.1 l.1) st) s
  let sh := (s1.blocks.map (fun b => b.2.shadow.filter (fun x => moved x.asid x.va))).flatten
  let s2 := s1.blocks.foldl (fun st b => setBlock st b.1 { b.2 with shadow := b.2.shadow.filter (fun x => !moved x.asid x.va) }) s1
  let s3 := setDev s2 { s2.dev with home := new }
  let at_ (st : State) (asid va : Nat) (f : Block → Block) : State :=
    let blk := homeOf st asid va
    setBlock st blk (f (blockAt st blk))
  let s4 := sh.foldl (fun st x => at_ st x.asid x.va (fun b => b.putShadow x)) s3
  s4.ctxs.foldl (fun st c => (st.blocks.map (·.1)).foldl (rehomeXa c.1) st) s4

/-- The entries of a slice move to the remaining slices, one after the other in ascending order. -/
def spreadEntries (rest : List Nat) (blk : Nat) : List Nat → Nat → List Nat
  | [], _ => []
  | x :: xs, n =>
    if x = blk then rest.getD (n % max 1 rest.length) blk :: spreadEntries rest blk xs (n + 1) else x :: spreadEntries rest blk xs n

/-- A slice leaves service: its entries move. (DEDUCED: log 62.) -/
def homeLeave (s : State) (blk : Nat) : State :=
  let rest := (List.range 256).filter (fun b => b != blk && serves s b)
  rehome s (spreadEntries rest blk (homeList s.dev) 0)

/-- A slice returns to service: its own entry is returned. (DEDUCED: log 62.) -/
def homeReturn (s : State) (blk : Nat) : State := rehome s ((homeList s.dev).set blk blk)

/-! ## Shoot-downs (R105 to R108) -/

/-- Size of a shoot-down's page. -/
def sdSize (go : Word) : Nat := [65536, 2 ^ 21, 2 ^ 26, 2 ^ 32].getD (field go 17 16) 65536

/-- Does a shoot-down name a context? -/
def sdNames (go : Word) (asid : Nat) : Bool := go.getLsbD 20 || field go 15 0 == asid

/-- Does a shoot-down name a translation? (DEDUCED: log 63.) -/
def sdMatches (va go : Word) (e : TEntry) : Bool :=
  let n := sdSize go
  let lo := va.toNat / n * n
  sdNames go e.asid && (go.getLsbD 19 || (decide (e.vpage < lo + n) && decide (lo < e.vpage + e.size)))

/-- The go write is broadcast to every slice. -/
def broadcast (s : State) : State :=
  if s.dev.sdBusy then (List.range 256).foldl (fun st b => post st (.shootdownSliceAck b)) s else s

/-- SHOOTDOWN. -/
def execShootdown (_ : Word) (s : State) : Host.Outcome State Fault Refusal := .next (broadcast s)

/-- SHOOTDOWN_FLUSH: each slice also writes back and invalidates its lines in the physical range. -/
def execShootdownFlush (_ : Word) (s : State) : Host.Outcome State Fault Refusal := .next (broadcast s)

/-- Does a request that a slice has translated under a dropped entry wait for its fill? (DEDUCED: log 63.) -/
def sdWaits (s : State) (blk : Nat) : Bool :=
  let r := s.dev.sdReq
  s.net.any (fun a => (match a.stage with
      | .filling b _ => b == blk
      | _ => false) &&
    (match tlbFind (blockAt s blk) a.asid a.va with
      | some e => sdMatches r.1 r.2.2 e
      | none => false))

/-- A slice's steps of a shoot-down: translations and tables go, and the flush. -/
def sdSlice (s : State) (blk : Nat) : State :=
  let r := s.dev.sdReq
  let b := blockAt s blk
  let b1 := { b with
    tcache := b.tcache.filter (fun e => !sdMatches r.1 r.2.2 e), wcache := b.wcache.filter (fun t => !sdNames r.2.2 t.1) }
  let s1 := setBlock s blk b1
  if r.2.2.getLsbD 21 then
    (b1.lines.filter (fun l => decide (r.2.1.toNat ≤ l.1) && decide (l.1 < r.2.1.toNat + sdSize r.2.2))).foldl
      (fun st l => dropLine st blk l.1) s1
  else s1

/-- The shoot-down is done: the side logs of the contexts that it names are replayed, and their stopped operations retried
(R450, R453). -/
def sdFinish (s : State) : State :=
  let go := s.dev.sdReq.2.2
  let s1 := setDev s { s.dev with sdBusy := false, sdDone := true }
  let threads := ((s1.net.filter (fun a => sdNames go a.asid && (a.logged || a.isHeld))).map (fun a => (a.core, a.mt))).eraseDups
  let s2 := threads.foldl (fun st t =>
    if t.1 < 2 ^ 20 then post st (.replayPass t.1 t.2) else replayThread redApply st t.1 t.2) s1
  retryPeers ((s2.ctxs.filter (fun c => sdNames go c.1)).foldl (fun st c => retryEngines .done st c.1) s2)

/-- SHOOTDOWN_SLICE_ACK: a slice acknowledges once its requests under dropped entries are performed; a gated slice and that of a
withdrawn block acknowledge at once. (DEDUCED: log 63.) -/
def execShootdownSliceAck (blk : Nat) (s : State) : Host.Outcome State Fault Refusal :=
  .next (
    if !s.dev.sdBusy then s
    else if serves s blk && sdWaits s blk then post s (.shootdownSliceAck blk)
    else
      let s1 := if serves s blk then sdSlice s blk else s
      let n := s1.dev.sdAcks + 1
      let s2 := setDev s1 { s1.dev with sdAcks := n }
      if 256 ≤ n then sdFinish s2 else s2)

/-- SHOOTDOWN_STATUS_READ: bad, ovr and done are cleared by a read. -/
def execShootdownStatusRead (s : State) : Host.Outcome State Fault Refusal := .next (setDev s (sdStatusClear s.dev))

end Sys2Proof.Machine
end

