-- ==== Sys2Proof/Machine/Debug.lean ====
section
/-!
DEFINITION. The debug modules (R425 to R428), the trace rings (R430 to R434), long waits (R458), and the accesses of the host and
of peers (R398, R399, R409, R410).
-/

namespace Sys2Proof.Machine

/-! ## Halting -/

/-- Every member of a core's gang is to halt at its boundary (R428). (DEDUCED: log 64.) -/
def askGang (s : State) (core : Nat) (why : BitVec 3) : State :=
  (gangOf s core).foldl (fun st c =>
    let k := coreOf st c
    if k.dbg.halted || k.dbg.pendHalt.isSome then st else setCore st c { k with dbg := { k.dbg with pendHalt := some why } }) s

/-- A core at its boundary halts: its image is written to its debug save area, and a debug record is kept (R426). -/
def haltCore (s0 : State) (core : Nat) : State :=
  if (coreOf s0 core).dbg.halted then s0
  else
    let s := quiesce s0 core
    let s1 := saveImage s core (coreOf s core).dbg.save.toNat
    let k := coreOf s1 core
    let why := k.dbg.pendHalt.getD 1
    let s2 := setCore s1 core { k with
      dbg := { k.dbg with halted := true, why := why, pendHalt := none, step := false } }
    traceAdd s2 (blockOf core) 5 (traceWord0 5 false (slotOf s2 core) core 0) k.ct.pc (why.setWidth 64)

/-- A core that is to halt does so, with its gang, once every member stands at its boundary. -/
def tryHalt (s : State) (core : Nat) : State :=
  let ms := gangOf s core
  if !ms.all (canStop s) then s
  else match enterFirst s core with
    | some t => t
    | none => ms.foldl haltCore s

/-- HREQ: a running core is asked to halt; one that was asked halts. -/
def execHreq (core : Nat) (s : State) : Host.Outcome State Fault Refusal :=
  .next (
    let k := coreOf s core
    if k.dbg.halted || k.contained || k.stopped then s else tryHalt (askGang s core (k.dbg.pendHalt.getD 1)) core)

/-- BREAKPOINT_MATCH: the core halts before the word, with why = 3 (R427). -/
def execBreakpointMatch (core : Nat) (mt : Bool) (s : State) : Host.Outcome State Fault Refusal :=
  .next (
    let k := coreOf s core
    if coreRuns k && atBreakpoint k (threadOf s core mt) then tryHalt (askGang s core 3) core else s)

/-- A halted core runs again: its image is loaded, the held messages are applied, its waits go on (R426, R428, R429). (DEDUCED: log 64.) -/
def resume (s : State) (core : Nat) (step : Bool) : State :=
  let s1 := injectHeld (loadImage s core (coreOf s core).dbg.save.toNat) core
  let k := coreOf s1 core
  retryWaiting (rewait (reassert (setCore s1 core { k with
    ct := { k.ct with bkptSkip := some k.ct.nextWord }, mt := { k.mt with bkptSkip := some k.mt.nextWord }
    dbg := { k.dbg with halted := false, why := 0, pendHalt := none, step := step } }) core) core)

/-- May a halted core be resumed: it is here, and no trap loop stopped it, which only a restore or containment ends (R448)? (DEDUCED: log 101.) -/
def mayResume (k : Core) : Bool := k.dbg.halted && !k.stopped && !k.ct.looped && !k.mt.looped

/-- RREQ. -/
def execRreq (core : Nat) (s : State) : Host.Outcome State Fault Refusal :=
  .next (if mayResume (coreOf s core) then resume s core false else s)

/-- SREQ: the compute thread issues one instruction; the movement thread stays stopped. -/
def execSreq (core : Nat) (s : State) : Host.Outcome State Fault Refusal :=
  .next (if mayResume (coreOf s core) then resume s core true else s)

/-- DEBUG_STATUS_READ: cdrop is cleared by a read. -/
def execDebugStatusRead (core : Nat) (s : State) : Host.Outcome State Fault Refusal :=
  .next (let k := coreOf s core; setCore s core { k with dbg := dbgClear k.dbg })

/-- The halts of a core that are due: one it was asked for, and the breakpoints at the words of its threads. -/
def enabledDebug (s : State) (core : Nat) : List Ev :=
  let k := coreOf s core
  let bp (mt : Bool) : List Ev :=
    let t := threadOf s core mt
    if coreRuns k && t.active && !t.looped && !k.stopReq && t.wait == .none && !(mt && k.dbg.step) && atBreakpoint k t then
      [Ev.breakpointMatch core mt]
    else []
  if k.dbg.pendHalt.isSome then (if coreRuns k && (gangOf s core).all (canStop s) then [Ev.hreq core] else [])
  else bp false ++ bp true

/-! ## Trace rings -/

/-- TRACE_RECORD_DRAIN: the oldest record goes to the ring in HBM, then wr passes it (R430, R431). -/
def execTraceRecordDrain (blk : Nat) (s : State) : Host.Outcome State Fault Refusal :=
  .next (
    let b := blockAt s blk
    match b.trace with
    | x :: y :: rest =>
      if ringFull b then s
      else
        let a := field b.rbase 47 0 + 32 * (b.twr % 2 ^ field b.rbase 52 48)
        let s1 := { s with mem := writeRecord4 s.mem a x.lo x.hi y.lo y.hi }
        let b1 := { b with trace := rest, twr := (b.twr + 1) % 2 ^ 32 }
        setBlock s1 blk (if b.traceFull then b1.noteLost s.dev.time else b1)
    | _ => s)

/-- TRACE_PORT_WRITE: a software record of kind 0x80 + t (R434). -/
def execTracePortWrite (blk : Nat) (t : BitVec 7) (slot : BitVec 6) (core : BitVec 20) (mt : Bool) (lo hi : Word) (s : State) :
    Host.Outcome State Fault Refusal :=
  .next (traceAdd s blk (0x80 + t.toNat) (traceWord0 (0x80 + t.toNat) mt slot.toNat core.toNat 0) lo hi)

/-- The drains of the blocks' trace buffers. -/
def enabledTrace (s : State) : List Ev :=
  (s.blocks.filter (fun b => 2 ≤ b.2.trace.length && !ringFull b.2)).map (fun b => Ev.traceRecordDrain b.1)

/-! ## Long waits (R458) -/

/-- WAITCFG_WRITE: the threshold holds at once for every wait in progress. -/
def execWaitcfgWrite (value : Word) (s : State) : Host.Outcome State Fault Refusal :=
  .next (setDev s { s.dev with waitcfg := value &&& 0xFFFF_FFFF })

/-- Word 2 and subkind of the long-wait event of a wait; none for a wait that raises none (Tables 27.1, 27.3). -/
def longWaitWords (s : State) (k : Core) (w : WaitState) : Option (Word × Nat) :=
  let q := seqAt s (groupBlk k) (groupSeq k)
  match w with
  | .bar (some n) _ =>
    match q.buf.find? (fun e => e.sq.toNat == n) with
    | some e => some (BitVec.ofNat 64 (n % 2 ^ 32 * 2 ^ 32 + e.mask.toNat), if e.abs != 0 then 0 else 2)
    | none => some (BitVec.ofNat 64 (n % 2 ^ 32 * 2 ^ 32), 2)
  | .bar none _ => some (0xFFFF_FFFF_FFFF_FFFF, if q.st == .halted || q.st == .fault then 1 else 2)
  | .gbar _ l => some (BitVec.ofNat 64 l, 3)
  | .tlw _ _ n _ => some (n, 4)
  | .fuse m => some (m.setWidth 64, 5)
  | _ => none

/-- Does a thread wait in an instruction whose length is reported, once? -/
def longWaits (s : State) (core : Nat) (mt : Bool) : Bool :=
  let k := coreOf s core
  let t := threadOf s core mt
  coreRuns k && t.active && !t.waitRaised && s.dev.waitcfg != 0 && (longWaitWords s k t.wait).isSome

/-- LONG_WAIT: the wait's counted time reaches the threshold, and kind 7 is raised. -/
def execLongWait (core : Nat) (mt : Bool) (s : State) : Host.Outcome State Fault Refusal :=
  .next (
    if !longWaits s core mt then s
    else
      let s1 := advanceToTick s ((threadOf s core mt).waitFrom + s.dev.waitcfg.toNat * 1000)
      let k := coreOf s1 core
      let t := threadOf s1 core mt
      match longWaitWords s1 k t.wait with
      | none => s1
      | some (w2, sub) =>
        raiseEvent (setThread s1 core mt { t with waitRaised := true }) (k.ctx.getD 0) 7 w2
          (BitVec.ofNat 64 (sub + core % 2 ^ 20 * 2 ^ 16)))

/-- The long waits of a core. -/
def enabledLong (s : State) (core : Nat) : List Ev :=
  (if longWaits s core false then [Ev.longWait core false] else []) ++ (if longWaits s core true then [Ev.longWait core true] else [])

/-! ## Registers and the host -/

/-- REGISTER_WRITE: the written fields are stored (R3). -/
def execRegisterWrite (addr : Nat) (value : Word) (s : State) : Host.Outcome State Fault Refusal :=
  .next (regStore s (addr % 2 ^ 32 / 8 * 8) value)

/-- A message leaves the device. (DESIGN CHOICE: log 78.) -/
def send (s : State) (m : OutMsg) : State := { s with out := s.out ++ [m] }

/-- HOST_REG_ACCESS (R398, R409): 8 bytes of rim register space; an access where no register lies, that is
denied or whose port is down (R482), gets an error response, and a read returns all ones. (DEDUCED: log 64.) -/
def execHostRegAccess (port : BitVec 1) (write : Bool) (off : Nat) (value : Word) (s0 : State) : Host.Outcome State Fault Refusal :=
  .next (
    let s := wakeRim s0 [phyIsland port.toNat]
    let ok := portUp s port.toNat && (regValue s off).isSome && granted s.dev (regTarget off) (1 + port.toNat) write
    if !ok then
      if write then send s (.hostError port) else send s (.hostRead port false (List.replicate 8 0xFF))
    else if write then regWrite s off 0 false (leBytes 8 value.toNat)
    else
      let r := regRead s off 8
      send r.2 (.hostRead port true r.1))

/-- HOST_MEM_ACCESS (R398, R400): an access performed at the HBM controller, past every slice. A saved seed stack is denied (R405).
Poisoned bytes hold no value: what the host reads of them is free. (DEDUCED: log 64.) -/
def execHostMemAccess (port : BitVec 1) (write : Bool) (off : Nat) (bytes : List Byte) (s0 : State) :
    Host.Outcome State Fault Refusal :=
  .next (
    let s := wakeRim s0 (phyIsland port.toNat :: stackIslands off)
    let n := bytes.length
    let may (a : Nat) : Bool := granted s.dev (256 + a / 2 ^ 36) (1 + port.toNat) write
    let ok := portUp s port.toNat && decide (off + n ≤ 2 ^ 41) && may off && may (off + n - 1) && !sealedSeeds s off n
    if !ok then
      if write then send s (.hostError port) else send s (.hostRead port false (List.replicate n 0xFF))
    else if write then storeMem s off bytes
    else if poisonedIn s off n then
      let r := hostBytes s n
      send r.2 (.hostRead port true r.1)
    else send s (.hostRead port true (readBytes s.mem off n)))

/-! ## Peers (R410) -/

/-- The lowest local Uluit port on a shortest path to a device. (DESIGN CHOICE: log 65.) -/
def peerPort (s : State) (dev : Nat) : Nat :=
  let m := (mapGet s.dev.scope dev).getD 0
  ((List.range 36).find? (fun i => m.getLsbD (8 + i))).getD 0

/-- Does a resident context hold a binding that names the sender's device and context? -/
def bound (s : State) (pasid dev asid : Nat) : Bool :=
  (ctxOf s pasid).any (fun c => c.resident && c.tab.peers.contains (dev, asid))

/-- Do the slices that home a range admit the port's writes (R408)? -/
def portMay (s : State) (pasid dev va n : Nat) : Bool :=
  (splitLines va n).all (fun p => granted s.dev (homeOf s pasid p.1) (0x10 + peerPort s dev) true)

/-- The needs of a peer's operation, whose master is the port that it came by (R408, R410). -/
def peerReq (s : State) (pasid dev : Nat) (me : Ev) : Req :=
  { packetReq pasid with w := true, master := some (0x10 + peerPort s dev), who := some (.step me) }

/-- A contribution of a peer at its target's home (R369). -/
def peerRedAt (s : State) (q : Req) (pasid va : Nat) (sid : BitVec 4) (ty : Ty) (bytes : List Byte) (me : Ev) : State × HomeAns :=
  let blk := homeOf s pasid va
  match translateFor s blk q va with
  | (s1, none) => (s1, .wait)
  | (s1, some (.error c)) => (s1, .fault c)
  | (s1, some (.ok e)) =>
    let a : Access :=
      { id := s1.netId, core := 2 ^ 20 * hiveAgent, mt := false, asid := pasid, priv := true, op := .red sid.toNat ty, va := va, addr := va
        n := bytes.length, data := bytes, ch := 0, slot := 0, off := 0, seq := 0, whole := (va, bytes.length), arrived := 0, kind := 0
        rel := none, snapG := 0, stage := .queued, trapped := false, reported := false, opMark := 0, eng := true }
    if lineBusy s1 blk (physOf e va) then (s1, .wait) else applyAt s1 blk a sid ty e (.step me)

/-- The line parts of a peer's write, in order, up to the first that is not performed; `again` is the operation from an offset on, which
is answered with its offset. -/
def peerParts (s : State) (pasid dev : Nat) (again : Nat → Ev) (bytes : List Byte) :
    List (Nat × Nat × Nat) → State → State × HomeAns × Nat
  | [], t => (t, .bytes [], bytes.length)
  | p :: ps, t =>
    match homeDo t hiveAgent false (peerReq s pasid dev (again p.2.2)) p.1 (.write ((bytes.drop p.2.2).take p.2.1)) p.2.1 with
    | (t1, .bytes _) => peerParts s pasid dev again bytes ps t1
    | (t1, a) => (t1, a, p.2.2)

/-- What a peer is told of an operation at its homes: one that a home cannot take yet is performed later, and one that shadow
exhaustion stops is held at its cursor (R464). -/
def peerTold (dev : Nat) (again : Ev) (r : State × HomeAns) : State :=
  match r with
  | (t, .wait) => post t again
  | (t, .fault c) =>
    if c = causeShadow then setDev t { t.dev with peerWaits := t.dev.peerWaits ++ [again] } else send t (.peerAnswer dev false 1)
  | (t, .bytes _) => send t (.peerAnswer dev true 0)

/-- PEER_OPERATION_RECEIVE: the operation of a bound device and context is performed at its homes under the peer context's
translation, any other is refused. (DESIGN CHOICE: log 65.) -/
def execPeerOperationReceive (dev pasid asid : Nat) (va : Word) (red : Option (BitVec 4 × Ty)) (bytes : List Byte) (s0 : State) :
    Host.Outcome State Fault Refusal :=
  .next (
    let s := wakeRim s0 [phyIsland (2 + peerPort s0 dev)]
    let a := va.toNat
    let n := bytes.length
    let again (k : Nat) : Ev := .peerOperationReceive dev pasid asid (va + BitVec.ofNat 64 k) red (bytes.drop k)
    let me : Ev := again 0
    if !bound s pasid dev asid || !portMay s pasid dev a n then send s (.peerAnswer dev false 0)
    else if isAperture a || decide (15 * 2 ^ 52 < a + n) then send s (.peerAnswer dev false 1)
    else match red with
      | none =>
        let r := peerParts s pasid dev again bytes (splitLines a n) s
        peerTold dev (again r.2.2) (r.1, r.2.1)
      | some (sid, ty) =>
        match sessOf s pasid sid with
        | none => send s (.peerAnswer dev false 2)
        | some x =>
          if (x.st ≠ .opening ∧ x.st ≠ .opened) ∨ x.ty ≠ ty then send s (.peerAnswer dev false 2)
          else match redGate s (homeOf s pasid a) pasid sid with
            | .hold => post s me
            | .closed => send s (.peerAnswer dev false 2)
            | .apply => peerTold dev me (peerRedAt s (peerReq s pasid dev me) pasid a sid ty bytes me))

end Sys2Proof.Machine
end

