-- ==== Sys2Proof/Machine/Power.lean ====
section
/-!
DEFINITION. Operating points, monitors and the power cap (R415 to R419), power-gating and waking (R82, R420 to R423, R481).
-/

namespace Sys2Proof.Machine

/-! ## The governor -/

/-- Ticks of a power window (R419). -/
def windowTicks : Nat := 65536

/-- A change of the operating point is scheduled: the change tick is the first multiple of 2^16 at least 2^16 ticks away. A supply
that the new point needs is raised at once (R416). -/
def scheduleOpp (d : Device) (p : BitVec 2) : Device :=
  { d with nopp := p, pend := true, ctick := (d.time + 2 * windowTicks - 1) / windowTicks, supply := max d.supply p.toNat }

/-- The cap in watts. -/
def capWatts (d : Device) : Nat := 100 * field d.pwrcfg 8 0

/-- Governed mode after a window: down above the cap, up after sixteen windows below 90 % of it. -/
def governed (d : Device) : Device :=
  let low := decide (10 * d.watts.toNat < 9 * capWatts d)
  let n := if low then d.streak + 1 else 0
  let d1 := { d with streak := n, slow := 0 }
  if d.pend then d1
  else if capWatts d < d.watts.toNat ∧ d.copp ≠ 0 then { scheduleOpp d1 (d.copp - 1) with streak := 0 }
  else if 16 ≤ n ∧ d.copp ≠ 3 then { scheduleOpp d1 (d.copp + 1) with streak := 0 }
  else d1

/-- Fixed mode after a window: the point goes to fopp, and a window above the cap has every cycle stretched by a ratio that the
spec does not state. (DESIGN CHOICE: log 66.) -/
def fixedMode (d : Device) (ratio : Nat) : Device :=
  let d1 := { d with streak := 0, slow := if capWatts d < d.watts.toNat then ratio % 101 else 0 }
  let p : BitVec 2 := BitVec.ofNat 2 (field d.pwrcfg 19 18)
  if d.pend || d.copp == p then d1 else scheduleOpp d1 p

/-- How far the present cycle is, as the stretch of the next window counts it. -/
def Device.stretched (old new : Device) : Device := { new with cphase := old.cphase * fifthParts new / fifthParts old }

/-- POWER_WINDOW: the present window ends, with its measured average. (DESIGN CHOICE: log 66.) -/
def execPowerWindow (watts : BitVec 32) (s : State) : Host.Outcome State Fault Refusal :=
  .next (
    let n := s.dev.time / windowTicks
    let s1 := advanceToTick s ((n + 1) * windowTicks)
    let w := drawWord s1
    let d := { s1.dev with pwrWin := n, watts := watts }
    if d.pwrcfg.getLsbD 16 then setDev w.2 (d.stretched (fixedMode d w.1.toNat)) else setDev s1 (d.stretched (governed d)))

/-- A block's limiter at a change: U(t − 1) takes the ratio of the frequencies (R397). -/
def Block.rescale (b : Block) (old new : Nat) : Block := { b with rampPrev := b.rampPrev * (5 + new) / (5 + old) }

/-- Are the clocks still to change at the tick of a pending change, and do they run at a lower point whose supply is still to be lowered
(R416)? -/
def clockPends (d : Device) : Bool := d.pend && d.freq != d.nopp
def supplyPends (d : Device) : Bool := d.pend && d.freq == d.nopp

/-- The change is complete: the status registers show the new point, whose supply the cores have. -/
def oppDone (d : Device) : Device := { d with copp := d.nopp, pend := false, supply := d.nopp.toNat }

/-- OPP_CHANGE: at the change tick the cycle in progress completes, and every block goes on at the new point, its edges counted from that
tick; U(t − 1) is scaled once the windows up to then are counted (R397). The supply of a lower point is lowered one tick later, and with
that the change is complete (R416, Table 20.3). (DEDUCED: log 66.) -/
def execOppChange (s : State) : Host.Outcome State Fault Refusal :=
  .next (
    if clockPends s.dev then
      let s1 := rampNow (advanceToTick s (s.dev.ctick * windowTicks))
      let d := s1.dev
      let d1 := { d with freq := d.nopp, cyc := (d.cyc + (if d.cphase = 0 then 0 else 1) + 4) / 5 * 5, tphase := 0, cphase := 0 }
      { s1 with
        dev := if d.nopp.toNat < d.copp.toNat then d1 else oppDone d1
        blocks := s1.blocks.map (fun b => (b.1, b.2.rescale d.freq.toNat d.nopp.toNat)) }
    else if supplyPends s.dev then
      let s1 := advanceToTick s (s.dev.ctick * windowTicks + 1)
      setDev s1 (oppDone s1.dev)
    else s)

/-- Cycles that a trip adds to the time of a block: at most 256 cycles, each lengthened by at most its own length; the factor is
given in hundredths. (DESIGN CHOICE: log 66.) -/
def tripCycles (factor cycles : Nat) : Nat := (min factor 200 - 100) * min cycles 256 / 100

/-- MONITOR_TRIP: the block's cycles are stretched; the other blocks run on meanwhile (R418). (DESIGN CHOICE: log 66.) -/
def execMonitorTrip (blk factor cycles : Nat) (s : State) : Host.Outcome State Fault Refusal :=
  .next (
    let n := tripCycles factor cycles
    let s1 := advanceToCycle s blk (cycleNow s blk + n)
    let b := blockAt s1 blk
    setBlock s1 blk { b with lag := b.lag + n })

/-- The windows and the change of the governor. -/
def enabledGovernor (s : State) : List Ev :=
  if s.dev.hiveUp then
    Ev.powerWindow (Config.measuredPower (s.dev.time / windowTicks)) :: (if s.dev.pend then [Ev.oppChange] else [])
  else []

/-! ## Gating (R420) -/

/-- Bytes of memory copied with the poison of their units. -/
def copyPoisoned (s : State) (src dst n : Nat) : State := movePoison { s with mem := copyRange s.mem src dst n } src dst n

/-- The cores of a block that differ from their power-on value. -/
def blockCores (s : State) (blk : Nat) : List Nat := (liveCores s).filter (fun c => blockOf c == blk)

/-- Do the conditions of R420 hold now? (DEDUCED: log 67.) -/
def gateable (s : State) (blk : Nat) : Bool :=
  let b := blockAt s blk
  s.dev.hiveUp && field s.dev.pwrcfg 47 32 != 0 && !b.gated && !b.wdn &&
  (blockCores s blk).all (fun c => let k := coreOf s c; !coreBusy k && !k.stopReq && !k.dbg.halted) &&
  b.seqs.all (fun q => q.2.st == .idle) && b.cands.isEmpty && b.xa.isEmpty && b.results.isEmpty &&
  b.lines.all (fun l => l.2.cls != .pinned && l.2.leases.isEmpty) &&
  !s.ctxs.any (fun c => c.2.resident && (grantRects c.2.tab.grants).any (fun g => rectMeetsBlock (rectOf g) blk)) &&
  !s.ctxs.any (fun c => c.2.windows.any (fun w => w.blocks.contains blk))

/-- Where the partition of a context in a block stands, where its image goes, and its size (R82). -/
def partition (c : Context) (blk : Nat) : Nat × Nat × Nat :=
  (bsKey blk (c.tab.bsbase * 65536), c.tab.bssave + blk * c.tab.bssize * 65536, c.tab.bssize * 65536)

/-- The partitions of the resident contexts in a block are copied to their save areas. -/
def savePartitions (s : State) (blk : Nat) : State :=
  let cs := s.ctxs.filter (fun c => c.2.resident && decide (0 < c.2.tab.bssize))
  let s1 := cs.foldl (fun st c => let p := partition c.2 blk; copyPoisoned st p.1 p.2.1 p.2.2) s
  setBlock s1 blk { blockAt s1 blk with bsSaved := cs.map (·.1) }

/-- The partitions saved at gating are copied back. -/
def loadPartitions (s : State) (blk : Nat) : State :=
  let b := blockAt s blk
  let s1 := b.bsSaved.foldl (fun st a => match ctxOf st a with
    | none => st
    | some c => let p := partition c blk; copyPoisoned st p.2.1 p.1 p.2.2) s
  setBlock s1 blk { blockAt s1 blk with bsSaved := [] }

/-- A slice writes back and invalidates every line, and its entries move. -/
def retireSlice (s : State) (blk : Nat) : State :=
  homeLeave ((blockAt s blk).lines.foldl (fun st l => dropLine st blk l.1) s) blk

/-- Does a key of memory stand in a block's local memories or its block store? -/
def keyOfBlock (blk a : Nat) : Bool :=
  if 2 ^ 61 ≤ a then (a - 2 ^ 61) / 2 ^ 25 == blk else decide (2 ^ 60 ≤ a) && blockOf ((a - 2 ^ 60) / 2 ^ 17) == blk

/-- Power is removed from everything but the always-on domain; that a core is pre-empted or contained is not lost (R421).
(DEDUCED: log 67.) -/
def powerOff (s : State) (blk : Nat) : State :=
  let b := blockAt s blk
  let s1 := (blockCores s blk).foldl (fun st c =>
    let k := coreOf st c
    setCore st c { Core.reset with dbg := k.dbg, stopped := k.stopped, contained := k.contained }) s
  setBlock
    { s1 with
      mem := s1.mem.filter (fun c => !keyOfBlock blk c.1), poisoned := s1.poisoned.filter (fun u => !keyOfBlock blk u) } blk
    { b with
      gated := true, lines := [], tcache := [], wcache := [], seqs := [], seqLatch := [], xa := [], cands := [], idleSince := none
      drainTo := none }

/-- Gating from step 2 on. -/
def gateNow (s : State) (blk : Nat) : State := powerOff (savePartitions (retireSlice s blk) blk) blk

/-- GATE_BLOCK: the count of gidle µs begins; once it is over, the trace buffer drains, and with it empty the block is gated. -/
def execGateBlock (blk : Nat) (s : State) : Host.Outcome State Fault Refusal :=
  .next (
    let b := blockAt s blk
    if !gateable s blk then setBlock s blk { b with idleSince := none, drainTo := none }
    else match b.idleSince with
      | none => setBlock s blk { b with idleSince := some s.dev.time }
      | some t =>
        let s1 := advanceToTick s (t + field s.dev.pwrcfg 47 32 * 1000)
        if b.trace.isEmpty then gateNow s1 blk
        else if b.drainTo.isNone then setBlock s1 blk { b with drainTo := some (s1.dev.time + 50000) }
        else s1)

/-- TRACE_DRAIN_TIMEOUT: what remains is discarded, and one lost record is written directly to the ring (R481). (DEDUCED: log 67.) -/
def execTraceDrainTimeout (blk : Nat) (s : State) : Host.Outcome State Fault Refusal :=
  .next (
    let b := blockAt s blk
    match b.drainTo with
    | none => s
    | some u =>
      if b.trace.isEmpty then s
      else
        let s1 := advanceToTick s u
        let n := b.trace.length / 2 + b.tlost
        let a := field b.rbase 47 0 + 32 * (b.twr % 2 ^ field b.rbase 52 48)
        let mem := writeRecord4 s1.mem a (traceWord0 0x7F false 0 0 0) (BitVec.ofNat 64 s1.dev.time) (BitVec.ofNat 64 (n % 2 ^ 32)) 0
        setBlock { s1 with mem := mem } blk { b with trace := [], twr := (b.twr + 1) % 2 ^ 32, tlost := 0 })

/-- The count of idle time ends where a condition of R420 ceases to hold. -/
def watchIdle (s : State) : State :=
  (s.blocks.filter (fun b => b.2.idleSince.isSome && !gateable s b.1)).foldl (fun st b =>
    setBlock st b.1 { blockAt st b.1 with idleSince := none, drainTo := none }) s

/-- Gating steps of the blocks. -/
def enabledGating (s : State) : List Ev :=
  if !s.dev.hiveUp then []
  else ((List.range 256).filter (fun b => gateable s b)).map (fun b =>
    let x := blockAt s b
    if x.drainTo.isSome && !x.trace.isEmpty then Ev.traceDrainTimeout b else Ev.gateBlock b)

/-! ## Waking (R422) -/

/-- WAKE_BLOCK: a request is latched, behind the earlier ones, and the wake starts. Of the list the first 64 stand in the always-on
domain, the others at their senders. -/
def execWakeBlock (blk : Nat) (req : Option Nat) (s : State) : Host.Outcome State Fault Refusal :=
  .next (
    let b := blockAt s blk
    if !b.gated then s
    else
      let rs := (req.toList.map Latch.acc).filter (fun a => !b.latched.contains a)
      let s1 := setBlock s blk { b with latched := b.latched ++ rs, waking := true }
      if b.waking then s1 else post s1 (.blockWakeComplete blk))

/-- Does the Hive work: it has started, and not all twelve of its cores are out of service (R411, R478)? -/
def hiveWorks (d : Device) : Bool := d.hiveUp && decide (d.hiveOut.length < 12)

/-- The next state of a handler. -/
def nextOf (s : State) (r : Host.Outcome State Fault Refusal) : State :=
  match r with
  | .next t => t
  | _ => s

/-- A triggered step that waits is handled now. -/
def runPending (s : State) (e : Ev) (f : State → Host.Outcome State Fault Refusal) : State :=
  if s.pending.contains e then let t := { s with pending := s.pending.erase e }; nextOf t (f t) else s

/-- A packet or a peer's operation that waited goes on. -/
def stepGo (s : State) (e : Ev) : State :=
  match e with
  | .launch k i => if hiveWorks s.dev then runPending s e (execLaunch k i) else s
  | .tlsignal k va n => if hiveWorks s.dev then runPending s e (execTlsignal k va n) else s
  | .tlwaitSatisfied k va n => if hiveWorks s.dev then nextOf s (execTlwaitSatisfied k va n s) else s
  | .peerOperationReceive dev pasid asid va red bytes => runPending s e (execPeerOperationReceive dev pasid asid va red bytes)
  | _ => s

/-- A thread whose fetch waited enters its block. -/
def fetchGo (s : State) (core : Nat) (mt : Bool) : State :=
  if (together s core mt).all (fun c => threadReady s c mt) && (threadOf s core mt).pendTraps.isEmpty then reachWord s core mt else s

/-- A request that waited for a walk or for a gated block goes on (R102, R422). -/
def waiterGo (s : State) (r : Latch) : State :=
  match r with
  | .acc aid => match accFind s aid with
    | some a => match a.op with
      | .red _ _ => redStep s aid
      | _ => if a.stage == .queued then performHome s aid else s
    | none => s
  | .eng core op => nextOf s (execCopySectorPerformed core op s)
  | .pkt q => copiesGo s q
  | .mat core => completeCmd s core
  | .fetch core mt => fetchGo s core mt
  | .tile _ asid wid p tile =>
    match s.pending.find? (fun e => match e with
        | .prefetchComplete _ a w q t => a == asid && w == wid && q == p && t == tile
        | _ => false) with
    | some (.prefetchComplete blk a w q t) => runPending s (.prefetchComplete blk a w q t) (execPrefetchComplete blk a w q t)
    | _ => s
  | .line core line => runPending s (.forcedFillComplete core line) (execForcedFillComplete core line)
  | .unit blk asid sid => closeAt s blk asid (BitVec.ofNat 4 sid)
  | .prog blk seq => nextOf s (execSeqProgramFetch blk seq s)
  | .visit asid wid => retryVisits s asid wid (fun _ v => v.why == 0)
  | .step e => stepGo s e
  | .lr asid i => if s.dev.lrWrites.contains (asid, i) then lrPut s asid i else s

/-- TRANSLATION_WALK: the walk ends, and those that waited for it, then those that waited for an entry, go on in arrival order (R102). -/
def execTranslationWalk (blk asid vpage : Nat) (s : State) : Host.Outcome State Fault Refusal :=
  .next (finishWalk waiterGo s blk asid vpage)

/-- BLOCK_WAKE_COMPLETE: the partitions and the HOME_TABLE entries return, then the latched requests are performed in arrival
order, and what waited for the block goes on; local memories read as zero. -/
def execBlockWakeComplete (blk : Nat) (s : State) : Host.Outcome State Fault Refusal :=
  .next (
    let b := blockAt s blk
    if !b.gated then s
    else
      let s1 := loadPartitions (setBlock s blk { b with latched := [] }) blk
      let s2 := homeReturn s1 blk
      let s3 := setBlock s2 blk { blockAt s2 blk with gated := false, waking := false }
      post (retryWaiting (b.latched.foldl waiterGo s3)) .placement)

/-- RIM_ISLAND_GATING: a rim island loses power until something that reaches it wakes it: the first notify write wakes the Hive's,
which handles no event until then (R28, R423). (DESIGN CHOICE: log 67.) -/
def execRimIslandGating (island : Nat) (s : State) : Host.Outcome State Fault Refusal :=
  .next (if s.dev.islands.contains island then s else setDev s { s.dev with islands := s.dev.islands ++ [island] })

end Sys2Proof.Machine
end

