-- ==== Sys2Proof/Machine/Reliab.lean ====
section
/-!
DEFINITION. Errors in the silicon: error codes and poison (R469 to R471), the checker (R472, R473), retirement of columns and
withdrawal of blocks (R474, R475), errors of the Hive's memories (R478), the links and HBM (R482, R483).
-/

namespace Sys2Proof.Machine

/-! ## Counters (Table 28.2) -/

/-- A field of RASCNT_256 counts one more. -/
def bumpRim (s : State) (hi lo : Nat) : State :=
  setDev s { s.dev with ras256 := putField s.dev.ras256 hi lo (bump16 (field s.dev.ras256 hi lo)) }

/-- CORRECTED_ERROR: block n, or 256 for the rim. -/
def execCorrectedError (n : Nat) (s : State) : Host.Outcome State Fault Refusal :=
  .next (if n < 256 then let b := blockAt s n; setBlock s n { b with ce := bump16 b.ce } else bumpRim s 63 48)

/-! ## Uncorrectable errors (Table 28.1) -/

/-- An element of a list that the spec does not name is taken out. -/
def dropAny {α : Type} (s : State) (l : List α) : List α × State :=
  let w := drawWord s
  (l.eraseIdx (w.1.toNat % max 1 l.length), w.2)

/-- A line of the L1, or a block of the instruction buffer, is invalidated and refetched at its next use. (DEDUCED: log 68.) -/
def dropL1 (s : State) (core : Nat) : State :=
  let w := drawWord s
  let k := coreOf w.2 core
  let n := w.1.toNat % max 1 (k.l1.length + k.ibuf.length)
  setCore w.2 core (if n < k.l1.length then { k with l1 := k.l1.eraseIdx n } else { k with ibuf := k.ibuf.eraseIdx (n - k.l1.length) })

/-- An error in a sector of a slice's data: a clean sector is refilled from HBM, a dirty one is poisoned. -/
def sectorError (s : State) (blk pa : Nat) : State :=
  let lb := lineBase pa
  let k := (pa - lb) / 48
  match mapGet (blockAt s blk).lines lb with
  | none => s
  | some ln =>
    if !ln.valid.getLsbD k then s
    else
      let l1 := if ln.dirty.getLsbD k then { ln with poison := setBit ln.poison k true }
        else ({ ln with valid := setBit ln.valid k false }).fill s lb ((1 : BitVec 4) <<< k)
      let b := blockAt s blk
      setBlock s blk { b with lines := mapSet b.lines lb l1 }

/-- An error in a slice's tag: a line with dirty sectors is poisoned, another is refetched. (DEDUCED: log 68.) -/
def tagError (s : State) (blk pa : Nat) : State :=
  let lb := lineBase pa
  let b := blockAt s blk
  match mapGet b.lines lb with
  | none => s
  | some ln => if ln.dirty = 0 then dropLine s blk lb else setBlock s blk { b with lines := mapSet b.lines lb { ln with poison := ln.valid } }

/-- An error in a held message: the bytes it brings are poison where they go. (DEDUCED: log 68.) -/
def heldError (s : State) (blk idx : Nat) : State :=
  let b := blockAt s blk
  match b.held[idx]? with
  | none => s
  | some h => setBlock s blk { b with held := b.held.set idx { h with bad := true } }

/-- An error in a side log: the entry is discarded with event kind 2. -/
def sideLogError (s : State) (blk idx : Nat) : State :=
  match (s.net.filter (fun a => a.logged && blockOf a.core == blk))[idx]? with
  | none => s
  | some a => match a.stage with
    | .logged c => discardEntry s a c
    | _ => s

/-- An error in a reduction unit's entry: the target is lost, with event kind 11, reason 4. -/
def entryError (s : State) (blk idx : Nat) : State :=
  match (blockAt s blk).xa[idx]? with
  | none => s
  | some x => raiseOnce (markLost s blk x.asid x.sid x.va) x.asid (BitVec.ofNat 4 x.sid) 4 x.va

/-- The registers of a core with an uncorrectable error recorded. -/
def regError (k : Core) : ErrSite → Core
  | .xReg _ mt r => if r = 0 then k else { k with xPoison := setBit k.xPoison (r.toNat + if mt then 32 else 0) true }
  | .vReg _ r => { k with vPoison := setBit k.vPoison r.toNat true }
  | .kReg _ r => { k with kPoison := setBit k.kPoison r.toNat true }
  | .pReg _ mt r => if r = 0 then k else { k with pPoison := setBit k.pPoison (r.toNat + if mt then 8 else 0) true }
  | .tile _ r => { k with tPoison := setBit k.tPoison r.toNat true }
  | .acc _ r => { k with aPoison := setBit k.aPoison r.toNat true }
  | _ => k

/-- An error in a core's matrix queue: an entry that the spec does not name fails (R471). -/
def queueError (s : State) (core : Nat) : State :=
  let w := drawWord s
  let k := coreOf w.2 core
  match k.mq[w.1.toNat % max 1 k.mq.length]? with
  | none => s
  | some c => setCore w.2 core { k with mq := k.mq.set (w.1.toNat % max 1 k.mq.length) { c with failed := true } }

/-- An error in a register of a core: it is found, counted and reported by what reads the register (R470, R471, R484). -/
def coreError (s : State) (core : Nat) (e : ErrSite) : State := setCore s core (regError (coreOf s core) e)

/-- UNCORRECTABLE_ERROR. (DESIGN CHOICE: log 42, DEDUCED: log 68.) -/
def execUncorrectableError (site : ErrSite) (s : State) : Host.Outcome State Fault Refusal :=
  .next (match site with
    | .localMem core off =>
      if localBytes (coreOf s core) ≤ off then dropL1 s core
      else addUe (addPoison s (unitOf (localKey core off))) (blockOf core)
    | .l1 core => dropL1 s core
    | .xReg core _ _ => coreError s core site
    | .vReg core _ => coreError s core site
    | .kReg core _ => coreError s core site
    | .pReg core _ _ => coreError s core site
    | .tile core _ => coreError s core site
    | .acc core _ => coreError s core site
    | .matrixQueue core => queueError s core
    | .sliceData blk pa => addUe (sectorError s blk pa) blk
    | .sliceTag blk pa => addUe (tagError s blk pa) blk
    | .tcache blk =>
      let b := blockAt s blk
      let r := dropAny s b.tcache
      addUe (setBlock r.2 blk { b with tcache := r.1 }) blk
    | .wcache blk =>
      let b := blockAt s blk
      let r := dropAny s b.wcache
      addUe (setBlock r.2 blk { b with wcache := r.1 }) blk
    | .blockStore blk off => addUe (addPoison s (unitOf (bsKey blk off))) blk
    | .sideLog blk idx => addUe (sideLogError s blk idx) blk
    | .heldMessage blk idx => addUe (heldError s blk idx) blk
    | .xa blk idx => addUe (entryError s blk idx) blk
    | .maskBuffer blk seq =>
      if (seqAt s blk seq).buf.isEmpty then addUe s blk
      else
        let w := drawWord s
        addUe (seqFault w.2 blk seq w.1 10) blk
    | .hbm pa =>
      let lo := pa / 64 * 64
      let s1 := (List.range 64).foldl (fun st i => addPoison st (unitOf (lo + i))) s
      superEvent (bumpRim s1 47 32) 14 (BitVec.ofNat 64 lo) 0)

/-! ## Repair (R474, R475) -/

/-- The launch rectangles of resident contexts that meet a block, none within another. (DEDUCED: log 70.) -/
def rectsAt (s : State) (blk : Nat) : List (Nat × Word) :=
  let rs := ((s.dev.placed.filter (fun p => rectMeetsBlock (rectOf p.rect) blk)).map (fun p => (p.asid, p.rect))).eraseDups
  rs.filter (fun r => !rs.any (fun t => t != r && t.1 == r.1 && rectWithin (rectOf r.2) (rectOf t.2)) &&
    (rectCores (rectOf r.2)).any (fun c => coreBusy (coreOf s c)))

/-- Every resident rectangle that meets a block is pre-empted (R48). (DEDUCED: log 70.) -/
def beginRepair (s : State) (blk : Nat) (core : Option Nat) : State :=
  let rs := rectsAt s blk
  let s1 := setDev s { s.dev with retiring := s.dev.retiring ++ [(blk, core, rs)] }
  rs.foldl (fun st r => askStop st r.1 r.2) s1

/-- Are the rectangles of a repair saved? -/
def repairReady (s : State) (rs : List (Nat × Word)) : Bool :=
  rs.all (fun r => (rectCores (rectOf r.2)).all (fun c => !(coreOf s c).stopReq))

/-- The repair of a block is over. -/
def endRepair (s : State) (blk : Nat) : State :=
  post (setDev s { s.dev with retiring := s.dev.retiring.filter (fun r => r.1 != blk) }) .placement

/-- Physical column of a logical column under the retired columns (R14). -/
def physCol (ret : List Nat) (c : Nat) : Nat := ret.foldl (fun p r => if r ≤ p then p + 1 else p) c

/-- A column recorded among the retired ones, in ascending order. -/
def addColumn (ret : List Nat) (c : Nat) : List Nat := ret.filter (· < c) ++ c :: ret.filter (fun r => decide (c < r))

/-- A rectangle that a repair saved is restored at its own position. (DEDUCED: log 70.) -/
def restoreSame (s : State) (r : Nat × Word) : State :=
  match (allSaved s).find? (fun x => x.1 == r.1 && x.2.2.rect == r.2 && !x.2.2.cores.isEmpty) with
  | none => s
  | some x => restoreRect s r.1 x.2.1 x.2.2 r.2

/-- The column of a core that failed its check twice is retired, and the rectangles run again at their positions. (DEDUCED: log 70.) -/
def retireColumn (s : State) (core : Nat) (rs : List (Nat × Word)) : State :=
  let blk := blockOf core
  let b := blockAt s blk
  let col := physCol b.ret (colOf core % 64)
  let s1 := setBlock s blk { b with ret := addColumn b.ret col }
  let s2 := endRepair (rs.foldl restoreSame (setCore s1 core { coreOf s1 core with blocked := false })) blk
  ((rs.map (·.1)).eraseDups).foldl (fun st a =>
    raiseEvent st a 15 (BitVec.ofNat 64 (blk + col * 2 ^ 8)) (BitVec.ofNat 64 (core % 2 ^ 20 * 2 ^ 16))) s2

/-- COLUMN_RETIREMENT: with no spare left the block is withdrawn instead (R17, R474). -/
def execColumnRetirement (core : Nat) (s : State) : Host.Outcome State Fault Refusal :=
  .next (
    let blk := blockOf core
    match s.dev.retiring.find? (fun r => r.1 == blk) with
    | none =>
      if (blockAt s blk).wdn then s
      else if 2 ≤ (blockAt s blk).ret.length then post s (.blockWithdrawal blk)
      else post (beginRepair s blk (some core)) (.columnRetirement core)
    | some (_, c, rs) =>
      if c = some core ∧ repairReady s rs = true then retireColumn s core rs else post s (.columnRetirement core))

/-- The windows whose block rectangle holds a block are cleared, and their charge is refunded. -/
def clearWindows (s : State) (blk : Nat) : State :=
  let ws := (s.ctxs.map (fun c => (c.2.windows.filter (fun w => w.blocks.contains blk)).map (fun w => (c.1, w)))).flatten
  ws.foldl (fun st w => changeWindow (setPinned (unpinLines st w.1 w.2) w.1 w.2.base false) w.1 w.2.base none) s

/-- A block leaves service (R475, steps 2 to 5). (DEDUCED: log 70.) -/
def withdraw (s : State) (blk : Nat) : State :=
  let s1 := clearWindows (savePartitions (retireSlice s blk) blk) blk
  let s2 := setBlock s1 blk { blockAt s1 blk with wdn := true, bsSaved := [], tcache := [], wcache := [] }
  let s3 := endRepair (setDev s2 { s2.dev with nblocks := s2.dev.nblocks - 1, gen := s2.dev.gen + 1 }) blk
  let blocks := BitVec.ofNat 64 (s3.dev.gen % 2 ^ 32 * 2 ^ 32 + s3.dev.nblocks)
  (s3.ctxs.filter (fun c => c.2.resident)).foldl (fun st c => raiseEvent st c.1 16 blocks (BitVec.ofNat 64 blk)) s3

/-- BLOCK_WITHDRAWAL. -/
def execBlockWithdrawal (blk : Nat) (s : State) : Host.Outcome State Fault Refusal :=
  .next (
    if (blockAt s blk).wdn then s
    else match s.dev.retiring.find? (fun r => r.1 == blk) with
    | none => post (beginRepair s blk none) (.blockWithdrawal blk)
    | some (_, c, rs) => if c = none ∧ repairReady s rs = true then withdraw s blk else post s (.blockWithdrawal blk))

/-! ## The checker (R472, R473) -/

/-- A second mismatch of a matrix command: it fails, and a third within one second withdraws the block. (DEDUCED: log 71.) -/
def matrixMismatch (s : State) (core : Nat) : State :=
  let blk := blockOf core
  let b := blockAt s blk
  let sec := s.dev.time / 10 ^ 9
  let n := (if b.mxfTick = sec then b.mxf else 0) + 1
  let s1 := setBlock s blk { b with mxf := n, mxfTick := sec }
  let k := coreOf s1 core
  let s2 := match k.mq with
    | [] => s1
    | c :: cs => setCore s1 core { k with mq := { c with failed := true } :: cs }
  if 3 ≤ n then post s2 (.blockWithdrawal blk) else s2

/-- CHECKER_MISMATCH: the commit is blocked and counted. A first mismatch repeats the instruction, 16 cycles later, or the matrix
command, its own cycles later; at a second one in a core it stops at the blocked boundary until its column is retired (R474). -/
def execCheckerMismatch (core : Nat) (matrix again : Bool) (s : State) : Host.Outcome State Fault Refusal :=
  .next (
    let blk := blockOf core
    let b := blockAt s blk
    let s1 := setBlock s blk { b with chk := bump16 b.chk }
    if again then
      if matrix then matrixMismatch s1 core
      else post (setCore s1 core { coreOf s1 core with blocked := true }) (.columnRetirement core)
    else
      let n := if matrix then ((coreOf s1 core).mq.head?.map (cmdCycles s1 core)).getD 0 else 16
      advanceToCycle s1 blk (cycleNow s1 blk + n))

/-! ## The Hive, links and HBM -/

/-- HIVE_MEMORY_ERROR: the handler in progress is abandoned before its commit and its event is handled again: a handler's effects
are one step, so its event still waits. The word is reloaded from the other copy. The event number is twice the Hive core, plus one
where both copies of its instruction memory fail at one word: that core leaves service (R478). (DESIGN CHOICE: log 69.) -/
def execHiveMemoryError (event : Nat) (s : State) : Host.Outcome State Fault Refusal :=
  .next (
    let s1 := bumpRim s 47 32
    let c := event / 2
    if event % 2 = 1 ∧ c < 12 ∧ s1.dev.hiveOut.contains c = false then setDev s1 { s1.dev with hiveOut := s1.dev.hiveOut ++ [c] } else s1)

/-- Lanes of a port that has not retrained; the spec does not state how many there are. -/
def portOf (s : State) (port : Nat) : Port := (mapGet s.dev.ports port).getD { down := false, lanes := Config.portLanes port }

/-- Master identifier of a port: Blugrador 0 and 1, then Uluit 0 to 35 (R408). -/
def portMaster (port : Nat) : Nat := if port < 2 then 1 + port else 0x10 + (port - 2)

/-- The scope table without an Uluit port; a device left with no path loses its entry. -/
def scopeWithout (d : Device) (u : Nat) : Device :=
  let own := field d.fabid 11 0
  let cut (e : Nat × Word) : Nat × Word :=
    let w := setBit e.2 (8 + u) false
    (e.1, if e.1 ≠ own ∧ field w 43 8 = 0 then setBit w 63 false else w)
  { d with scope := d.scope.map cut }

/-- Devices that the scope table holds as valid. -/
def validDevices (d : Device) : List Nat := (d.scope.filter (fun e => e.2.getLsbD 63)).map (·.1)

/-- The device that a peer operation names. -/
def peerOf : EOp → Option Nat
  | .peer dev _ _ _ => some dev
  | .coll _ dev _ _ _ _ => some dev
  | _ => none

/-- The operations of a core on devices that are reached no longer end with event kind 4, value 1. -/
def endPeerOps (s : State) (gone : List Nat) (core : Nat) : State :=
  ((coreOf s core).ops.filter (fun o => o.phase != phaseDone)).foldl (fun st o => match peerOf o.op with
    | some dev => if gone.contains dev then opDone (raisePeer st core o dev 1) core o else st
    | none => st) s

/-- Those of the saved cores as well. -/
def endSavedOps (gone : List Nat) (s : State) (x : Saved) : State :=
  (x.core.ops.filter (fun o => o.phase != phaseDone)).foldl (fun st o => match peerOf o.op with
    | some dev =>
      if gone.contains dev then workDone (raisePeer st (x.pos % 2 ^ 20) o dev 1) (x.pos % 2 ^ 20) (fun y => y == o) else st
    | none => st) s

/-- PORT_RETRAIN: an Uluit port goes down. -/
def uluitDown (s : State) (u : Nat) : State :=
  let before := validDevices s.dev
  let s1 := setDev s (scopeWithout s.dev u)
  let gone := before.filter (fun d => !(validDevices s1.dev).contains d)
  (allSavedCores s1).foldl (endSavedOps gone) ((liveCores s1).foldl (fun st c => endPeerOps st gone c) s1)

/-- FLIT_CRC_FAIL: a replay changes only timing; a port that fails 16 in a row retrains, and returns at fewer lanes or goes down,
with event kind 19 (R482). (DESIGN CHOICE: log 69.) -/
def execFlitCrcFail (port replays : Nat) (down : Bool) (s : State) : Host.Outcome State Fault Refusal :=
  .next (
    if replays < 16 then s
    else
      let w := drawWord s
      let p := portOf s port
      let lanes := if down then 0 else 1 + w.1.toNat % max 1 (p.lanes - 1)
      let s1 := setDev w.2 { w.2.dev with ports := mapSet w.2.dev.ports port { down := down, lanes := lanes } }
      let s2 := if down ∧ 2 ≤ port then uluitDown s1 (port - 2) else s1
      superEvent s2 19 (BitVec.ofNat 64 (portMaster port)) (BitVec.ofNat 64 (lanes % 256)))

/-- HBM_SCRUB: a row of a stack that yielded a second corrected error goes to a spare row, and a bank with more than four such
rows to a spare bank; only timing changes (R483). (DESIGN CHOICE: log 69.) -/
def execHbmScrub (stack row : Nat) (s : State) : Host.Outcome State Fault Refusal :=
  .next (
    let rows := (mapGet s.dev.spared stack).getD []
    let rows1 := if rows.contains row then rows else rows ++ [row]
    let bank := Config.hbmBank row
    let banks := (mapGet s.dev.bankSpared stack).getD []
    let full := decide (4 < (rows1.filter (fun r => Config.hbmBank r == bank)).length)
    let banks1 := if full && !banks.contains bank then banks ++ [bank] else banks
    setDev s { s.dev with
      spared := mapSet s.dev.spared stack rows1
      bankSpared := if banks1.isEmpty then s.dev.bankSpared else mapSet s.dev.bankSpared stack banks1 })

end Sys2Proof.Machine
end

