-- ==== Sys2Proof/Machine/Boot.lean ====
section
/-!
DEFINITION. Boot (R411, Table 19.6), with the scope table (R410) and the retired columns of the fuses (R17).
-/

namespace Sys2Proof.Machine

/-- Bytes of the image: of the boot flash, or of the buffer that the host filled at HWIN_MEM offset 0. -/
def imageBytes (s : State) (off n : Nat) : List Byte :=
  if Config.bootFromHost then readBytes s.mem off n else (List.range n).map (fun i => Config.flash (off + i))

/-- A 32-bit field of the image header. -/
def headField (s : State) (off : Nat) : Nat := leNat (imageBytes s off 4)

/-- The checks of steps 2 to 4: the header, the key, the signature and the security version. (DESIGN CHOICE: log 69.) -/
def imageOk (s : State) : Bool :=
  let size := headField s 0xC
  let key := imageBytes s 0x40 97
  let msg := imageBytes s 0 0xA8 ++ imageBytes s 0x200 size
  imageBytes s 0 4 == [0x4C, 0x56, 0x48, 0x56] && headField s 4 == 1 && decide (headField s 8 ≤ 64) && decide (size ≤ 786432) &&
  decide (headField s 0x10 < size) && key.headD 0 == 4 && sha384 key == Config.rootKeyHash &&
  ecdsaVerifies key (sha384 msg) (imageBytes s 0xA8 96) && decide (s.dev.svn ≤ headField s 8)

/-- The retired columns that a block's fuses name, ascending. -/
def fusedColumns (blk : Nat) : List Nat :=
  ((List.range 2).map (Config.fuseColumn blk)).foldl (fun r c => if c < 66 then addColumn r c else r) []

/-- The blocks with retired columns take them into their status registers. -/
def loadFuses (s : State) : State :=
  (List.range 256).foldl (fun st b =>
    let r := fusedColumns b
    if r.isEmpty then st else setBlock st b { blockAt st b with ret := r }) s

/-- The scope table: the entry of this device has hops 0. -/
def buildScope : Map Word :=
  (List.range 4096).filterMap (fun d =>
    let w := Config.fabricEntry d
    if d = Config.fabricNumber.toNat then some (d, 0x8000_0000_0000_0000)
    else if w.getLsbD 63 then some (d, w &&& 0x8000_0FFF_FFFF_FFFF)
    else none)

/-- The memories of a Hive core with the body of the image: the first 256 KiB in both copies of the instruction memory, the rest in
the data memory (R27); it starts at the entry. (DESIGN CHOICE: log 69.) -/
def hiveLoad (body : List Byte) (entry : Nat) : HiveMem :=
  let code := writeBytes [] 0 (body.take 262144)
  { imem0 := code, imem1 := code, dmem := writeBytes [] 0 (body.drop 262144), entry := entry }

/-- BOOT: a failure halts the boot and leaves a reason, which the spec does not state, in BOOTSTAT; else the image is measured,
the twelve Hive cores start, the further images are measured, and BOOTSTAT.ready is set after the scope table is built.
(DESIGN CHOICE: log 5, DESIGN CHOICE: log 69.) -/
def execBoot (s : State) : Host.Outcome State Fault Refusal :=
  .next (
    if !imageOk s then
      let w := drawWord s
      setDev w.2 { w.2.dev with bootstat := w.1 &&& ~~~1 }
    else
      let image := imageBytes s 0 (0x200 + headField s 0xC)
      let mem := hiveLoad (image.drop 0x200) (headField s 0x10)
      let s1 := Config.furtherImages.foldl (fun st i => runAppend st 1 0 i) (loadFuses (runAppend s 1 0 image))
      setDev s1 { s1.dev with
        hiveMem := (List.range 12).map (fun c => (c, mem))
        fabid := Config.fabricNumber.setWidth 64, scope := buildScope, imageSvn := headField s 8, hiveUp := true
        bootstat := 1 })

end Sys2Proof.Machine
end

