-- ==== Sys2Proof/Machine/Scalar.lean ====
section
/-!
DEFINITION. Integer arithmetic and logic, bit fields, selection, addresses, constants and predicates (R256 to R263).
-/

namespace Sys2Proof.Machine

/-! ## Results (Table 13.1) -/

/-- MULH: the high half of the signed product. -/
def mulHigh (x y : Word) : Word := BitVec.ofInt 64 (x.toInt * y.toInt / 2 ^ 64)

/-- MULHU: the high half of the unsigned product. -/
def mulHighU (x y : Word) : Word := BitVec.ofNat 64 (x.toNat * y.toNat / 2 ^ 64)

/-- The signed quotient of R258. -/
def divQ (x y : Word) : Word :=
  if y = 0 then BitVec.allOnes 64
  else if x = 0x8000_0000_0000_0000 ∧ y = BitVec.allOnes 64 then x
  else BitVec.ofInt 64 (x.toInt.tdiv y.toInt)

/-- The signed remainder of R258. -/
def remQ (x y : Word) : Word :=
  if y = 0 then x
  else if x = 0x8000_0000_0000_0000 ∧ y = BitVec.allOnes 64 then 0
  else BitVec.ofInt 64 (x.toInt.tmod y.toInt)

/-- The unsigned quotient of R258. -/
def divU (x y : Word) : Word := if y = 0 then BitVec.allOnes 64 else BitVec.ofNat 64 (x.toNat / y.toNat)

/-- The unsigned remainder of R258. -/
def remU (x y : Word) : Word := if y = 0 then x else BitVec.ofNat 64 (x.toNat % y.toNat)

/-- n of a shift: y mod 64. -/
def shiftBy (y : Word) : Nat := y.toNat % 64

/-- The smaller, signed. -/
def minS (x y : Word) : Word := if x.sle y then x else y
/-- The larger, signed. -/
def maxS (x y : Word) : Word := if y.sle x then x else y
/-- The smaller, unsigned. -/
def minU (x y : Word) : Word := if x.ule y then x else y
/-- The larger, unsigned. -/
def maxU (x y : Word) : Word := if y.ule x then x else y

/-- Bits of a word above its highest set bit. -/
def leadingZeros (x : Word) : Nat := if x = 0 then 64 else 63 - Nat.log2 x.toNat

/-- Position of the lowest set bit among the low n bits counted from i; n where there is none. -/
def lowestSet (x : Nat) : Nat → Nat → Nat
  | 0, i => i
  | n + 1, i => if x.testBit i then i else lowestSet x n (i + 1)

/-- Set bits among n bits. -/
def countBits (x n : Nat) : Nat := (List.range n).foldl (fun acc i => acc + (x.testBit i).toNat) 0

/-- Bit i of the result is bit 63 − i. -/
def bitReverse (x : Word) : Word :=
  BitVec.ofNat 64 ((List.range 64).foldl (fun acc i => acc + (x.getLsbD i).toNat * 2 ^ (63 - i)) 0)

/-! ## Register forms -/

/-- ADD. -/
def execAdd (h : Hdr) (d a b : XReg) (s : State) : Host.Outcome State Fault Refusal :=
  issue infoCM h (usesDAB d a b) (fun s => writeX d (xget s a + xget s b) s) s

/-- SUB. -/
def execSub (h : Hdr) (d a b : XReg) (s : State) : Host.Outcome State Fault Refusal :=
  issue infoCM h (usesDAB d a b) (fun s => writeX d (xget s a - xget s b) s) s

/-- MUL. -/
def execMul (h : Hdr) (d a b : XReg) (s : State) : Host.Outcome State Fault Refusal :=
  issue infoCM h (usesDAB d a b) (fun s => writeX d (xget s a * xget s b) s) s

/-- MULH. -/
def execMulh (h : Hdr) (d a b : XReg) (s : State) : Host.Outcome State Fault Refusal :=
  issue infoCM h (usesDAB d a b) (fun s => writeX d (mulHigh (xget s a) (xget s b)) s) s

/-- MULHU. -/
def execMulhu (h : Hdr) (d a b : XReg) (s : State) : Host.Outcome State Fault Refusal :=
  issue infoCM h (usesDAB d a b) (fun s => writeX d (mulHighU (xget s a) (xget s b)) s) s

/-- DIV. -/
def execDiv (h : Hdr) (d a b : XReg) (s : State) : Host.Outcome State Fault Refusal :=
  issue infoCM h (usesDAB d a b) (fun s => writeX d (divQ (xget s a) (xget s b)) s) s

/-- DIVU. -/
def execDivu (h : Hdr) (d a b : XReg) (s : State) : Host.Outcome State Fault Refusal :=
  issue infoCM h (usesDAB d a b) (fun s => writeX d (divU (xget s a) (xget s b)) s) s

/-- REM. -/
def execRem (h : Hdr) (d a b : XReg) (s : State) : Host.Outcome State Fault Refusal :=
  issue infoCM h (usesDAB d a b) (fun s => writeX d (remQ (xget s a) (xget s b)) s) s

/-- REMU. -/
def execRemu (h : Hdr) (d a b : XReg) (s : State) : Host.Outcome State Fault Refusal :=
  issue infoCM h (usesDAB d a b) (fun s => writeX d (remU (xget s a) (xget s b)) s) s

/-- AND. -/
def execAnd (h : Hdr) (d a b : XReg) (s : State) : Host.Outcome State Fault Refusal :=
  issue infoCM h (usesDAB d a b) (fun s => writeX d (xget s a &&& xget s b) s) s

/-- OR. -/
def execOr (h : Hdr) (d a b : XReg) (s : State) : Host.Outcome State Fault Refusal :=
  issue infoCM h (usesDAB d a b) (fun s => writeX d (xget s a ||| xget s b) s) s

/-- XOR. -/
def execXor (h : Hdr) (d a b : XReg) (s : State) : Host.Outcome State Fault Refusal :=
  issue infoCM h (usesDAB d a b) (fun s => writeX d (xget s a ^^^ xget s b) s) s

/-- ANDN. -/
def execAndn (h : Hdr) (d a b : XReg) (s : State) : Host.Outcome State Fault Refusal :=
  issue infoCM h (usesDAB d a b) (fun s => writeX d (xget s a &&& ~~~xget s b) s) s

/-- SHL. -/
def execShl (h : Hdr) (d a b : XReg) (s : State) : Host.Outcome State Fault Refusal :=
  issue infoCM h (usesDAB d a b) (fun s => writeX d (xget s a <<< shiftBy (xget s b)) s) s

/-- SHR. -/
def execShr (h : Hdr) (d a b : XReg) (s : State) : Host.Outcome State Fault Refusal :=
  issue infoCM h (usesDAB d a b) (fun s => writeX d (xget s a >>> shiftBy (xget s b)) s) s

/-- SAR. -/
def execSar (h : Hdr) (d a b : XReg) (s : State) : Host.Outcome State Fault Refusal :=
  issue infoCM h (usesDAB d a b) (fun s => writeX d ((xget s a).sshiftRight (shiftBy (xget s b))) s) s

/-- ROTR. -/
def execRotr (h : Hdr) (d a b : XReg) (s : State) : Host.Outcome State Fault Refusal :=
  issue infoCM h (usesDAB d a b) (fun s => writeX d ((xget s a).rotateRight (shiftBy (xget s b))) s) s

/-- MIN. -/
def execMin (h : Hdr) (d a b : XReg) (s : State) : Host.Outcome State Fault Refusal :=
  issue infoCM h (usesDAB d a b) (fun s => writeX d (minS (xget s a) (xget s b)) s) s

/-- MAX. -/
def execMax (h : Hdr) (d a b : XReg) (s : State) : Host.Outcome State Fault Refusal :=
  issue infoCM h (usesDAB d a b) (fun s => writeX d (maxS (xget s a) (xget s b)) s) s

/-- MINU. -/
def execMinu (h : Hdr) (d a b : XReg) (s : State) : Host.Outcome State Fault Refusal :=
  issue infoCM h (usesDAB d a b) (fun s => writeX d (minU (xget s a) (xget s b)) s) s

/-- MAXU. -/
def execMaxu (h : Hdr) (d a b : XReg) (s : State) : Host.Outcome State Fault Refusal :=
  issue infoCM h (usesDAB d a b) (fun s => writeX d (maxU (xget s a) (xget s b)) s) s

/-- CLZ. -/
def execClz (h : Hdr) (d a : XReg) (s : State) : Host.Outcome State Fault Refusal :=
  issue infoCM h (usesDA d a) (fun s => writeX d (BitVec.ofNat 64 (leadingZeros (xget s a))) s) s

/-- CTZ. -/
def execCtz (h : Hdr) (d a : XReg) (s : State) : Host.Outcome State Fault Refusal :=
  issue infoCM h (usesDA d a) (fun s => writeX d (BitVec.ofNat 64 (lowestSet (xget s a).toNat 64 0)) s) s

/-- POPC. -/
def execPopc (h : Hdr) (d a : XReg) (s : State) : Host.Outcome State Fault Refusal :=
  issue infoCM h (usesDA d a) (fun s => writeX d (BitVec.ofNat 64 (countBits (xget s a).toNat 64)) s) s

/-- BREV. -/
def execBrev (h : Hdr) (d a : XReg) (s : State) : Host.Outcome State Fault Refusal :=
  issue infoCM h (usesDA d a) (fun s => writeX d (bitReverse (xget s a)) s) s

/-! ## Bit fields, selection, addresses (R259, R260) -/

/-- len of R259 for a position: 0 stands for 64, cut at bit 63. -/
def fieldLen (pos : Nat) (y : Word) : Nat :=
  let n := if y.toNat % 64 = 0 then 64 else y.toNat % 64
  min n (64 - pos)

/-- The field that BFX reads. -/
def extractField (signed : Bool) (x : Word) (pos len : Nat) : Word :=
  let f := x.toNat / 2 ^ pos % 2 ^ len
  if signed && f.testBit (len - 1) then BitVec.ofInt 64 ((f : Int) - 2 ^ len) else BitVec.ofNat 64 f

/-- The word that BFI writes. -/
def insertField (x y : Word) (pos len : Nat) : Word :=
  let m : Word := BitVec.ofNat 64 ((2 ^ len - 1) * 2 ^ pos)
  (x &&& ~~~m) ||| ((y <<< pos) &&& m)

/-- BFX. -/
def execBfx (h : Hdr) (signed : Bool) (d a b c : XReg) (s : State) : Host.Outcome State Fault Refusal :=
  issue infoCM h { xr := [a, b, c], xw := [d] } (fun s =>
    let pos := shiftBy (xget s b)
    writeX d (extractField signed (xget s a) pos (fieldLen pos (xget s c))) s) s

/-- BFI. -/
def execBfi (h : Hdr) (d a b c e : XReg) (s : State) : Host.Outcome State Fault Refusal :=
  issue infoCM h { xr := [a, b, c, e], xw := [d] } (fun s =>
    let pos := shiftBy (xget s c)
    writeX d (insertField (xget s a) (xget s b) pos (fieldLen pos (xget s e))) s) s

/-- SEL. -/
def execSel (h : Hdr) (d a b : XReg) (c : PReg) (s : State) : Host.Outcome State Fault Refusal :=
  issue infoCM h { xr := [a, b], xw := [d], pr := [c] } (fun s => writeX d (if pget s c then xget s a else xget s b) s) s

/-- LEA. -/
def execLea (h : Hdr) (sc : BitVec 3) (d a b : XReg) (s : State) : Host.Outcome State Fault Refusal :=
  issue infoCM h (usesDAB d a b) (fun s => writeX d (xget s a + (xget s b <<< sc.toNat)) s) s

/-- CMP (R261). -/
def execCmp (h : Hdr) (cond : Cond) (d : PReg) (a b : XReg) (s : State) : Host.Outcome State Fault Refusal :=
  issue infoCM h { xr := [a, b], pw := [d] } (fun s => writeP d (condBits cond (xget s a) (xget s b)) s) s

/-- MOV. -/
def execMov (h : Hdr) (d a : XReg) (s : State) : Host.Outcome State Fault Refusal :=
  issue infoCM h (usesDA d a) (fun s => writeX d (xget s a) s) s

/-! ## Immediate forms (R257) -/

/-- ADDI. -/
def execAddi (h : Hdr) (d a : XReg) (imm : BitVec 18) (s : State) : Host.Outcome State Fault Refusal :=
  issue infoCM h (usesDA d a) (fun s => writeX d (xget s a + immS imm) s) s

/-- MULI. -/
def execMuli (h : Hdr) (d a : XReg) (imm : BitVec 18) (s : State) : Host.Outcome State Fault Refusal :=
  issue infoCM h (usesDA d a) (fun s => writeX d (xget s a * immS imm) s) s

/-- ANDI. -/
def execAndi (h : Hdr) (d a : XReg) (imm : BitVec 18) (s : State) : Host.Outcome State Fault Refusal :=
  issue infoCM h (usesDA d a) (fun s => writeX d (xget s a &&& immS imm) s) s

/-- ORI. -/
def execOri (h : Hdr) (d a : XReg) (imm : BitVec 18) (s : State) : Host.Outcome State Fault Refusal :=
  issue infoCM h (usesDA d a) (fun s => writeX d (xget s a ||| immS imm) s) s

/-- XORI. -/
def execXori (h : Hdr) (d a : XReg) (imm : BitVec 18) (s : State) : Host.Outcome State Fault Refusal :=
  issue infoCM h (usesDA d a) (fun s => writeX d (xget s a ^^^ immS imm) s) s

/-- SHLI. -/
def execShli (h : Hdr) (d a : XReg) (n : BitVec 6) (s : State) : Host.Outcome State Fault Refusal :=
  issue infoCM h (usesDA d a) (fun s => writeX d (xget s a <<< n.toNat) s) s

/-- SHRI. -/
def execShri (h : Hdr) (d a : XReg) (n : BitVec 6) (s : State) : Host.Outcome State Fault Refusal :=
  issue infoCM h (usesDA d a) (fun s => writeX d (xget s a >>> n.toNat) s) s

/-- SARI. -/
def execSari (h : Hdr) (d a : XReg) (n : BitVec 6) (s : State) : Host.Outcome State Fault Refusal :=
  issue infoCM h (usesDA d a) (fun s => writeX d ((xget s a).sshiftRight n.toNat) s) s

/-- ROTRI. -/
def execRotri (h : Hdr) (d a : XReg) (n : BitVec 6) (s : State) : Host.Outcome State Fault Refusal :=
  issue infoCM h (usesDA d a) (fun s => writeX d ((xget s a).rotateRight n.toNat) s) s

/-- MINI. -/
def execMini (h : Hdr) (d a : XReg) (imm : BitVec 18) (s : State) : Host.Outcome State Fault Refusal :=
  issue infoCM h (usesDA d a) (fun s => writeX d (minS (xget s a) (immS imm)) s) s

/-- MAXI. -/
def execMaxi (h : Hdr) (d a : XReg) (imm : BitVec 18) (s : State) : Host.Outcome State Fault Refusal :=
  issue infoCM h (usesDA d a) (fun s => writeX d (maxS (xget s a) (immS imm)) s) s

/-- MINUI. -/
def execMinui (h : Hdr) (d a : XReg) (imm : BitVec 18) (s : State) : Host.Outcome State Fault Refusal :=
  issue infoCM h (usesDA d a) (fun s => writeX d (minU (xget s a) (immU imm)) s) s

/-- MAXUI. -/
def execMaxui (h : Hdr) (d a : XReg) (imm : BitVec 18) (s : State) : Host.Outcome State Fault Refusal :=
  issue infoCM h (usesDA d a) (fun s => writeX d (maxU (xget s a) (immU imm)) s) s

/-- CMPI (R261). -/
def execCmpi (h : Hdr) (cond : Cond) (d : PReg) (a : XReg) (imm : BitVec 18) (s : State) :
    Host.Outcome State Fault Refusal :=
  issue infoCM h { xr := [a], pw := [d] } (fun s => writeP d (condBits cond (xget s a) (immS imm)) s) s

/-- LI. -/
def execLi (h : Hdr) (d : XReg) (imm : BitVec 18) (s : State) : Host.Outcome State Fault Refusal :=
  issue infoCM h { xw := [d] } (fun s => writeX d (immS imm) s) s

/-- LIW: two words, one instruction (R199). -/
def execLiw (h : Hdr) (d : XReg) (lit : Word) (s : State) : Host.Outcome State Fault Refusal :=
  issue { infoCM with words := 2 } h { xw := [d] } (fun s => writeX d lit s) s

/-! ## Predicates -/

/-- PLOG (R262). -/
def execPlog (h : Hdr) (d a b c : PReg) (tt : BitVec 8) (s : State) : Host.Outcome State Fault Refusal :=
  issue infoCM h { pr := [a, b, c], pw := [d] } (fun s => writeP d (truth tt (pget s a) (pget s b) (pget s c)) s) s

/-- PSET (R263): values and enables of p1 to p7. -/
def execPset (h : Hdr) (vals en : BitVec 7) (s : State) : Host.Outcome State Fault Refusal :=
  issue infoCM h { pw := ((List.range 7).filter (fun n => en.getLsbD n)).map (fun n => BitVec.ofNat 3 (n + 1)) } (fun s =>
    .done ((List.range 7).foldl (fun st n =>
      if en.getLsbD n then pset st (BitVec.ofNat 3 (n + 1)) (vals.getLsbD n) else st) s)) s

end Sys2Proof.Machine
end

