-- ==== Sys2Proof/Machine/Special.lean ====
section
/-!
DEFINITION. The special functions of Table 9.7, correctly rounded (R182). Exact results are exact values; any other result
is enclosed between two bounds computed in fixed point with 160 fraction bits, whose error stays below 1,024 units. The
true value lies strictly between the bounds, so where both bounds round alike that is the rounded value. No F32 input has an
exact result that lies within the bounds' distance of a value at which a rounding changes, so the lower bound's rounding is
that of the exact result (notes/assumptions/9.md).
-/

namespace Sys2Proof.Machine

/-! ## Fixed point with 160 fraction bits -/

/-- 1.0. -/
def fxOne : Nat := 2 ^ 160
/-- ln 2, rounded down. -/
def fxLn2 : Nat := 0xb17217f7d1cf79abc9e3b39803f2f6af40f34326
/-- 1 / ln 2, rounded down. -/
def fxLog2e : Nat := 0x171547652b82fe1777d0ffda0d23a7d11d6aef551
/-- π, rounded down. -/
def fxPi : Nat := 0x3243f6a8885a308d313198a2e03707344a4093822
/-- Bound on the error of every computation here, in units of the last place. -/
def fxErr : Nat := 1024

/-- The product, rounded down. -/
def fxMul (a b : Nat) : Nat := a * b / fxOne
/-- The quotient, rounded down. -/
def fxDiv (a b : Nat) : Nat := a * fxOne / b

/-- A dyadic rational m × 2^e as a fixed-point number, rounded down. -/
def fxOf (m : Nat) (e : Int) : Nat := if -160 ≤ e then m <<< (e + 160).toNat else m >>> (-(e + 160)).toNat

/-- Σ f^k / k! over k < n, with the present term. -/
def fxExpSum (f : Nat) : Nat → Nat → Nat → Nat
  | 0, _, _ => 0
  | n + 1, k, t => t + fxExpSum f n (k + 1) (fxMul t f / (k + 1))

/-- e^f for f in [0, 1). -/
def fxExp (f : Nat) : Nat := fxExpSum f 48 0 fxOne

/-- Alternating sum t0 − t1 + t2 …, where t_{k+1} = t_k × w / ((a + 2k)(a + 2k + 1)). -/
def fxAlt (w a : Nat) : Nat → Nat → Nat → Int
  | 0, _, _ => 0
  | n + 1, k, t => (t : Int) - fxAlt w a n (k + 1) (fxMul t w / ((a + 2 * k) * (a + 2 * k + 1)))

/-- sin y / y from w = y², y at most 1. -/
def fxSinc (w : Nat) : Nat := (fxAlt w 2 28 0 fxOne).toNat
/-- cos y from w = y², y at most 1. -/
def fxCos (w : Nat) : Nat := (fxAlt w 1 28 0 fxOne).toNat

/-- Σ w^k / (2k + 1) over k < n. -/
def fxAtanhSum (w : Nat) : Nat → Nat → Nat → Nat
  | 0, _, _ => 0
  | n + 1, k, t => t / (2 * k + 1) + fxAtanhSum w n (k + 1) (fxMul t w)

/-- Integer square root by digits: the greatest r with r² ≤ x, for x < 4^n. -/
def isqrt (x : Nat) : Nat → Nat → Nat
  | 0, r => r
  | n + 1, r => if (r + 2 ^ n) * (r + 2 ^ n) ≤ x then isqrt x n (r + 2 ^ n) else isqrt x n r

/-! ## Results -/

/-- A result before rounding: an exact value, or a value strictly between lo × 2^e and hi × 2^e in magnitude. -/
inductive Enclosed where
  | exact (x : Real)
  | between (neg : Bool) (lo hi : Nat) (e : Int)
  deriving DecidableEq, Repr

/-- The same for a plain fixed-point number scaled by 2^e. -/
def near (neg : Bool) (v : Nat) (e : Int) (lo hi : Nat) : Enclosed :=
  .between neg (max lo (v - fxErr)) (min hi (v + fxErr)) (e - 160)

/-- A bound that no result reaches. -/
def noBound : Nat := 2 ^ 400

/-- The parts of x = n + f with f in [0, 1): n, and f rounded down to fixed point; whether f is 0. -/
def splitInt (neg : Bool) (m : Nat) (e : Int) : Int × Nat × Bool :=
  if 0 ≤ e then
    -- a magnitude of 2^12 or more overflows or underflows every format
    let v : Int := if 12 ≤ e then 4096 else ((m <<< e.toNat : Nat) : Int)
    (if neg then -v else v, 0, true)
  else
    let d := (-e).toNat
    let q := m >>> d
    let r := m % 2 ^ d
    if r = 0 then (if neg then -(q : Int) else q, 0, true)
    else if neg then (-(q : Int) - 1, fxOf (2 ^ d - r) e, false)
    else (q, fxOf r e, false)

/-- 2^x. -/
def enExp2 (neg : Bool) (m : Nat) (e : Int) : Enclosed :=
  let p := splitInt neg m e
  let n := if p.1 < -4096 then -4096 else if p.1 > 4096 then 4096 else p.1
  if p.2.2 then .exact (.fin false 1 n) else near false (fxExp (fxMul p.2.1 fxLn2)) n fxOne (2 * fxOne)

/-- e^y for y ≥ 0 below 256, as a fixed-point number in [1, 2) and an exponent. -/
def fxExpBig (y : Nat) : Nat × Int :=
  let g := fxMul y fxLog2e
  (fxExp (fxMul (g % fxOne) fxLn2), ((g / fxOne : Nat) : Int))

/-- log₂ of a positive m × 2^e. -/
def enLog2 (m : Nat) (e : Int) : Enclosed :=
  let b := Nat.log2 m
  if m = 2 ^ b then .exact (Real.ofInt (b + e))
  else
    -- y = m / 2^b lies in (1, 2); above 4/3 it is halved
    let up := decide (3 * m > 4 * 2 ^ b)
    let den := if up then 2 ^ (b + 1) else 2 ^ b
    let n : Int := b + e + (if up then 1 else 0)
    -- z = (y − 1) / (y + 1), |z| at most 1/5
    let zneg := decide (m < den)
    let num := if zneg then den - m else m - den
    let z := num * fxOne / (m + den)
    let l := 2 * fxMul (fxMul z (fxAtanhSum (fxMul z z) 42 0 fxOne)) fxLog2e
    let v : Int := n * (fxOne : Int) + (if zneg then -(l : Int) else l)
    near (decide (v < 0)) v.natAbs 0 0 noBound

/-- 1/x. -/
def enRcp (neg : Bool) (m : Nat) (e : Int) : Enclosed :=
  let k := Nat.log2 m + 80
  let q := 2 ^ k / m
  if 2 ^ k % m = 0 then .exact (.fin neg q (-e - k)) else .between neg q (q + 1) (-e - k)

/-- √x of a positive x. -/
def enSqrt (m : Nat) (e : Int) : Enclosed :=
  let m1 := if e % 2 = 0 then m else 2 * m
  let e1 := if e % 2 = 0 then e else e - 1
  let x := m1 <<< 160
  let r := isqrt x 110 0
  if r * r = x then .exact (.fin false r (e1 / 2 - 80)) else .between false r (r + 1) (e1 / 2 - 80)

/-- 1/√x of a positive x. -/
def enRsq (m : Nat) (e : Int) : Enclosed :=
  let m1 := if e % 2 = 0 then m else 2 * m
  let e1 := if e % 2 = 0 then e else e - 1
  let k := Nat.log2 m1 + 161
  let k2 := if k % 2 = 0 then k else k + 1
  let x := 2 ^ k2 / m1
  let r := isqrt x 110 0
  let ex := -(e1 / 2) - (k2 / 2 : Nat)
  if r * r * m1 = 2 ^ k2 then .exact (.fin false r ex) else .between false r (r + 1) ex

/-- tanh x, by the ratio to x below 1/2 and by e^2x above. -/
def enTanh (neg : Bool) (m : Nat) (e : Int) : Enclosed :=
  let top : Int := (Nat.log2 m : Int) + e
  if top ≥ 6 then .between neg (fxOne - 2 ^ 70) fxOne (-160)
  else if top ≥ -1 then
    let p := fxExpBig (2 * fxOf m e)
    let a := p.1 <<< p.2.toNat
    near neg (fxOne - fxDiv (2 * fxOne) (a + fxOne)) 0 0 fxOne
  else
    let x := fxOf m e
    -- (e^2x − 1) / 2x
    let em := fxExpSum (2 * x) 48 1 fxOne
    let r := fxDiv (2 * em) (fxMul (2 * x) em + 2 * fxOne)
    .between neg (m * (r - fxErr)) (m * min fxOne (r + fxErr)) (e - 160)

/-- 1/(1 + e^−x). -/
def enSig (neg : Bool) (m : Nat) (e : Int) : Enclosed :=
  let top : Int := (Nat.log2 m : Int) + e
  if neg then
    if top ≥ 8 then .between false 1 2 (-400)
    else
      let p := fxExpBig (fxOf m e)
      -- 1/(1 + a 2^n) with a in [1, 2)
      let r := fxDiv fxOne (p.1 + (fxOne >>> p.2.toNat))
      near false r (-p.2) 0 (if p.2 = 0 then fxOne / 2 else fxOne)
  else if top ≥ 6 then .between false (fxOne - 2 ^ 70) fxOne (-160)
  else
    let p := fxExpBig (fxOf m e)
    let a := p.1 <<< p.2.toNat
    near false (fxDiv a (a + fxOne)) 0 (fxOne / 2) fxOne

/-- sin(π t) for t = m × 2^e in (0, 1/4]. -/
def enSinSmall (neg : Bool) (m : Nat) (e : Int) : Enclosed :=
  let y := fxMul fxPi (fxOf m e)
  let r := fxMul fxPi (fxSinc (fxMul y y))
  .between neg (m * (r - fxErr)) (m * (r + fxErr)) (e - 160)

/-- cos(π t) for t = m × 2^e in (0, 1/4]. -/
def enCosSmall (neg : Bool) (m : Nat) (e : Int) : Enclosed :=
  let y := fxMul fxPi (fxOf m e)
  near neg (fxCos (fxMul y y)) 0 0 fxOne

/-- x mod 2 of a magnitude, in units of 2^e with e < 0: the quadrant count of halves and the remainder below 1/2. -/
def quarterTurn (m : Nat) (e : Int) : Nat × Nat × Nat :=
  let d := (-e).toNat          -- 2^d units make 1; 2^(d-1) make one half
  let r := m % 2 ^ (d + 1)
  (r / 2 ^ (d - 1), r % 2 ^ (d - 1), 2 ^ (d - 1))

/-- sin(π t) or cos(π t) in the first quadrant, for t = r × 2^e below one half of `half` units. -/
def enQuad (cosine neg : Bool) (r half : Nat) (e : Int) : Enclosed :=
  if r = 0 then (if cosine then .exact (.fin neg 1 0) else .exact (.fin neg 0 0))
  else if 2 * r ≤ half then (if cosine then enCosSmall neg r e else enSinSmall neg r e)
  else (if cosine then enSinSmall neg (half - r) e else enCosSmall neg (half - r) e)

/-- sin πx. -/
def enSinpi (neg : Bool) (m : Nat) (e : Int) : Enclosed :=
  if 0 ≤ e then .exact (.fin neg 0 0)
  else
    let p := quarterTurn m e
    if p.2.1 = 0 ∧ p.1 % 2 = 0 then .exact (.fin neg 0 0)
    else enQuad (p.1 % 2 == 1) (neg != decide (2 ≤ p.1)) p.2.1 p.2.2 e

/-- cos πx. -/
def enCospi (m : Nat) (e : Int) : Enclosed :=
  if 0 ≤ e then .exact (.fin (decide (e = 0 ∧ m % 2 = 1)) 1 0)
  else
    let p := quarterTurn m e
    if p.2.1 = 0 ∧ p.1 % 2 = 1 then .exact (.fin false 0 0)
    else enQuad (p.1 % 2 == 0) (p.1 == 1 || p.1 == 2) p.2.1 p.2.2 e

/-- A special function of a value (Table 9.7). -/
def sfuValue (fn : Fn) (x : Real) : Enclosed :=
  match x with
  | .nan => .exact .nan
  | .inf neg =>
    match fn with
    | .exp2 => .exact (if neg then Real.zero else .inf false)
    | .log2 => .exact (if neg then .nan else .inf false)
    | .rcp => .exact (.fin neg 0 0)
    | .rsq => .exact (if neg then .nan else Real.zero)
    | .sqrt => .exact (if neg then .nan else .inf false)
    | .tanh => .exact (.fin neg 1 0)
    | .sig => .exact (if neg then Real.zero else .fin false 1 0)
    | .sinpi => .exact .nan
    | .cospi => .exact .nan
  | .fin neg m e =>
    if m = 0 then
      match fn with
      | .exp2 => .exact (.fin false 1 0)
      | .log2 => .exact (.inf true)
      | .rcp => .exact (.inf neg)
      | .rsq => .exact (.inf neg)
      | .sqrt => .exact (.fin neg 0 0)
      | .tanh => .exact (.fin neg 0 0)
      | .sig => .exact (.fin false 1 (-1))
      | .sinpi => .exact (.fin neg 0 0)
      | .cospi => .exact (.fin false 1 0)
    else
      match fn with
      | .exp2 => enExp2 neg m e
      | .log2 => if neg then .exact .nan else enLog2 m e
      | .rcp => enRcp neg m e
      | .rsq => if neg then .exact .nan else enRsq m e
      | .sqrt => if neg then .exact .nan else enSqrt m e
      | .tanh => enTanh neg m e
      | .sig => enSig neg m e
      | .sinpi => enSinpi neg m e
      | .cospi => enCospi m e

/-- The function of a number of Table 9.7. -/
def fnOfNumber : Nat → Fn
  | 0 => .exp2 | 1 => .log2 | 2 => .rcp | 3 => .rsq | 4 => .sqrt | 5 => .tanh | 6 => .sig | 7 => .sinpi | _ => .cospi

/-- A special function rounded into a format (R182): the rounding of a value just above the lower bound, which is that of every value
between the bounds. (DEDUCED: log 9.) -/
def sfuRound (t : Ty) (r : Rnd) (pos : Nat) (fn : Fn) (x : Real) : Nat :=
  match sfuValue fn x with
  | .exact y => roundReal t r pos y
  | .between neg lo _ e =>
    roundMag (fmtOf t) r pos neg (4 * lo + 1) (e - 2)

end Sys2Proof.Machine
end

