-- ==== Sys2Proof/Machine/Vector.lean ====
section
/-!
DEFINITION. Vector and mask instructions (spec 14): element-wise arithmetic, comparisons, conversions, expressions,
reductions, lane movement, GQ4 and random numbers. Every source is read before any destination is written (R280).
-/

namespace Sys2Proof.Machine

/-! ## Results of one lane -/

/-- An exact result encoded into a type: rounded once for a float type; wrapped, or clamped under .SAT, for an integer type
(R283, R296). -/
def encodeLane (t : Ty) (r : Rnd) (i : Nat) (x : Real) : Nat :=
  if t.isInt then wrapInt t.width (if r.sat then clampInt t (floorInt x) else floorInt x)
  else roundReal t r (i % 64) x

/-- The smaller value: NaN for a NaN input, −0 below +0 (R284). -/
def minReal (x y : Real) : Real := if x.isNan || y.isNan then .nan else if y.ltZ x then y else x

/-- The larger value (R284). -/
def maxReal (x y : Real) : Real := if x.isNan || y.isNan then .nan else if x.ltZ y then y else x

/-- A value that a type holds exactly, encoded. -/
def encodeExact (t : Ty) (x : Real) : Nat :=
  if t.isInt then wrapInt t.width (floorInt x) else roundReal t rne 0 x

/-- The unsigned and arithmetic shifts of a lane of w bits by n (R284). -/
def laneShl (w x n : Nat) : Nat := if w ≤ n then 0 else x * 2 ^ n % 2 ^ w
def laneShr (w x n : Nat) : Nat := if w ≤ n then 0 else x / 2 ^ n
def laneSar (w x n : Nat) : Nat :=
  let neg := decide (2 ^ (w - 1) ≤ x)
  let k := min n (w - 1)
  if neg then (x + 2 ^ w * (2 ^ k - 1)) / 2 ^ k else x / 2 ^ k

/-! ## Shapes of vector instructions -/

/-- The destination, where a lane mask keeps some of its lanes. (DEDUCED: log 30.) -/
def kept {α : Type} (d : α) (e : Option KReg) : List α := if e.isSome then [d] else []

/-- A lane-wise instruction of one vector source and a vector or broadcast source. -/
def lanewise2 (h : Hdr) (t : Ty) (d a : VReg) (b : VX) (e : Option KReg) (f : Nat → Nat → Nat → Nat) (s : State) :
    Host.Outcome State Fault Refusal :=
  issue infoC h (usesV d (a :: kept d e) b e)
    (fun s => writeLanes d t t.lanes e (fun i => f i (lane (vget s a) t i) (srcLane s b t i)) s) s

/-- A lane-wise instruction of two vector sources and a vector or broadcast source. -/
def lanewise3 (h : Hdr) (t : Ty) (d a : VReg) (b : VX) (c : VReg) (e : Option KReg) (f : Nat → Nat → Nat → Nat → Nat)
    (s : State) : Host.Outcome State Fault Refusal :=
  issue infoC h (usesV d (a :: c :: kept d e) b e)
    (fun s => writeLanes d t t.lanes e
      (fun i => f i (lane (vget s a) t i) (srcLane s b t i) (lane (vget s c) t i)) s) s

/-- A lane-wise instruction of one vector source. -/
def lanewise1 (h : Hdr) (t : Ty) (d a : VReg) (e : Option KReg) (f : Nat → Nat → Nat) (s : State) :
    Host.Outcome State Fault Refusal :=
  issue infoC h { vr := a :: kept d e, vw := [d], kr := optReg e }
    (fun s => writeLanes d t t.lanes e (fun i => f i (lane (vget s a) t i)) s) s

/-! ## Element-wise arithmetic (R283, R284) -/

/-- VADD. -/
def execVadd (h : Hdr) (ty : Ty) (r : Rnd) (d a : VReg) (b : VX) (e : Option KReg) (s : State) :
    Host.Outcome State Fault Refusal :=
  lanewise2 h ty d a b e (fun i x y => encodeLane ty r i (Real.sum [exactOf ty x, exactOf ty y])) s

/-- VSUB. -/
def execVsub (h : Hdr) (ty : Ty) (r : Rnd) (d a : VReg) (b : VX) (e : Option KReg) (s : State) :
    Host.Outcome State Fault Refusal :=
  lanewise2 h ty d a b e (fun i x y => encodeLane ty r i (Real.sum [exactOf ty x, (exactOf ty y).neg])) s

/-- VMUL. -/
def execVmul (h : Hdr) (ty : Ty) (r : Rnd) (d a : VReg) (b : VX) (e : Option KReg) (s : State) :
    Host.Outcome State Fault Refusal :=
  lanewise2 h ty d a b e (fun i x y => encodeLane ty r i (Real.mul (exactOf ty x) (exactOf ty y))) s

/-- VFMA. -/
def execVfma (h : Hdr) (ty : Ty) (r : Rnd) (d a : VReg) (b : VX) (c : VReg) (e : Option KReg) (s : State) :
    Host.Outcome State Fault Refusal :=
  lanewise3 h ty d a b c e (fun i x y z =>
    encodeLane ty r i (Real.sum [Real.mul (exactOf ty x) (exactOf ty y), exactOf ty z])) s

/-- VFMS. -/
def execVfms (h : Hdr) (ty : Ty) (r : Rnd) (d a : VReg) (b : VX) (c : VReg) (e : Option KReg) (s : State) :
    Host.Outcome State Fault Refusal :=
  lanewise3 h ty d a b c e (fun i x y z =>
    encodeLane ty r i (Real.sum [Real.mul (exactOf ty x) (exactOf ty y), (exactOf ty z).neg])) s

/-- VFNMA. -/
def execVfnma (h : Hdr) (ty : Ty) (r : Rnd) (d a : VReg) (b : VX) (c : VReg) (e : Option KReg) (s : State) :
    Host.Outcome State Fault Refusal :=
  lanewise3 h ty d a b c e (fun i x y z =>
    encodeLane ty r i (Real.sum [exactOf ty z, (Real.mul (exactOf ty x) (exactOf ty y)).neg])) s

/-- VMIN. -/
def execVmin (h : Hdr) (ty : Ty) (d a : VReg) (b : VX) (e : Option KReg) (s : State) : Host.Outcome State Fault Refusal :=
  lanewise2 h ty d a b e (fun _ x y => encodeExact ty (minReal (exactOf ty x) (exactOf ty y))) s

/-- VMAX. -/
def execVmax (h : Hdr) (ty : Ty) (d a : VReg) (b : VX) (e : Option KReg) (s : State) : Host.Outcome State Fault Refusal :=
  lanewise2 h ty d a b e (fun _ x y => encodeExact ty (maxReal (exactOf ty x) (exactOf ty y))) s

/-- VABS. -/
def execVabs (h : Hdr) (ty : Ty) (sat : Bool) (d a : VReg) (e : Option KReg) (s : State) :
    Host.Outcome State Fault Refusal :=
  lanewise1 h ty d a e (fun i x => encodeLane ty ⟨.rn, sat⟩ i (exactOf ty x).abs) s

/-- VNEG. -/
def execVneg (h : Hdr) (ty : Ty) (sat : Bool) (d a : VReg) (e : Option KReg) (s : State) :
    Host.Outcome State Fault Refusal :=
  lanewise1 h ty d a e (fun i x => encodeLane ty ⟨.rn, sat⟩ i (exactOf ty x).neg) s

/-- VCPYS: the magnitude of a with the sign bit of b. -/
def copySign (t : Ty) (x y : Nat) : Nat :=
  if (exactOf t x).isNan then (fmtOf t).canon
  else x % 2 ^ (t.width - 1) + y / 2 ^ (t.width - 1) * 2 ^ (t.width - 1)

/-- VCPYS. -/
def execVcpys (h : Hdr) (ty : Ty) (d a : VReg) (b : VX) (e : Option KReg) (s : State) : Host.Outcome State Fault Refusal :=
  lanewise2 h ty d a b e (fun _ x y => copySign ty x y) s

/-- VAND. -/
def execVand (h : Hdr) (ty : Ty) (d a : VReg) (b : VX) (e : Option KReg) (s : State) : Host.Outcome State Fault Refusal :=
  lanewise2 h ty d a b e (fun _ x y => x &&& y) s

/-- VOR. -/
def execVor (h : Hdr) (ty : Ty) (d a : VReg) (b : VX) (e : Option KReg) (s : State) : Host.Outcome State Fault Refusal :=
  lanewise2 h ty d a b e (fun _ x y => x ||| y) s

/-- VXOR. -/
def execVxor (h : Hdr) (ty : Ty) (d a : VReg) (b : VX) (e : Option KReg) (s : State) : Host.Outcome State Fault Refusal :=
  lanewise2 h ty d a b e (fun _ x y => x ^^^ y) s

/-- VNOT. -/
def execVnot (h : Hdr) (ty : Ty) (d a : VReg) (e : Option KReg) (s : State) : Host.Outcome State Fault Refusal :=
  lanewise1 h ty d a e (fun _ x => x ^^^ (2 ^ ty.width - 1)) s

/-- VSHL. -/
def execVshl (h : Hdr) (ty : Ty) (d a : VReg) (b : VX) (e : Option KReg) (s : State) : Host.Outcome State Fault Refusal :=
  lanewise2 h ty d a b e (fun _ x y => laneShl ty.width x y) s

/-- VSHR. -/
def execVshr (h : Hdr) (ty : Ty) (d a : VReg) (b : VX) (e : Option KReg) (s : State) : Host.Outcome State Fault Refusal :=
  lanewise2 h ty d a b e (fun _ x y => laneShr ty.width x y) s

/-- VSAR. -/
def execVsar (h : Hdr) (ty : Ty) (d a : VReg) (b : VX) (e : Option KReg) (s : State) : Host.Outcome State Fault Refusal :=
  lanewise2 h ty d a b e (fun _ x y => laneSar ty.width x y) s

/-! ## Compare, select, classify (R285 to R287) -/

/-- The condition of VCMP on two lanes. -/
def vcmpBit (t : Ty) (c : Cond) (x y : Nat) : Bool :=
  if t.isInt then condLane t c x y else condReal c (exactOf t x) (exactOf t y)

/-- VCMP: bits of unselected lanes keep their values, bits at or above L(ty) are 0. -/
def execVcmp (h : Hdr) (ty : Ty) (cond : Cond) (d : KReg) (a : VReg) (b : VX) (e : Option KReg) (s : State) :
    Host.Outcome State Fault Refusal :=
  issue infoC h { vr := a :: vxV b, xr := vxX b, kr := kept d e ++ optReg e, kw := [d] } (fun s =>
    .done (kset s d (maskOfBits ty.lanes (fun i =>
      if selLane s e i then vcmpBit ty cond (lane (vget s a) ty i) (srcLane s b ty i) else (kget s d).getLsbD i)))) s

/-- VSEL. -/
def execVsel (h : Hdr) (ty : Ty) (d a b : VReg) (c : KReg) (s : State) : Host.Outcome State Fault Refusal :=
  issue infoC h { vr := [a, b], kr := [c], vw := [d] } (fun s =>
    writeLanes d ty ty.lanes none (fun i => if (kget s c).getLsbD i then lane (vget s a) ty i else lane (vget s b) ty i) s) s

/-- VCLASS. -/
def execVclass (h : Hdr) (ty : Ty) (d : KReg) (a : VReg) (imm : BitVec 9) (s : State) : Host.Outcome State Fault Refusal :=
  issue infoC h { vr := [a], kw := [d] } (fun s =>
    .done (kset s d (maskOfBits ty.lanes (fun i => imm.getLsbD (classOf ty (lane (vget s a) ty i)))))) s

/-! ## Conversion (R288 to R290) -/

/-- VCVT. -/
def execVcvt (h : Hdr) (ty src : Ty) (r : Rnd) (d a : VReg) (e : Option KReg) (s : State) :
    Host.Outcome State Fault Refusal :=
  issue infoC h { vr := a :: (if ty.lanes ≤ src.lanes then kept d e else [d]), vw := [d], kr := optReg e } (fun s =>
    writeLanes d ty (min ty.lanes src.lanes) e (fun i => roundTo ty r (i % 64) (exactOf src (lane (vget s a) src i))) s) s

/-- The factor of a widening instruction. -/
def widenBy (q : Bool) : Nat := if q then 4 else 2

/-- The wide type of a widening instruction (Table 14.3). -/
def wideOf (t : Ty) (q : Bool) : Ty := (t.widen q).getD .i32

/-- The registers from a first one on. -/
def regsFrom (d : VReg) (k : Nat) : List VReg := (List.range k).map (fun j => d + BitVec.ofNat 4 j)

/-- The effect of a widening instruction: lane ki + j of the sources goes to lane i of v(d + j). -/
def widenRes (t : Ty) (q : Bool) (d a : VReg) (b : VX) (f : Real → Real → Real → Real) (s : State) : Res :=
  let k := widenBy q
  let w := wideOf t q
  .done ((List.range k).foldl (fun st j =>
    let dj := d + BitVec.ofNat 4 j
    vset st dj (ofLanes w.width ((List.range (t.lanes / k)).map (fun i =>
      encodeLane w rne i (f (exactOf t (lane (vget s a) t (k * i + j))) (exactOf t (srcLane s b t (k * i + j)))
        (exactOf w (lane (vget s dj) w i))))))) s)

/-- VWADD. -/
def execVwadd (h : Hdr) (ty : Ty) (q : Bool) (d a : VReg) (b : VX) (s : State) : Host.Outcome State Fault Refusal :=
  issue infoC h { vr := a :: vxV b, xr := vxX b, vw := regsFrom d (widenBy q) }
    (widenRes ty q d a b (fun x y _ => Real.sum [x, y])) s

/-- VWMUL. -/
def execVwmul (h : Hdr) (ty : Ty) (q : Bool) (d a : VReg) (b : VX) (s : State) : Host.Outcome State Fault Refusal :=
  issue infoC h { vr := a :: vxV b, xr := vxX b, vw := regsFrom d (widenBy q) }
    (widenRes ty q d a b (fun x y _ => Real.mul x y)) s

/-- VWFMA. -/
def execVwfma (h : Hdr) (ty : Ty) (q : Bool) (d a : VReg) (b : VX) (s : State) : Host.Outcome State Fault Refusal :=
  issue infoC h { vr := a :: vxV b ++ regsFrom d (widenBy q), xr := vxX b, vw := regsFrom d (widenBy q) }
    (widenRes ty q d a b (fun x y w => Real.sum [Real.mul x y, w])) s

/-- VNRW: lane ki + j of d comes from lane i of v(a + j). -/
def execVnrw (h : Hdr) (ty src : Ty) (r : Rnd) (d a : VReg) (s : State) : Host.Outcome State Fault Refusal :=
  let k := src.width / ty.width
  issue infoC h { vr := regsFrom a k, vw := [d] } (fun s =>
    writeLanes d ty ty.lanes none (fun n =>
      roundTo ty r (n % 64) (exactOf src (lane (vget s (a + BitVec.ofNat 4 (n % k))) src (n / k)))) s) s

/-! ## Expressions and special functions (R291 to R293) -/

/-- An entry of a lane's stack: its value, and its bit pattern where it is already rounded to the result type. -/
structure StackEnt where
  val : Real
  enc : Option Nat
  deriving DecidableEq, Repr

/-- Is the token arithmetic (Table 14.4)? -/
def tokenArith (t : Nat) : Bool := decide (8 ≤ t)

/-- The exact result of an arithmetic token on its operands, top of the stack first, with the special functions apart. -/
def tokenValue (t : Nat) (top : List StackEnt) : Option Real :=
  match t, top with
  | 8, y :: x :: _ => some (Real.sum [x.val, y.val])
  | 9, y :: x :: _ => some (Real.sum [x.val, y.val.neg])
  | 10, y :: x :: _ => some (Real.mul x.val y.val)
  | 11, y :: x :: _ => some (minReal x.val y.val)
  | 12, y :: x :: _ => some (maxReal x.val y.val)
  | 13, z :: y :: x :: _ => some (Real.sum [Real.mul x.val y.val, z.val])
  | 14, x :: _ => some x.val.neg
  | 15, x :: _ => some x.val.abs
  | _, _ => none

/-- The entry that an arithmetic token leaves: rounded to F32 under RN, or by the last arithmetic token to ty under md. -/
def tokenResult (ty : Ty) (r : Rnd) (i t : Nat) (last : Bool) (st : List StackEnt) : StackEnt :=
  let enc (t2 : Ty) (r2 : Rnd) (pos : Nat) : Nat :=
    match tokenValue t st with
    | some v => roundReal t2 r2 pos v
    | none => sfuRound t2 r2 pos (fnOfNumber (t - 16)) ((st.headD ⟨.nan, none⟩).val)
  if last then
    let n := enc ty r (i % 64)
    ⟨exactOf ty n, some n⟩
  else ⟨exactOf .f32 (enc .f32 rne 0), none⟩

/-- Entries that an arithmetic token takes. -/
def tokenTakes (t : Nat) : Nat := if t = 13 then 3 else if 8 ≤ t ∧ t ≤ 12 then 2 else 1

/-- A lane's stack after the tokens of an expression (R291), top first. -/
def evalTokens (ty : Ty) (r : Rnd) (i : Nat) (ins : Nat → Real) : List Nat → List StackEnt → List StackEnt
  | [], st => st
  | t :: ts, st =>
    let st' :=
      if 1 ≤ t ∧ t ≤ 4 then ⟨ins (t - 1), none⟩ :: st
      else if t = 5 then (match st with | x :: r => x :: x :: r | [] => [])
      else if t = 6 then (match st with | y :: x :: r => x :: y :: r | r => r)
      else tokenResult ty r i t (!ts.any tokenArith) st :: st.drop (tokenTakes t)
    evalTokens ty r i ins ts st'

/-- The bit pattern of an entry at the end (R291). -/
def entryBits (ty : Ty) (r : Rnd) (i : Nat) (x : StackEnt) : Nat :=
  match x.enc with
  | some n => n
  | none => roundReal ty r (i % 64) x.val

/-- The stack of lane i of a VEXPR. -/
def vexprLane (ty : Ty) (r : Rnd) (srcs : List (Option VReg)) (lit : Word) (s : State) (i : Nat) : List StackEnt :=
  evalTokens ty r i (fun k =>
    match srcs.getD k none with
    | some v => exactOf ty (lane (vget s v) ty i)
    | none => .nan) (vexprBody (vexprTokens lit)).1 []

/-- The effect of VEXPR: one entry goes to d; of two, the lower goes to d and the top to v(d + 1). -/
def vexprRes (ty : Ty) (r : Rnd) (d : VReg) (srcs : List (Option VReg)) (lit : Word) (s : State) : Res :=
  let bothStacks := (List.range ty.lanes).map (vexprLane ty r srcs lit s)
  let bits (i : Nat) (x : Option StackEnt) : Nat := entryBits ty r i (x.getD ⟨.nan, none⟩)
  let col (f : List StackEnt → Option StackEnt) : VecVal :=
    ofLanes ty.width (((List.range ty.lanes).zip bothStacks).map (fun p => bits p.1 (f p.2)))
  if (vexprScan lit).depth = 2 then .done (vset (vset s d (col (fun l => l[1]?))) (d + 1) (col (fun l => l[0]?)))
  else .done (vset s d (col (fun l => l[0]?)))

/-- VEXPR: two words, one instruction (R199). -/
def execVexpr (h : Hdr) (ty : Ty) (r : Rnd) (d : VReg) (a b c e : Option VReg) (lit : Word) (s : State) :
    Host.Outcome State Fault Refusal :=
  issue { infoC with words := 2 } h
    { vr := optReg a ++ optReg b ++ optReg c ++ optReg e, vw := if (vexprScan lit).depth = 2 then [d, d + 1] else [d] }
    (vexprRes ty r d [a, b, c, e] lit) s

/-- VSFU. -/
def execVsfu (h : Hdr) (ty : Ty) (r : Rnd) (fn : Fn) (d a : VReg) (e : Option KReg) (s : State) :
    Host.Outcome State Fault Refusal :=
  lanewise1 h ty d a e (fun i x => sfuRound ty r (i % 64) fn (exactOf ty x)) s

/-! ## Reductions and scans (R294 to R297) -/

/-- A register with lane 0 written. -/
def setLane0 (v : VecVal) (z x : Nat) : VecVal := updLanes v z 1 (fun _ => some x)

/-- The values of the selected lanes of a register. -/
def selectedReals (s : State) (a : VReg) (t : Ty) (e : Option KReg) : List Real :=
  ((List.range t.lanes).filter (selLane s e)).map (fun i => exactOf t (lane (vget s a) t i))

/-- VRSUM. (DEDUCED: log 17.) -/
def execVrsum (h : Hdr) (ty src : Ty) (r : Rnd) (d a : VReg) (c : Option VReg) (e : Option KReg) (s : State) :
    Host.Outcome State Fault Refusal :=
  issue infoC h { vr := a :: d :: optReg c, vw := [d], kr := optReg e } (fun s =>
    let first := match c with
      | some v => [exactOf ty (lane (vget s v) ty 0)]
      | none => []
    .done (vset s d (setLane0 (vget s d) ty.width (encodeLane ty r 0 (Real.sum (first ++ selectedReals s a src e)))))) s

/-- The result of VRMAX or VRMIN (R295). -/
def extremeOf (t : Ty) (big : Bool) (xs : List Real) : Nat :=
  match xs with
  | [] =>
    if t.isInt then wrapInt t.width (if big then (intRange t).1 else (intRange t).2) else roundReal t rne 0 (.inf big)
  | x :: xs => encodeExact t (xs.foldl (if big then maxReal else minReal) x)

/-- VRMAX. -/
def execVrmax (h : Hdr) (ty : Ty) (d a : VReg) (e : Option KReg) (s : State) : Host.Outcome State Fault Refusal :=
  issue infoC h { vr := [a, d], vw := [d], kr := optReg e } (fun s =>
    .done (vset s d (setLane0 (vget s d) ty.width (extremeOf ty true (selectedReals s a ty e))))) s

/-- VRMIN. -/
def execVrmin (h : Hdr) (ty : Ty) (d a : VReg) (e : Option KReg) (s : State) : Host.Outcome State Fault Refusal :=
  issue infoC h { vr := [a, d], vw := [d], kr := optReg e } (fun s =>
    .done (vset s d (setLane0 (vget s d) ty.width (extremeOf ty false (selectedReals s a ty e))))) s

/-- The lanes of an inclusive scan: each selected lane takes the encoding of its exact prefix sum, the others none. -/
def scanLanes (sel : Nat → Bool) (val : Nat → Real) (enc : Nat → Real → Nat) : List Nat → Option Real → List (Option Nat)
  | [], _ => []
  | i :: is, acc =>
    if sel i then
      let x := match acc with
        | some a => Real.sum [a, val i]
        | none => val i
      some (enc i x) :: scanLanes sel val enc is (some x)
    else none :: scanLanes sel val enc is acc

/-- VSCAN. -/
def execVscan (h : Hdr) (ty : Ty) (r : Rnd) (d a : VReg) (e : Option KReg) (s : State) : Host.Outcome State Fault Refusal :=
  issue infoC h { vr := a :: kept d e, vw := [d], kr := optReg e } (fun s =>
    let ls := scanLanes (selLane s e) (fun i => exactOf ty (lane (vget s a) ty i)) (encodeLane ty r)
      (List.range ty.lanes) none
    .done (vset s d (updLanes (vget s d) ty.width ty.lanes (fun i => ls.getD i none)))) s

/-- VDOT4: the type of the 32-bit lanes of d and c. -/
def dotType (t : Ty) : Ty := if t.isInt then .i32 else .f32

/-- VDOT4. -/
def execVdot4 (h : Hdr) (ty : Ty) (r : Rnd) (d a b : VReg) (c : Option VReg) (s : State) :
    Host.Outcome State Fault Refusal :=
  issue infoC h { vr := a :: b :: optReg c, vw := [d] } (fun s =>
    let w := dotType ty
    writeLanes d w w.lanes none (fun i =>
      let first := match c with
        | some v => [exactOf w (lane (vget s v) w i)]
        | none => []
      encodeLane w r i (Real.sum (first ++ (List.range 4).map (fun j =>
        Real.mul (exactOf ty (lane (vget s a) ty (4 * i + j))) (exactOf ty (lane (vget s b) ty (4 * i + j))))))) s) s

/-! ## Moving lanes (R298) -/

/-- VPERM. -/
def execVperm (h : Hdr) (ty : Ty) (d a b : VReg) (s : State) : Host.Outcome State Fault Refusal :=
  issue infoC h { vr := [a, b], vw := [d] } (fun s =>
    writeLanes d ty ty.lanes none (fun i => lane (vget s a) ty (lane (vget s b) ty i % ty.lanes)) s) s

/-- Lane i of the result of a shuffle (Table 14.5). -/
def shufLane (s : State) (t : Ty) (op : Shuf) (a : VReg) (i : Nat) : Nat :=
  let n := t.lanes
  let la (j : Nat) : Nat := lane (vget s a) t j
  match op with
  | .zlo b => if i % 2 = 0 then la (i / 2) else lane (vget s b) t (i / 2)
  | .zhi b => if i % 2 = 0 then la (n / 2 + i / 2) else lane (vget s b) t (n / 2 + i / 2)
  | .evn b => if i < n / 2 then la (2 * i) else lane (vget s b) t (2 * (i - n / 2))
  | .odd b => if i < n / 2 then la (2 * i + 1) else lane (vget s b) t (2 * (i - n / 2) + 1)
  | .rev => la (n - 1 - i)
  | .rot b => la ((i + (xget s b).toNat) % n)

/-- The registers that a shuffle reads beside a. -/
def shufUses (op : Shuf) : List VReg × List XReg :=
  match op with
  | .zlo b => ([b], [])
  | .zhi b => ([b], [])
  | .evn b => ([b], [])
  | .odd b => ([b], [])
  | .rev => ([], [])
  | .rot b => ([], [b])

/-- VSHUF. -/
def execVshuf (h : Hdr) (ty : Ty) (op : Shuf) (d a : VReg) (s : State) : Host.Outcome State Fault Refusal :=
  issue infoC h { vr := a :: (shufUses op).1, xr := (shufUses op).2, vw := [d] } (fun s =>
    writeLanes d ty ty.lanes none (shufLane s ty op a) s) s

/-- VSPLAT. -/
def execVsplat (h : Hdr) (ty : Ty) (d : VReg) (a : XReg) (e : Option KReg) (s : State) : Host.Outcome State Fault Refusal :=
  issue infoC h { xr := [a], vr := kept d e, vw := [d], kr := optReg e } (fun s =>
    writeLanes d ty ty.lanes e (fun _ => (xget s a).toNat % 2 ^ ty.width) s) s

/-- VIOTA. -/
def execViota (h : Hdr) (ty : Ty) (d : VReg) (a : XReg) (e : Option KReg) (s : State) : Host.Outcome State Fault Refusal :=
  issue infoC h { xr := [a], vr := kept d e, vw := [d], kr := optReg e } (fun s =>
    writeLanes d ty ty.lanes e (fun i => ((xget s a).toNat + i) % 2 ^ ty.width) s) s

/-- A lane as VEXTR writes it: sign-extended for I4, I8, I16 and I32. -/
def extendLane (t : Ty) (x : Nat) : Word := BitVec.ofInt 64 (if t.isSigned then intOf t x else (x : Int))

/-- VEXTR. -/
def execVextr (h : Hdr) (ty : Ty) (d : XReg) (a : VReg) (b : XReg) (s : State) : Host.Outcome State Fault Refusal :=
  issue infoC h { xr := [b], vr := [a], xw := [d] } (fun s =>
    writeX d (extendLane ty (lane (vget s a) ty ((xget s b).toNat % ty.lanes))) s) s

/-- VINSR. -/
def execVinsr (h : Hdr) (ty : Ty) (d : VReg) (a b : XReg) (s : State) : Host.Outcome State Fault Refusal :=
  issue infoC h { xr := [a, b], vr := [d], vw := [d] } (fun s =>
    let k := (xget s b).toNat % ty.lanes
    .done (vset s d (updLanes (vget s d) ty.width ty.lanes (fun i =>
      if i = k then some ((xget s a).toNat % 2 ^ ty.width) else none)))) s

/-- VMOV. -/
def execVmov (h : Hdr) (ty : Ty) (d a : VReg) (e : Option KReg) (s : State) : Host.Outcome State Fault Refusal :=
  lanewise1 h ty d a e (fun _ x => x) s

/-- VCPRS. -/
def execVcprs (h : Hdr) (ty : Ty) (d a : VReg) (b : KReg) (s : State) : Host.Outcome State Fault Refusal :=
  issue infoC h { vr := [a], kr := [b], vw := [d] } (fun s =>
    let ls := ((List.range ty.lanes).filter (fun i => (kget s b).getLsbD i)).map (fun i => lane (vget s a) ty i)
    .done (vset s d (ofLanes ty.width ls))) s

/-- The lanes of VEXPD: each marked lane takes the next of the source. -/
def expandLanes (mark : Nat → Bool) (src : Nat → Nat) : List Nat → Nat → List Nat
  | [], _ => []
  | i :: is, k => if mark i then src k :: expandLanes mark src is (k + 1) else 0 :: expandLanes mark src is k

/-- VEXPD. -/
def execVexpd (h : Hdr) (ty : Ty) (d a : VReg) (b : KReg) (s : State) : Host.Outcome State Fault Refusal :=
  issue infoC h { vr := [a], kr := [b], vw := [d] } (fun s =>
    .done (vset s d (ofLanes ty.width
      (expandLanes (fun i => (kget s b).getLsbD i) (fun k => lane (vget s a) ty k) (List.range ty.lanes) 0)))) s

/-! ## Mask registers (R299) -/

/-- KLOG. -/
def execKlog (h : Hdr) (d a b c : KReg) (tt : BitVec 8) (s : State) : Host.Outcome State Fault Refusal :=
  issue infoC h { kr := [a, b, c], kw := [d] } (fun s =>
    .done (kset s d (maskOfBits 1024 (fun n =>
      truth tt ((kget s a).getLsbD n) ((kget s b).getLsbD n) ((kget s c).getLsbD n))))) s

/-- Set bits of a mask. -/
def maskCount (m : MaskVal) : Nat := ((List.range 1024).filter (fun i => m.getLsbD i)).length

/-- Index of the lowest set bit of a mask, 1024 for none. -/
def maskFirst (m : MaskVal) : Nat := ((List.range 1024).find? (fun i => m.getLsbD i)).getD 1024

/-- KPOP. -/
def execKpop (h : Hdr) (d : XReg) (a : KReg) (s : State) : Host.Outcome State Fault Refusal :=
  issue infoC h { kr := [a], xw := [d] } (fun s => writeX d (BitVec.ofNat 64 (maskCount (kget s a))) s) s

/-- KFIRST. -/
def execKfirst (h : Hdr) (d : XReg) (a : KReg) (s : State) : Host.Outcome State Fault Refusal :=
  issue infoC h { kr := [a], xw := [d] } (fun s => writeX d (BitVec.ofNat 64 (maskFirst (kget s a))) s) s

/-! ## GQ4 (R300, R301) -/

/-- S of a scale operand. -/
def superScale (x : Word) : Real := decodeReal .f32 (x.toNat % 2 ^ 32)

/-- s_q of a scale operand. -/
def blockScale (x : Word) (q : Nat) : Nat := x.toNat / 2 ^ (32 + 8 * q) % 256

/-- Code index of lane i of the codes that an operand j0 selects. -/
def codeIndex (c : Word) (i : Nat) : Nat := (64 * (c.toNat % 16) + i) % 1024

/-- VGQD. -/
def execVgqd (h : Hdr) (ty : Ty) (r : Rnd) (d a : VReg) (b c : XReg) (e : Option KReg) (s : State) :
    Host.Outcome State Fault Refusal :=
  issue infoC h { xr := [b, c], vr := a :: kept d e, vw := [d], kr := optReg e } (fun s =>
    writeLanes d ty ty.lanes e (fun i =>
      roundReal ty r (i % 64) (gqDecode (superScale (xget s b)) (blockScale (xget s b) (i / 64))
        (laneBits (vget s a) 4 (codeIndex (xget s c) i)))) s) s

/-- ⌈256 × x / S⌉ of finite magnitudes. -/
def ceil256 (x sup : Real) : Nat :=
  match x, sup with
  | .fin _ m e, .fin _ n f =>
    let q := min e f
    let num := (256 * m) <<< (e - q).toNat
    let den := n <<< (f - q).toNat
    (num + den - 1) / den
  | _, _ => 0

/-- The block scale that .FIT picks for the values of a block (R301). -/
def fitScale (sup : Real) (xs : List Real) : Nat :=
  let good := match sup with
    | .fin neg m _ => !neg && m != 0
    | _ => false
  if !good then 0
  else
    let mags := (xs.filter (fun x => !x.isNan)).map Real.abs
    if mags.any Real.isInf then 255
    else min 255 (ceil256 (mags.foldl maxReal Real.zero) sup - 1)

/-- The scales of a VGQE, one a block of 64 lanes. -/
def gqeScales (s : State) (ty : Ty) (op : GqeOp) (a : VReg) (b : XReg) : List Nat :=
  (List.range (ty.lanes / 64)).map (fun q =>
    match op with
    | .given => blockScale (xget s b) q
    | .fit _ => fitScale (superScale (xget s b))
        ((List.range 64).map (fun k => exactOf ty (lane (vget s a) ty (64 * q + k)))))

/-- The register of code values after a VGQE. -/
def gqeCodes (s : State) (ty : Ty) (scales : List Nat) (d a : VReg) (b c : XReg) : VecVal :=
  let j0 := (xget s c).toNat % 16
  updLanes (vget s d) 4 1024 (fun n =>
    let i := (n + 1024 - 64 * j0) % 1024
    if i < ty.lanes then
      some (gqEncode (superScale (xget s b)) (scales.getD (i / 64) 0) (exactOf ty (lane (vget s a) ty i)))
    else none)

/-- The scale operand that .FIT answers. -/
def packScales (b : Word) (scales : List Nat) : Word :=
  BitVec.ofNat 64 (b.toNat % 2 ^ 32 + 2 ^ 32 * (scales.foldr (fun x acc => x % 256 + 256 * acc) 0))

/-- VGQE. -/
def execVgqe (h : Hdr) (ty : Ty) (op : GqeOp) (d a : VReg) (b c : XReg) (s : State) : Host.Outcome State Fault Refusal :=
  let out : List XReg := match op with
    | .given => []
    | .fit e => optReg e
  issue infoC h { xr := [b, c], xw := out, vr := [a, d], vw := [d] } (fun s =>
    let sc := gqeScales s ty op a b
    let s1 := vset s d (gqeCodes s ty sc d a b c)
    .done (out.foldl (fun st e => xset st e (packScales (xget s b) sc)) s1)) s

/-! ## Random numbers (R302) -/

/-- The value drawn for a counter under a key, as the type's bit pattern. -/
def drawLane (t : Ty) (ctr key : Word) (i : Nat) : Nat :=
  let r := rng (BitVec.ofNat 32 (ctr.toNat + i)) (key.setWidth 32) (key.extractLsb' 32 32)
  if t.isInt then r.toNat else roundReal .f32 rne 0 (.fin false (r.toNat / 256) (-24))

/-- VRNG. -/
def execVrng (h : Hdr) (ty : Ty) (d : VReg) (a b : XReg) (e : Option KReg) (s : State) : Host.Outcome State Fault Refusal :=
  issue infoC h { xr := [a, b], vr := kept d e, vw := [d], kr := optReg e } (fun s =>
    writeLanes d ty ty.lanes e (drawLane ty (xget s a) (xget s b)) s) s

end Sys2Proof.Machine
end

