-- ==== Sys2Proof/Machine/Dispatch.lean ====
section
/-!
DEFINITION. The meaning of every instruction and device step: one arm per constructor of `Instr`, one direct call each.
-/

namespace Sys2Proof.Machine

/-- The effect of an instruction issued by the focused thread, or of a device step. -/
def exec (i : Instr) (s : State) : Host.Outcome State Fault Refusal :=
  match i with
  -- Instructions of the 64-bit word (rows 0 to 184).
  | .add h d a b => Sys2Proof.Machine.execAdd h d a b s
  | .sub h d a b => Sys2Proof.Machine.execSub h d a b s
  | .mul h d a b => Sys2Proof.Machine.execMul h d a b s
  | .mulh h d a b => Sys2Proof.Machine.execMulh h d a b s
  | .mulhu h d a b => Sys2Proof.Machine.execMulhu h d a b s
  | .div h d a b => Sys2Proof.Machine.execDiv h d a b s
  | .divu h d a b => Sys2Proof.Machine.execDivu h d a b s
  | .rem h d a b => Sys2Proof.Machine.execRem h d a b s
  | .remu h d a b => Sys2Proof.Machine.execRemu h d a b s
  | .and h d a b => Sys2Proof.Machine.execAnd h d a b s
  | .or h d a b => Sys2Proof.Machine.execOr h d a b s
  | .xor h d a b => Sys2Proof.Machine.execXor h d a b s
  | .andn h d a b => Sys2Proof.Machine.execAndn h d a b s
  | .shl h d a b => Sys2Proof.Machine.execShl h d a b s
  | .shr h d a b => Sys2Proof.Machine.execShr h d a b s
  | .sar h d a b => Sys2Proof.Machine.execSar h d a b s
  | .rotr h d a b => Sys2Proof.Machine.execRotr h d a b s
  | .min h d a b => Sys2Proof.Machine.execMin h d a b s
  | .max h d a b => Sys2Proof.Machine.execMax h d a b s
  | .minu h d a b => Sys2Proof.Machine.execMinu h d a b s
  | .maxu h d a b => Sys2Proof.Machine.execMaxu h d a b s
  | .clz h d a => Sys2Proof.Machine.execClz h d a s
  | .ctz h d a => Sys2Proof.Machine.execCtz h d a s
  | .popc h d a => Sys2Proof.Machine.execPopc h d a s
  | .brev h d a => Sys2Proof.Machine.execBrev h d a s
  | .bfx h signed d a b c => Sys2Proof.Machine.execBfx h signed d a b c s
  | .bfi h d a b c e => Sys2Proof.Machine.execBfi h d a b c e s
  | .sel h d a b c => Sys2Proof.Machine.execSel h d a b c s
  | .lea h sc d a b => Sys2Proof.Machine.execLea h sc d a b s
  | .cmp h cond d a b => Sys2Proof.Machine.execCmp h cond d a b s
  | .mov h d a => Sys2Proof.Machine.execMov h d a s
  | .addi h d a imm => Sys2Proof.Machine.execAddi h d a imm s
  | .muli h d a imm => Sys2Proof.Machine.execMuli h d a imm s
  | .andi h d a imm => Sys2Proof.Machine.execAndi h d a imm s
  | .ori h d a imm => Sys2Proof.Machine.execOri h d a imm s
  | .xori h d a imm => Sys2Proof.Machine.execXori h d a imm s
  | .shli h d a n => Sys2Proof.Machine.execShli h d a n s
  | .shri h d a n => Sys2Proof.Machine.execShri h d a n s
  | .sari h d a n => Sys2Proof.Machine.execSari h d a n s
  | .rotri h d a n => Sys2Proof.Machine.execRotri h d a n s
  | .mini h d a imm => Sys2Proof.Machine.execMini h d a imm s
  | .maxi h d a imm => Sys2Proof.Machine.execMaxi h d a imm s
  | .minui h d a imm => Sys2Proof.Machine.execMinui h d a imm s
  | .maxui h d a imm => Sys2Proof.Machine.execMaxui h d a imm s
  | .cmpi h cond d a imm => Sys2Proof.Machine.execCmpi h cond d a imm s
  | .li h d imm => Sys2Proof.Machine.execLi h d imm s
  | .liw h d lit => Sys2Proof.Machine.execLiw h d lit s
  | .plog h d a b c tt => Sys2Proof.Machine.execPlog h d a b c tt s
  | .pset h vals en => Sys2Proof.Machine.execPset h vals en s
  | .br h imm => Sys2Proof.Machine.execBr h imm s
  | .brx h a => Sys2Proof.Machine.execBrx h a s
  | .call h d imm => Sys2Proof.Machine.execCall h d imm s
  | .callx h d a => Sys2Proof.Machine.execCallx h d a s
  | .ret h a => Sys2Proof.Machine.execRet h a s
  | .loop h d imm => Sys2Proof.Machine.execLoop h d imm s
  | .endTask h => Sys2Proof.Machine.execEndTask h s
  | .nop h => Sys2Proof.Machine.execNop h s
  | .fuse h mask => Sys2Proof.Machine.execFuse h mask s
  | .split h => Sys2Proof.Machine.execSplit h s
  | .sleep h d a => Sys2Proof.Machine.execSleep h d a s
  | .trap h imm => Sys2Proof.Machine.execTrap h imm s
  | .tret h => Sys2Proof.Machine.execTret h s
  | .srd h d sr => Sys2Proof.Machine.execSrd h d sr s
  | .swr h a sr => Sys2Proof.Machine.execSwr h a sr s
  | .sxch h d a sr => Sys2Proof.Machine.execSxch h d a sr s
  | .bkpt h imm => Sys2Proof.Machine.execBkpt h imm s
  | .time h d => Sys2Proof.Machine.execTime h d s
  | .cyc h d => Sys2Proof.Machine.execCyc h d s
  | .vadd h ty r d a b e => Sys2Proof.Machine.execVadd h ty r d a b e s
  | .vsub h ty r d a b e => Sys2Proof.Machine.execVsub h ty r d a b e s
  | .vmul h ty r d a b e => Sys2Proof.Machine.execVmul h ty r d a b e s
  | .vfma h ty r d a b c e => Sys2Proof.Machine.execVfma h ty r d a b c e s
  | .vfms h ty r d a b c e => Sys2Proof.Machine.execVfms h ty r d a b c e s
  | .vfnma h ty r d a b c e => Sys2Proof.Machine.execVfnma h ty r d a b c e s
  | .vmin h ty d a b e => Sys2Proof.Machine.execVmin h ty d a b e s
  | .vmax h ty d a b e => Sys2Proof.Machine.execVmax h ty d a b e s
  | .vabs h ty sat d a e => Sys2Proof.Machine.execVabs h ty sat d a e s
  | .vneg h ty sat d a e => Sys2Proof.Machine.execVneg h ty sat d a e s
  | .vcpys h ty d a b e => Sys2Proof.Machine.execVcpys h ty d a b e s
  | .vand h ty d a b e => Sys2Proof.Machine.execVand h ty d a b e s
  | .vor h ty d a b e => Sys2Proof.Machine.execVor h ty d a b e s
  | .vxor h ty d a b e => Sys2Proof.Machine.execVxor h ty d a b e s
  | .vnot h ty d a e => Sys2Proof.Machine.execVnot h ty d a e s
  | .vshl h ty d a b e => Sys2Proof.Machine.execVshl h ty d a b e s
  | .vshr h ty d a b e => Sys2Proof.Machine.execVshr h ty d a b e s
  | .vsar h ty d a b e => Sys2Proof.Machine.execVsar h ty d a b e s
  | .vcmp h ty cond d a b e => Sys2Proof.Machine.execVcmp h ty cond d a b e s
  | .vsel h ty d a b c => Sys2Proof.Machine.execVsel h ty d a b c s
  | .vcvt h ty src r d a e => Sys2Proof.Machine.execVcvt h ty src r d a e s
  | .vwadd h ty q d a b => Sys2Proof.Machine.execVwadd h ty q d a b s
  | .vwmul h ty q d a b => Sys2Proof.Machine.execVwmul h ty q d a b s
  | .vwfma h ty q d a b => Sys2Proof.Machine.execVwfma h ty q d a b s
  | .vnrw h ty src r d a => Sys2Proof.Machine.execVnrw h ty src r d a s
  | .vexpr h ty r d a b c e lit => Sys2Proof.Machine.execVexpr h ty r d a b c e lit s
  | .vsfu h ty r fn d a e => Sys2Proof.Machine.execVsfu h ty r fn d a e s
  | .vrsum h ty src r d a c e => Sys2Proof.Machine.execVrsum h ty src r d a c e s
  | .vrmax h ty d a e => Sys2Proof.Machine.execVrmax h ty d a e s
  | .vrmin h ty d a e => Sys2Proof.Machine.execVrmin h ty d a e s
  | .vscan h ty r d a e => Sys2Proof.Machine.execVscan h ty r d a e s
  | .vperm h ty d a b => Sys2Proof.Machine.execVperm h ty d a b s
  | .vshuf h ty op d a => Sys2Proof.Machine.execVshuf h ty op d a s
  | .vsplat h ty d a e => Sys2Proof.Machine.execVsplat h ty d a e s
  | .viota h ty d a e => Sys2Proof.Machine.execViota h ty d a e s
  | .vextr h ty d a b => Sys2Proof.Machine.execVextr h ty d a b s
  | .vinsr h ty d a b => Sys2Proof.Machine.execVinsr h ty d a b s
  | .vmov h ty d a e => Sys2Proof.Machine.execVmov h ty d a e s
  | .vcprs h ty d a b => Sys2Proof.Machine.execVcprs h ty d a b s
  | .vexpd h ty d a b => Sys2Proof.Machine.execVexpd h ty d a b s
  | .klog h d a b c tt => Sys2Proof.Machine.execKlog h d a b c tt s
  | .kpop h d a => Sys2Proof.Machine.execKpop h d a s
  | .kfirst h d a => Sys2Proof.Machine.execKfirst h d a s
  | .vgqd h ty r d a b c e => Sys2Proof.Machine.execVgqd h ty r d a b c e s
  | .vgqe h ty op d a b c => Sys2Proof.Machine.execVgqe h ty op d a b c s
  | .vrng h ty d a b e => Sys2Proof.Machine.execVrng h ty d a b e s
  | .vdot4 h ty r d a b c => Sys2Proof.Machine.execVdot4 h ty r d a b c s
  | .vclass h ty d a imm => Sys2Proof.Machine.execVclass h ty d a imm s
  | .tdld h id => Sys2Proof.Machine.execTdld h id s
  | .tdst h a id => Sys2Proof.Machine.execTdst h a id s
  | .tdset h fld a id => Sys2Proof.Machine.execTdset h fld a id s
  | .tdinv h id => Sys2Proof.Machine.execTdinv h id s
  | .tld h d a id => Sys2Proof.Machine.execTld h d a id s
  | .tst h d a id => Sys2Proof.Machine.execTst h d a id s
  | .tzero h d => Sys2Proof.Machine.execTzero h d s
  | .ttrn h d a => Sys2Proof.Machine.execTtrn h d a s
  | .tcmp h d a b => Sys2Proof.Machine.execTcmp h d a b s
  | .mma h z d a b => Sys2Proof.Machine.execMma h z d a b s
  | .mmas h z d a b c => Sys2Proof.Machine.execMmas h z d a b c s
  | .mmag h z d a b c => Sys2Proof.Machine.execMmag h z d a b c s
  | .azero h d => Sys2Proof.Machine.execAzero h d s
  | .ald h d a id => Sys2Proof.Machine.execAld h d a id s
  | .ast h r d a id => Sys2Proof.Machine.execAst h r d a id s
  | .acvt h ty r d a => Sys2Proof.Machine.execAcvt h ty r d a s
  | .aadd h int d a b => Sys2Proof.Machine.execAadd h int d a b s
  | .mqry h d => Sys2Proof.Machine.execMqry h d s
  | .ld h sz d a imm => Sys2Proof.Machine.execLd h sz d a imm s
  | .st h sz d a imm => Sys2Proof.Machine.execSt h sz d a imm s
  | .ldv h d a b => Sys2Proof.Machine.execLdv h d a b s
  | .stv h d a b => Sys2Proof.Machine.execStv h d a b s
  | .ldx h ty d a b e => Sys2Proof.Machine.execLdx h ty d a b e s
  | .stx h ty d a b e => Sys2Proof.Machine.execStx h ty d a b e s
  | .lda h sz d a b => Sys2Proof.Machine.execLda h sz d a b s
  | .stl h sz d a b => Sys2Proof.Machine.execStl h sz d a b s
  | .atom h ty op dbl ord d a b => Sys2Proof.Machine.execAtom h ty op dbl ord d a b s
  | .cas h ty dbl ord d a b => Sys2Proof.Machine.execCas h ty dbl ord d a b s
  | .red h ty a b sid => Sys2Proof.Machine.execRed h ty a b sid s
  | .redo h ty a b sid => Sys2Proof.Machine.execRedo h ty a b sid s
  | .redc h mode sid => Sys2Proof.Machine.execRedc h mode sid s
  | .fence h op => Sys2Proof.Machine.execFence h op s
  | .l1inv h s1flag => Sys2Proof.Machine.execL1inv h s1flag s
  | .prf h a b => Sys2Proof.Machine.execPrf h a b s
  | .wait h => Sys2Proof.Machine.execWait h s
  | .gbar h => Sys2Proof.Machine.execGbar h s
  | .tlw h n a b c => Sys2Proof.Machine.execTlw h n a b c s
  | .tlr h n issued d c => Sys2Proof.Machine.execTlr h n issued d c s
  | .tls h d a => Sys2Proof.Machine.execTls h d a s
  | .hcfg h op d => Sys2Proof.Machine.execHcfg h op d s
  | .hrsv h a => Sys2Proof.Machine.execHrsv h a s
  | .hcmt h a => Sys2Proof.Machine.execHcmt h a s
  | .hadv h op a => Sys2Proof.Machine.execHadv h op a s
  | .hqry h d a => Sys2Proof.Machine.execHqry h d a s
  | .send h a b c => Sys2Proof.Machine.execSend h a b c s
  | .wake h a => Sys2Proof.Machine.execWake h a s
  | .mvcall h d a imm => Sys2Proof.Machine.execMvcall h d a imm s
  | .mvret h => Sys2Proof.Machine.execMvret h s
  | .cpy h s1 d a b c e => Sys2Proof.Machine.execCpy h s1 d a b c e s
  | .cpyg h s1 d a b c e => Sys2Proof.Machine.execCpyg h s1 d a b c e s
  | .cpyw h s1 d a b c e => Sys2Proof.Machine.execCpyw h s1 d a b c e s
  | .cpyp h d a b c e => Sys2Proof.Machine.execCpyp h d a b c e s
  | .cfill h cls s1 d a id => Sys2Proof.Machine.execCfill h cls s1 d a id s
  | .cpin h s1 d a b => Sys2Proof.Machine.execCpin h s1 d a b s
  | .cunpin h s1 d a b => Sys2Proof.Machine.execCunpin h s1 d a b s
  | .cwin h op s1 d a e => Sys2Proof.Machine.execCwin h op s1 d a e s
  | .wvopen h d a b wid => Sys2Proof.Machine.execWvopen h d a b wid s
  | .wvclose h d wid => Sys2Proof.Machine.execWvclose h d wid s
  | .wvqry h d a b wid => Sys2Proof.Machine.execWvqry h d a b wid s
  | .wvdone h d wid => Sys2Proof.Machine.execWvdone h d wid s
  | .snopen h d a b => Sys2Proof.Machine.execSnopen h d a b s
  | .snacc h d => Sys2Proof.Machine.execSnacc h d s
  | .snrej h d => Sys2Proof.Machine.execSnrej h d s
  | .snqry h a b => Sys2Proof.Machine.execSnqry h a b s
  | .lrpatch h d a b c => Sys2Proof.Machine.execLrpatch h d a b c s
  | .lrarm h d a => Sys2Proof.Machine.execLrarm h d a s
  | .lrqry h d a => Sys2Proof.Machine.execLrqry h d a s
  | .seedrd h hi d => Sys2Proof.Machine.execSeedrd h hi d s
  | .collp h ty d a b c e => Sys2Proof.Machine.execCollp h ty d a b c e s
  -- Device steps (rows 185 to 306).
  | .timerTrap core => Sys2Proof.Machine.execTimerTrap core s
  | .taskStart core => Sys2Proof.Machine.execTaskStart core s
  | .endRetire core => Sys2Proof.Machine.execEndRetire core s
  | .routineStart core => Sys2Proof.Machine.execRoutineStart core s
  | .gangFusion core => Sys2Proof.Machine.execGangFusion core s
  | .sleepDeadline core => Sys2Proof.Machine.execSleepDeadline core s
  | .wakeArrival core => Sys2Proof.Machine.execWakeArrival core s
  | .tlwSatisfied core => Sys2Proof.Machine.execTlwSatisfied core s
  | .seqProgramFetch blk seq => Sys2Proof.Machine.execSeqProgramFetch blk seq s
  | .mask blk seq m => Sys2Proof.Machine.execMask blk seq m s
  | .maskb blk seq tag cnt m => Sys2Proof.Machine.execMaskb blk seq tag cnt m s
  | .loopEntry blk seq n => Sys2Proof.Machine.execLoopEntry blk seq n s
  | .endl blk seq => Sys2Proof.Machine.execEndl blk seq s
  | .jump blk seq target => Sys2Proof.Machine.execJump blk seq target s
  | .note blk seq value => Sys2Proof.Machine.execNote blk seq value s
  | .halt blk seq => Sys2Proof.Machine.execHalt blk seq s
  | .fire blk seq sq => Sys2Proof.Machine.execFire blk seq sq s
  | .memberRelease blk seq sq => Sys2Proof.Machine.execMemberRelease blk seq sq s
  | .gbarCountComplete ldom => Sys2Proof.Machine.execGbarCountComplete ldom s
  | .gbarRelease ldom => Sys2Proof.Machine.execGbarRelease ldom s
  | .copySectorPerformed core op => Sys2Proof.Machine.execCopySectorPerformed core op s
  | .timelineComplete core tl n => Sys2Proof.Machine.execTimelineComplete core tl n s
  | .matrixArbitration blk octet => Sys2Proof.Machine.execMatrixArbitration blk octet s
  | .matrixCommandComplete core => Sys2Proof.Machine.execMatrixCommandComplete core s
  | .rampWindow blk => Sys2Proof.Machine.execRampWindow blk s
  | .homeAccess aid => Sys2Proof.Machine.execHomeAccess aid s
  | .hbmFillComplete blk pa aid => Sys2Proof.Machine.execHbmFillComplete blk pa aid s
  | .remoteScratchpadAccess aid => Sys2Proof.Machine.execRemoteScratchpadAccess aid s
  | .translationWalk blk asid vpage => Sys2Proof.Machine.execTranslationWalk blk asid vpage s
  | .pendingLoadFault aid cause => Sys2Proof.Machine.execPendingLoadFault aid cause s
  | .sideLogEntry aid cause => Sys2Proof.Machine.execSideLogEntry aid cause s
  | .replayPass core mt => Sys2Proof.Machine.execReplayPass core mt s
  | .engineFault core op cause va => Sys2Proof.Machine.execEngineFault core op cause va s
  | .redUpdateApply aid => Sys2Proof.Machine.execRedUpdateApply aid s
  | .redoOpenApply blk asid sid => Sys2Proof.Machine.execRedoOpenApply blk asid sid s
  | .redcCloseApply blk asid sid => Sys2Proof.Machine.execRedcCloseApply blk asid sid s
  | .snapshotOpApply blk asid g => Sys2Proof.Machine.execSnapshotOpApply blk asid g s
  | .ringReservationRequest tx th => Sys2Proof.Machine.execRingReservationRequest tx th s
  | .ringGrant tx th grant => Sys2Proof.Machine.execRingGrant tx th grant s
  | .commitComplete tx th => Sys2Proof.Machine.execCommitComplete tx th s
  | .weevilBatchTake blk asid wid => Sys2Proof.Machine.execWeevilBatchTake blk asid wid s
  | .prefetchComplete blk asid wid p tile => Sys2Proof.Machine.execPrefetchComplete blk asid wid p tile s
  | .pointIssue core => Sys2Proof.Machine.execPointIssue core s
  | .ageBoundExpiry blk asid wid p => Sys2Proof.Machine.execAgeBoundExpiry blk asid wid p s
  | .forcedFillComplete core line => Sys2Proof.Machine.execForcedFillComplete core line s
  | .forcedFillRetry core line => Sys2Proof.Machine.execForcedFillRetry core line s
  | .walkStall core => Sys2Proof.Machine.execWalkStall core s
  | .leaseExpiry blk pa core => Sys2Proof.Machine.execLeaseExpiry blk pa core s
  | .endOfWork asid wid => Sys2Proof.Machine.execEndOfWork asid wid s
  | .epilogueStart core => Sys2Proof.Machine.execEpilogueStart core s
  | .notifyWrite q value => Sys2Proof.Machine.execNotifyWrite q value s
  | .launch k index => Sys2Proof.Machine.execLaunch k index s
  | .tlwait k va n => Sys2Proof.Machine.execTlwait k va n s
  | .tlwaitSatisfied k va n => Sys2Proof.Machine.execTlwaitSatisfied k va n s
  | .tlsignal k va n => Sys2Proof.Machine.execTlsignal k va n s
  | .seedpush k lo hi => Sys2Proof.Machine.execSeedpush k lo hi s
  | .seedpop k => Sys2Proof.Machine.execSeedpop k s
  | .seedfork k n => Sys2Proof.Machine.execSeedfork k n s
  | .copy k dst src bytes dir => Sys2Proof.Machine.execCopy k dst src bytes dir s
  | .copyPacketComplete k status => Sys2Proof.Machine.execCopyPacketComplete k status s
  | .window k base size blocks pin clear => Sys2Proof.Machine.execWindow k base size blocks pin clear s
  | .windowChangeComplete asid base => Sys2Proof.Machine.execWindowChangeComplete asid base s
  | .fencePacket k => Sys2Proof.Machine.execFencePacket k s
  | .marker k value => Sys2Proof.Machine.execMarker k value s
  | .queueQuantum => Sys2Proof.Machine.execQueueQuantum s
  | .placement => Sys2Proof.Machine.execPlacement s
  | .reservation asid index => Sys2Proof.Machine.execReservation asid index s
  | .placementStarved asid index => Sys2Proof.Machine.execPlacementStarved asid index s
  | .launchEnd serial => Sys2Proof.Machine.execLaunchEnd serial s
  | .coreStop core => Sys2Proof.Machine.execCoreStop core s
  | .restore asid rect => Sys2Proof.Machine.execRestore asid rect s
  | .shootdown value => Sys2Proof.Machine.execShootdown value s
  | .shootdownFlush value => Sys2Proof.Machine.execShootdownFlush value s
  | .shootdownSliceAck blk => Sys2Proof.Machine.execShootdownSliceAck blk s
  | .shootdownStatusRead => Sys2Proof.Machine.execShootdownStatusRead s
  | .ctxload arg0 => Sys2Proof.Machine.execCtxload arg0 s
  | .ctxupd arg0 => Sys2Proof.Machine.execCtxupd arg0 s
  | .ctxevict arg0 => Sys2Proof.Machine.execCtxevict arg0 s
  | .preempt arg0 arg1 => Sys2Proof.Machine.execPreempt arg0 arg1 s
  | .qresync arg0 arg1 => Sys2Proof.Machine.execQresync arg0 arg1 s
  | .bssplit arg0 arg1 => Sys2Proof.Machine.execBssplit arg0 arg1 s
  | .signrun arg0 => Sys2Proof.Machine.execSignrun arg0 s
  | .attest arg0 arg1 => Sys2Proof.Machine.execAttest arg0 arg1 s
  | .svnadv arg0 => Sys2Proof.Machine.execSvnadv arg0 s
  | .seqreset arg0 arg1 => Sys2Proof.Machine.execSeqreset arg0 arg1 s
  | .contain arg0 => Sys2Proof.Machine.execContain arg0 s
  | .uncontain arg0 => Sys2Proof.Machine.execUncontain arg0 s
  | .unknownCommand cmd => Sys2Proof.Machine.execUnknownCommand cmd s
  | .svcStatusRead => Sys2Proof.Machine.execSvcStatusRead s
  | .seqSnapshotLatch blk seq => Sys2Proof.Machine.execSeqSnapshotLatch blk seq s
  | .hreq core => Sys2Proof.Machine.execHreq core s
  | .rreq core => Sys2Proof.Machine.execRreq core s
  | .sreq core => Sys2Proof.Machine.execSreq core s
  | .debugStatusRead core => Sys2Proof.Machine.execDebugStatusRead core s
  | .breakpointMatch core mt => Sys2Proof.Machine.execBreakpointMatch core mt s
  | .heldMessage core m => Sys2Proof.Machine.execHeldMessage core m s
  | .traceRecordDrain blk => Sys2Proof.Machine.execTraceRecordDrain blk s
  | .tracePortWrite blk t slot core mt lo hi => Sys2Proof.Machine.execTracePortWrite blk t slot core mt lo hi s
  | .waitcfgWrite value => Sys2Proof.Machine.execWaitcfgWrite value s
  | .longWait core mt => Sys2Proof.Machine.execLongWait core mt s
  | .registerWrite addr value => Sys2Proof.Machine.execRegisterWrite addr value s
  | .hostRegAccess port write off value => Sys2Proof.Machine.execHostRegAccess port write off value s
  | .hostMemAccess port write off bytes => Sys2Proof.Machine.execHostMemAccess port write off bytes s
  | .peerOperationReceive dev pasid asid va red bytes => Sys2Proof.Machine.execPeerOperationReceive dev pasid asid va red bytes s
  | .powerWindow watts => Sys2Proof.Machine.execPowerWindow watts s
  | .oppChange => Sys2Proof.Machine.execOppChange s
  | .monitorTrip blk factor cycles => Sys2Proof.Machine.execMonitorTrip blk factor cycles s
  | .gateBlock blk => Sys2Proof.Machine.execGateBlock blk s
  | .traceDrainTimeout blk => Sys2Proof.Machine.execTraceDrainTimeout blk s
  | .wakeBlock blk req => Sys2Proof.Machine.execWakeBlock blk req s
  | .blockWakeComplete blk => Sys2Proof.Machine.execBlockWakeComplete blk s
  | .correctedError n => Sys2Proof.Machine.execCorrectedError n s
  | .uncorrectableError site => Sys2Proof.Machine.execUncorrectableError site s
  | .checkerMismatch core matrix again => Sys2Proof.Machine.execCheckerMismatch core matrix again s
  | .columnRetirement core => Sys2Proof.Machine.execColumnRetirement core s
  | .blockWithdrawal blk => Sys2Proof.Machine.execBlockWithdrawal blk s
  | .hiveMemoryError event => Sys2Proof.Machine.execHiveMemoryError event s
  | .flitCrcFail port replays down => Sys2Proof.Machine.execFlitCrcFail port replays down s
  | .hbmScrub stack row => Sys2Proof.Machine.execHbmScrub stack row s
  | .boot => Sys2Proof.Machine.execBoot s
  | .accessResponse aid => Sys2Proof.Machine.execAccessResponse aid s
  | .rimIslandGating island => Sys2Proof.Machine.execRimIslandGating island s

end Sys2Proof.Machine
end

