-- ==== Sys2Proof/Machine/Enabled.lean ====
section
/-!
DEFINITION. The device steps that the state enables beside those already triggered (notes/assumptions/4.md), and the agents
that a step names. Errors of the silicon and what the host and the peers do are no steps that the state enables: they come from
outside.
-/

namespace Sys2Proof.Machine

/-- The steps of one core. -/
def enabledCore (s : State) (core : Nat) : List Ev :=
  enabledControl s core ++ enabledTimer s core ++ enabledMatrix s core ++ enabledSync s core ++ enabledEngine s core ++
  enabledTask s core ++ enabledWalker s core ++ enabledStop s core ++ enabledDebug s core ++ enabledLong s core ++
  enabledReleases s core

/-- The windows of the ramp limiters that have ended (R397). -/
def enabledRamp (s : State) : List Ev :=
  (s.blocks.filter (fun b => decide (b.2.rampAt < s.dev.time / 1000) && (b.2.rampCur != 0 || b.2.rampPrev != 0))).map
    (fun b => Ev.rampWindow b.1)

/-- The device steps that can happen now beside those already triggered. (DESIGN CHOICE: log 4, DESIGN CHOICE: log 74.) -/
def enabled (s : State) : List Ev :=
  ((liveCores s).map (enabledCore s)).flatten ++ enabledCicada s ++ enabledNet s ++ enabledSessions s ++ enabledSnaps s ++
  enabledWeevil s ++ enabledSavedReleases s ++ enabledRamp s ++ enabledTrace s ++ enabledQueues s ++ enabledPlacer s ++
  enabledRestore s ++ enabledGovernor s ++ enabledGating s

/-- Does a device step name agents that the device has (R5, R10, R30, R52)? Rim islands are those of wakeRim (log 67).
(DESIGN CHOICE: log 75.) -/
def evOk (e : Ev) : Bool :=
  match e with
  | .timerTrap core => coreOk core
  | .taskStart core => coreOk core
  | .endRetire core => coreOk core
  | .routineStart core => coreOk core
  | .gangFusion core => coreOk core
  | .sleepDeadline core => coreOk core
  | .wakeArrival core => coreOk core
  | .tlwSatisfied core => coreOk core
  | .seqProgramFetch blk seq => blkOk blk && decide (seq < 128)
  | .mask blk seq _ => blkOk blk && decide (seq < 128)
  | .maskb blk seq _ _ _ => blkOk blk && decide (seq < 128)
  | .loopEntry blk seq _ => blkOk blk && decide (seq < 128)
  | .endl blk seq => blkOk blk && decide (seq < 128)
  | .jump blk seq _ => blkOk blk && decide (seq < 128)
  | .note blk seq _ => blkOk blk && decide (seq < 128)
  | .halt blk seq => blkOk blk && decide (seq < 128)
  | .fire blk seq _ => blkOk blk && decide (seq < 128)
  | .memberRelease blk seq _ => blkOk blk && decide (seq < 128)
  | .gbarCountComplete ldom => decide (ldom < 65536)
  | .gbarRelease ldom => decide (ldom < 65536)
  | .copySectorPerformed core _ => coreOk core
  | .timelineComplete core tl _ => coreOk core && decide (tl < 8)
  | .matrixArbitration blk octet => blkOk blk && decide (octet < 512)
  | .matrixCommandComplete core => coreOk core
  | .rampWindow blk => blkOk blk
  | .homeAccess _ => true
  | .hbmFillComplete blk pa _ => blkOk blk && decide (pa < 2 ^ 48)
  | .remoteScratchpadAccess _ => true
  | .translationWalk blk asid _ => blkOk blk && asidOk asid
  | .pendingLoadFault _ _ => true
  | .sideLogEntry _ _ => true
  | .replayPass core _ => coreOk core
  | .engineFault core _ _ _ => coreOk core
  | .redUpdateApply _ => true
  | .redoOpenApply blk asid _ => blkOk blk && asidOk asid
  | .redcCloseApply blk asid _ => blkOk blk && asidOk asid
  | .snapshotOpApply blk asid _ => blkOk blk && asidOk asid
  | .ringReservationRequest _ _ => true
  | .ringGrant _ _ _ => true
  | .commitComplete _ _ => true
  | .weevilBatchTake blk asid wid => blkOk blk && asidOk asid && decide (wid < 16)
  | .prefetchComplete blk asid wid _ _ => blkOk blk && asidOk asid && decide (wid < 16)
  | .pointIssue core => coreOk core
  | .ageBoundExpiry blk asid wid _ => blkOk blk && asidOk asid && decide (wid < 16)
  | .forcedFillComplete core _ => coreOk core
  | .forcedFillRetry core _ => coreOk core
  | .walkStall core => coreOk core
  | .leaseExpiry blk pa core => blkOk blk && decide (pa < 2 ^ 48) && coreOk core
  | .endOfWork asid wid => asidOk asid && decide (wid < 16)
  | .epilogueStart core => coreOk core
  | .notifyWrite q _ => decide (q < 4096)
  | .launch k _ => decide (k.q < 4096)
  | .tlwait k _ _ => decide (k.q < 4096)
  | .tlwaitSatisfied k _ _ => decide (k.q < 4096)
  | .tlsignal k _ _ => decide (k.q < 4096)
  | .seedpush k _ _ => decide (k.q < 4096)
  | .seedpop k => decide (k.q < 4096)
  | .seedfork k _ => decide (k.q < 4096)
  | .copy k _ _ _ _ => decide (k.q < 4096)
  | .copyPacketComplete k _ => decide (k.q < 4096)
  | .window k _ _ _ _ _ => decide (k.q < 4096)
  | .windowChangeComplete asid _ => asidOk asid
  | .fencePacket k => decide (k.q < 4096)
  | .marker k _ => decide (k.q < 4096)
  | .queueQuantum => true
  | .placement => true
  | .reservation asid _ => asidOk asid
  | .placementStarved asid _ => asidOk asid
  | .launchEnd _ => true
  | .coreStop core => coreOk core
  | .restore asid _ => asidOk asid
  | .shootdown _ => true
  | .shootdownFlush _ => true
  | .shootdownSliceAck blk => blkOk blk
  | .shootdownStatusRead => true
  | .ctxload _ => true
  | .ctxupd _ => true
  | .ctxevict _ => true
  | .preempt _ _ => true
  | .qresync _ _ => true
  | .bssplit _ _ => true
  | .signrun _ => true
  | .attest _ _ => true
  | .svnadv _ => true
  | .seqreset _ _ => true
  | .contain _ => true
  | .uncontain _ => true
  | .unknownCommand _ => true
  | .svcStatusRead => true
  | .seqSnapshotLatch blk seq => blkOk blk && decide (seq < 128)
  | .hreq core => coreOk core
  | .rreq core => coreOk core
  | .sreq core => coreOk core
  | .debugStatusRead core => coreOk core
  | .breakpointMatch core _ => coreOk core
  | .heldMessage core _ => coreOk core
  | .traceRecordDrain blk => blkOk blk
  | .tracePortWrite blk _ _ _ _ _ _ => blkOk blk
  | .waitcfgWrite _ => true
  | .longWait core _ => coreOk core
  | .registerWrite _ _ => true
  | .hostRegAccess _ _ _ _ => true
  | .hostMemAccess _ _ _ _ => true
  | .peerOperationReceive _ _ asid _ _ _ => asidOk asid
  | .powerWindow _ => true
  | .oppChange => true
  | .monitorTrip blk _ _ => blkOk blk
  | .gateBlock blk => blkOk blk
  | .traceDrainTimeout blk => blkOk blk
  | .wakeBlock blk _ => blkOk blk
  | .blockWakeComplete blk => blkOk blk
  | .correctedError _ => true
  | .uncorrectableError _ => true
  | .checkerMismatch core _ _ => coreOk core
  | .columnRetirement core => coreOk core
  | .blockWithdrawal blk => blkOk blk
  | .hiveMemoryError _ => true
  | .flitCrcFail port _ _ => decide (port < 38)
  | .hbmScrub stack _ => decide (stack < 32)
  | .boot => true
  | .accessResponse _ => true
  | .rimIslandGating island => decide (island < 103)

end Sys2Proof.Machine
end

