-- ==== Sys2Proof/Machine/Events.lean ====
section
/-!
DEFINITION. A device step that the state holds, run: each constructor of `Ev` calls the meaning that `exec` gives the
constructor of `Instr` of the same name.
-/

namespace Sys2Proof.Machine

/-- The effect of a device step. -/
def runEv (e : Ev) (s : State) : Host.Outcome State Fault Refusal :=
  match e with
  | .timerTrap core => Sys2Proof.Machine.execTimerTrap core s
  | .taskStart core => Sys2Proof.Machine.execTaskStart core s
  | .endRetire core => Sys2Proof.Machine.execEndRetire core s
  | .routineStart core => Sys2Proof.Machine.execRoutineStart core s
  | .gangFusion core => Sys2Proof.Machine.execGangFusion core s
  | .sleepDeadline core => Sys2Proof.Machine.execSleepDeadline core s
  | .wakeArrival core => Sys2Proof.Machine.execWakeArrival core s
  | .tlwSatisfied core => Sys2Proof.Machine.execTlwSatisfied core s
  | .seqProgramFetch blk seq => Sys2Proof.Machine.execSeqProgramFetch blk seq s
  | .mask blk seq m => Sys2Proof.Machine.execMask blk seq m s
  | .maskb blk seq tag cnt m => Sys2Proof.Machine.execMaskb blk seq tag cnt m s
  | .loopEntry blk seq n => Sys2Proof.Machine.execLoopEntry blk seq n s
  | .endl blk seq => Sys2Proof.Machine.execEndl blk seq s
  | .jump blk seq target => Sys2Proof.Machine.execJump blk seq target s
  | .note blk seq value => Sys2Proof.Machine.execNote blk seq value s
  | .halt blk seq => Sys2Proof.Machine.execHalt blk seq s
  | .fire blk seq sq => Sys2Proof.Machine.execFire blk seq sq s
  | .memberRelease blk seq sq => Sys2Proof.Machine.execMemberRelease blk seq sq s
  | .gbarCountComplete ldom => Sys2Proof.Machine.execGbarCountComplete ldom s
  | .gbarRelease ldom => Sys2Proof.Machine.execGbarRelease ldom s
  | .copySectorPerformed core op => Sys2Proof.Machine.execCopySectorPerformed core op s
  | .timelineComplete core tl n => Sys2Proof.Machine.execTimelineComplete core tl n s
  | .matrixArbitration blk octet => Sys2Proof.Machine.execMatrixArbitration blk octet s
  | .matrixCommandComplete core => Sys2Proof.Machine.execMatrixCommandComplete core s
  | .rampWindow blk => Sys2Proof.Machine.execRampWindow blk s
  | .homeAccess aid => Sys2Proof.Machine.execHomeAccess aid s
  | .hbmFillComplete blk pa aid => Sys2Proof.Machine.execHbmFillComplete blk pa aid s
  | .remoteScratchpadAccess aid => Sys2Proof.Machine.execRemoteScratchpadAccess aid s
  | .translationWalk blk asid vpage => Sys2Proof.Machine.execTranslationWalk blk asid vpage s
  | .pendingLoadFault aid cause => Sys2Proof.Machine.execPendingLoadFault aid cause s
  | .sideLogEntry aid cause => Sys2Proof.Machine.execSideLogEntry aid cause s
  | .replayPass core mt => Sys2Proof.Machine.execReplayPass core mt s
  | .engineFault core op cause va => Sys2Proof.Machine.execEngineFault core op cause va s
  | .redUpdateApply aid => Sys2Proof.Machine.execRedUpdateApply aid s
  | .redoOpenApply blk asid sid => Sys2Proof.Machine.execRedoOpenApply blk asid sid s
  | .redcCloseApply blk asid sid => Sys2Proof.Machine.execRedcCloseApply blk asid sid s
  | .snapshotOpApply blk asid g => Sys2Proof.Machine.execSnapshotOpApply blk asid g s
  | .ringReservationRequest tx th => Sys2Proof.Machine.execRingReservationRequest tx th s
  | .ringGrant tx th grant => Sys2Proof.Machine.execRingGrant tx th grant s
  | .commitComplete tx th => Sys2Proof.Machine.execCommitComplete tx th s
  | .weevilBatchTake blk asid wid => Sys2Proof.Machine.execWeevilBatchTake blk asid wid s
  | .prefetchComplete blk asid wid p tile => Sys2Proof.Machine.execPrefetchComplete blk asid wid p tile s
  | .pointIssue core => Sys2Proof.Machine.execPointIssue core s
  | .ageBoundExpiry blk asid wid p => Sys2Proof.Machine.execAgeBoundExpiry blk asid wid p s
  | .forcedFillComplete core line => Sys2Proof.Machine.execForcedFillComplete core line s
  | .forcedFillRetry core line => Sys2Proof.Machine.execForcedFillRetry core line s
  | .walkStall core => Sys2Proof.Machine.execWalkStall core s
  | .leaseExpiry blk pa core => Sys2Proof.Machine.execLeaseExpiry blk pa core s
  | .endOfWork asid wid => Sys2Proof.Machine.execEndOfWork asid wid s
  | .epilogueStart core => Sys2Proof.Machine.execEpilogueStart core s
  | .notifyWrite q value => Sys2Proof.Machine.execNotifyWrite q value s
  | .launch k index => Sys2Proof.Machine.execLaunch k index s
  | .tlwait k va n => Sys2Proof.Machine.execTlwait k va n s
  | .tlwaitSatisfied k va n => Sys2Proof.Machine.execTlwaitSatisfied k va n s
  | .tlsignal k va n => Sys2Proof.Machine.execTlsignal k va n s
  | .seedpush k lo hi => Sys2Proof.Machine.execSeedpush k lo hi s
  | .seedpop k => Sys2Proof.Machine.execSeedpop k s
  | .seedfork k n => Sys2Proof.Machine.execSeedfork k n s
  | .copy k dst src bytes dir => Sys2Proof.Machine.execCopy k dst src bytes dir s
  | .copyPacketComplete k status => Sys2Proof.Machine.execCopyPacketComplete k status s
  | .window k base size blocks pin clear => Sys2Proof.Machine.execWindow k base size blocks pin clear s
  | .windowChangeComplete asid base => Sys2Proof.Machine.execWindowChangeComplete asid base s
  | .fencePacket k => Sys2Proof.Machine.execFencePacket k s
  | .marker k value => Sys2Proof.Machine.execMarker k value s
  | .queueQuantum => Sys2Proof.Machine.execQueueQuantum s
  | .placement => Sys2Proof.Machine.execPlacement s
  | .reservation asid index => Sys2Proof.Machine.execReservation asid index s
  | .placementStarved asid index => Sys2Proof.Machine.execPlacementStarved asid index s
  | .launchEnd serial => Sys2Proof.Machine.execLaunchEnd serial s
  | .coreStop core => Sys2Proof.Machine.execCoreStop core s
  | .restore asid rect => Sys2Proof.Machine.execRestore asid rect s
  | .shootdown value => Sys2Proof.Machine.execShootdown value s
  | .shootdownFlush value => Sys2Proof.Machine.execShootdownFlush value s
  | .shootdownSliceAck blk => Sys2Proof.Machine.execShootdownSliceAck blk s
  | .shootdownStatusRead => Sys2Proof.Machine.execShootdownStatusRead s
  | .ctxload arg0 => Sys2Proof.Machine.execCtxload arg0 s
  | .ctxupd arg0 => Sys2Proof.Machine.execCtxupd arg0 s
  | .ctxevict arg0 => Sys2Proof.Machine.execCtxevict arg0 s
  | .preempt arg0 arg1 => Sys2Proof.Machine.execPreempt arg0 arg1 s
  | .qresync arg0 arg1 => Sys2Proof.Machine.execQresync arg0 arg1 s
  | .bssplit arg0 arg1 => Sys2Proof.Machine.execBssplit arg0 arg1 s
  | .signrun arg0 => Sys2Proof.Machine.execSignrun arg0 s
  | .attest arg0 arg1 => Sys2Proof.Machine.execAttest arg0 arg1 s
  | .svnadv arg0 => Sys2Proof.Machine.execSvnadv arg0 s
  | .seqreset arg0 arg1 => Sys2Proof.Machine.execSeqreset arg0 arg1 s
  | .contain arg0 => Sys2Proof.Machine.execContain arg0 s
  | .uncontain arg0 => Sys2Proof.Machine.execUncontain arg0 s
  | .unknownCommand cmd => Sys2Proof.Machine.execUnknownCommand cmd s
  | .svcStatusRead => Sys2Proof.Machine.execSvcStatusRead s
  | .seqSnapshotLatch blk seq => Sys2Proof.Machine.execSeqSnapshotLatch blk seq s
  | .hreq core => Sys2Proof.Machine.execHreq core s
  | .rreq core => Sys2Proof.Machine.execRreq core s
  | .sreq core => Sys2Proof.Machine.execSreq core s
  | .debugStatusRead core => Sys2Proof.Machine.execDebugStatusRead core s
  | .breakpointMatch core mt => Sys2Proof.Machine.execBreakpointMatch core mt s
  | .heldMessage core m => Sys2Proof.Machine.execHeldMessage core m s
  | .traceRecordDrain blk => Sys2Proof.Machine.execTraceRecordDrain blk s
  | .tracePortWrite blk t slot core mt lo hi => Sys2Proof.Machine.execTracePortWrite blk t slot core mt lo hi s
  | .waitcfgWrite value => Sys2Proof.Machine.execWaitcfgWrite value s
  | .longWait core mt => Sys2Proof.Machine.execLongWait core mt s
  | .registerWrite addr value => Sys2Proof.Machine.execRegisterWrite addr value s
  | .hostRegAccess port write off value => Sys2Proof.Machine.execHostRegAccess port write off value s
  | .hostMemAccess port write off bytes => Sys2Proof.Machine.execHostMemAccess port write off bytes s
  | .peerOperationReceive dev pasid asid va red bytes => Sys2Proof.Machine.execPeerOperationReceive dev pasid asid va red bytes s
  | .powerWindow watts => Sys2Proof.Machine.execPowerWindow watts s
  | .oppChange => Sys2Proof.Machine.execOppChange s
  | .monitorTrip blk factor cycles => Sys2Proof.Machine.execMonitorTrip blk factor cycles s
  | .gateBlock blk => Sys2Proof.Machine.execGateBlock blk s
  | .traceDrainTimeout blk => Sys2Proof.Machine.execTraceDrainTimeout blk s
  | .wakeBlock blk req => Sys2Proof.Machine.execWakeBlock blk req s
  | .blockWakeComplete blk => Sys2Proof.Machine.execBlockWakeComplete blk s
  | .correctedError n => Sys2Proof.Machine.execCorrectedError n s
  | .uncorrectableError site => Sys2Proof.Machine.execUncorrectableError site s
  | .checkerMismatch core matrix again => Sys2Proof.Machine.execCheckerMismatch core matrix again s
  | .columnRetirement core => Sys2Proof.Machine.execColumnRetirement core s
  | .blockWithdrawal blk => Sys2Proof.Machine.execBlockWithdrawal blk s
  | .hiveMemoryError event => Sys2Proof.Machine.execHiveMemoryError event s
  | .flitCrcFail port replays down => Sys2Proof.Machine.execFlitCrcFail port replays down s
  | .hbmScrub stack row => Sys2Proof.Machine.execHbmScrub stack row s
  | .boot => Sys2Proof.Machine.execBoot s
  | .accessResponse aid => Sys2Proof.Machine.execAccessResponse aid s
  | .rimIslandGating island => Sys2Proof.Machine.execRimIslandGating island s

end Sys2Proof.Machine
end

