-- ==== Sys2Proof/Machine/Slot.lean ====
section
/-!
DEFINITION. What can happen next: which thread of a core the issue slot goes to (R41, R51), the acts of a step, the steps that
the spec ties to a cycle or a tick (R60, R61, R70, R78, R154, R394, R416), and the passing of time (notes/assumptions/4.md, 6.md).
-/

namespace Sys2Proof.Machine

/-! ## The issue slot (R41) -/

/-- Does an instruction that reaches its issue wait, with nothing performed: a register that a load still awaits, a queue that is
full, a condition of its own (R196, R306, R445, R487)? -/
def stalls (s : State) (i : Instr) : Bool :=
  match exec i s with
  | .next t =>
    (issueSet s).all (fun c => threadOf t c s.onMt == threadOf s c s.onMt && (coreOf t c).dbg == (coreOf s c).dbg) &&
    t.netId == s.netId
  | _ => false

/-- The cycle at which a thread can issue at the earliest; none where it cannot. -/
def issueCycle (s : State) (core : Nat) (mt : Bool) : Option Nat :=
  if !threadReady s core mt then none
  else
    match fetchIssue (focusOn s core mt) with
    | .moved t =>
      if threadOf t core mt == threadOf s core mt && t.pending == s.pending then none else some (cycleNow t (blockOf core))
    | .run t i => if stalls t i then none else some (cycleNow t (blockOf core))

/-- The cycle at which the compute thread of a core can issue, with its gang (R44). -/
def gangCycle (s : State) (core : Nat) : Option Nat :=
  let ms := gangOf s core
  if ms.all (fun c => threadReady s c false) then issueCycle s (ms.headD core) false else none

/-- The next issue of a core by the rules of R41, with its cycle: true for the movement thread. Rule 1 stands in `issueGap`: in the
cycle that y = 1 hands over, the compute thread cannot issue. (DEDUCED: log 15.) -/
def slotNext (s : State) (core : Nat) : Option (Nat × Bool) :=
  match issueCycle s core true, gangCycle s core with
  | none, none => none
  | some m, none => some (m, true)
  | none, some c => some (c, false)
  | some m, some c =>
    if c < m then some (c, false)
    else if m < c ∨ (coreOf s core).mt.lastIssue + 63 < m then some (m, true)
    else some (c, false)

/-- The threads that issue next on a core: the gang's compute thread where every member's rules give it the slot, else the movement
threads of the members (R41). -/
def coreIssuers (s : State) (core : Nat) : List (Nat × Bool) :=
  match slotNext s core with
  | none => []
  | some (_, true) => [(core, true)]
  | some (_, false) =>
    let ms := gangOf s core
    let taken := ms.filterMap (fun m => match slotNext s m with
      | some (n, true) => some n
      | _ => none)
    if taken.isEmpty then if ms.headD core = core then [(core, false)] else []
    else match issueCycle s core true with
      | some n => if taken.any (fun x => decide (n ≤ x)) then [(core, true)] else []
      | none => []

/-- Does one issuer go before another: a lower member of an octet with a window, in the same cycle or an earlier one (R78)? -/
def goesFirst (s : State) (x y : Nat × Bool) : Bool :=
  blockOf x.1 == blockOf y.1 && octetOf x.1 == octetOf y.1 && decide (omiOf x.1 < omiOf y.1) && (coreOf s y.1).win != 0 &&
  (match issueCycle s x.1 x.2, issueCycle s y.1 y.2 with
   | some m, some n => decide (m ≤ n)
   | _, _ => false)

/-- The threads that may issue in this step. (DESIGN CHOICE: log 4.) -/
def issuers (s : State) : List (Nat × Bool) :=
  let l := (liveCores s).flatMap (coreIssuers s)
  l.filter (fun y => !l.any (fun x => goesFirst s x y))

/-! ## Acts -/

/-- What can happen next. -/
inductive Act where
  | pending (n : Nat) (e : Ev)
  | step (e : Ev)
  | issue (core : Nat) (mt : Bool)
  deriving DecidableEq, Repr

/-- The events that a Hive core handles (R390, R402, R416, R419, R420). -/
def hiveEv (e : Ev) : Bool :=
  match e with
  | .notifyWrite _ _ | .launch _ _ | .tlwait _ _ _ | .tlwaitSatisfied _ _ _ | .tlsignal _ _ _ | .seedpush _ _ _ | .seedpop _
  | .seedfork _ _ | .copy _ _ _ _ _ | .copyPacketComplete _ _ | .window _ _ _ _ _ _ | .fencePacket _ | .marker _ _
  | .queueQuantum | .placement | .reservation _ _ | .placementStarved _ _ | .launchEnd _ | .coreStop _ | .restore _ _
  | .ctxload _ | .ctxupd _ | .ctxevict _ | .preempt _ _ | .qresync _ _ | .bssplit _ _ | .signrun _ | .attest _ _ | .svnadv _
  | .seqreset _ _ | .contain _ | .uncontain _ | .unknownCommand _ | .powerWindow _ | .gateBlock _ | .columnRetirement _
  | .blockWithdrawal _ => true
  | _ => false

/-- Does some Hive core take events: it has started, its rim island has power, and not all twelve are out of service (R411, R423,
R478)? A notify write wakes the island; the governor measures every window (R419). (DESIGN CHOICE: log 66.) -/
def hiveTakes (d : Device) (e : Ev) : Bool :=
  hiveWorks d &&
  (!d.islands.contains 0 || (match e with
    | .notifyWrite _ _ => true
    | .powerWindow _ => true
    | _ => false))

/-- Is a GBAR's release still before the instant of a pending change of the operating point? One at that instant or later resumes on
the new clock (R417). -/
def beforeChange (d : Device) (e : Ev) : Bool :=
  match e with
  | .gbarRelease l =>
    !(clockPends d && d.hiveUp && ((mapGet d.ldoms l).bind (·.release)).any (fun t => decide (d.ctick * windowTicks ≤ t)))
  | _ => true

/-- Can a thread of a core issue in the present cycle? -/
def issuesNow (s : State) (core : Nat) : Bool :=
  (coreIssuers s core).any (fun c => (issueCycle s c.1 c.2).any (fun n => decide (n ≤ cycleNow s (blockOf core))))

/-- Does an access to another core's scratchpad come after what that core's threads issue in the cycle (R94)? -/
def portFree (s : State) (e : Ev) : Bool :=
  match e with
  | .remoteScratchpadAccess aid =>
    match (accFind s aid).map (fun a => keyHome a.va) with
    | some (.core c) => !issuesNow s c
    | _ => true
  | _ => true

/-- May a device step happen now? -/
def mayRun (s : State) (e : Ev) : Bool := (!hiveEv e || hiveTakes s.dev e) && beforeChange s.dev e && portFree s e

/-- The port of a host access. -/
def hostPort (e : Ev) : Option (BitVec 1) :=
  match e with
  | .hostRegAccess p _ _ _ => some p
  | .hostMemAccess p _ _ _ => some p
  | _ => none

/-- The triggered steps that may happen, from the n-th on; the accesses of a host port happen in the order in which they were issued
(R399). -/
def pendingActs (s : State) : Nat → List (BitVec 1) → List Ev → List Act
  | _, _, [] => []
  | n, ports, e :: es =>
    (if mayRun s e && (hostPort e).all (fun p => !ports.contains p) then [Act.pending n e] else []) ++
    pendingActs s (n + 1) ((hostPort e).toList ++ ports) es

/-- Everything that can happen next. (DESIGN CHOICE: log 4.) -/
def acts (s : State) : List Act :=
  pendingActs s 0 [] s.pending ++ ((enabled s).filter (mayRun s)).map Act.step ++ (issuers s).map (fun c => Act.issue c.1 c.2)

/-- The act of this step, with the state after the draw where there was a choice. (DESIGN CHOICE: log 4.) -/
def pick (s : State) : Option (Act × State) :=
  match acts s with
  | [] => none
  | [a] => some (a, s)
  | a :: as => some ((a :: as).getD (Config.choice s.free % (as.length + 1)) a, { s with free := s.free + 1 })

/-! ## Steps with an instant of their own -/

/-- The fire decisions that hold now: an entry fires in the first cycle in which it can, before anything else happens (R60). -/
def firing (s : State) : List Ev :=
  s.blocks.flatMap (fun b => b.2.seqs.flatMap (fun q =>
    q.2.buf.filterMap (fun e => if fires e then some (Ev.fire b.1 q.1 e.sq) else none)))

/-- A step that the spec ties to an instant: a tick, and how far that tick is. -/
structure Due where
  tick : Nat
  phase : Nat           -- in parts of the tick, as `Device.tphase` counts them
  ev : Ev
  deriving DecidableEq, Repr

/-- A step that is due just before a tick begins. -/
def dueBefore (s : State) (t : Nat) (e : Ev) : Due := ⟨t - 1, tickParts s.dev - 1, e⟩

/-- A step that is due in a cycle of a block, at its first edge, or now where that has passed. -/
def dueCycle (s : State) (blk c : Nat) (e : Ev) : Due :=
  let goal := 5 * (c + (blockAt s blk).lag)
  let parts := s.dev.tphase + if s.dev.cyc < goal then (goal - s.dev.cyc) * fifthParts s.dev - s.dev.cphase else 0
  ⟨s.dev.time + parts / tickParts s.dev, parts % tickParts s.dev, e⟩

/-- The end of the present power window, which the governor measures (R419). -/
def windowDue (s : State) : List Due :=
  let n := s.dev.time / windowTicks
  let e := Ev.powerWindow (Config.measuredPower n)
  if hiveTakes s.dev e then [dueBefore s ((n + 1) * windowTicks) e] else []

/-- The change of the clocks at T, and of the supply of a lower point one tick later (R416). -/
def oppDue (s : State) : List Due :=
  if clockPends s.dev && s.dev.hiveUp then [⟨s.dev.ctick * windowTicks, 0, Ev.oppChange⟩]
  else if supplyPends s.dev && s.dev.hiveUp then [⟨s.dev.ctick * windowTicks + 1, 0, Ev.oppChange⟩]
  else []

/-- The releases of GBAR (R70) and those of the members of a fired entry (R61). -/
def releaseDues (s : State) : List Due :=
  s.dev.ldoms.filterMap (fun d => d.2.release.map (fun t => ⟨t, 0, Ev.gbarRelease d.1⟩)) ++
  s.blocks.flatMap (fun b => b.2.seqs.flatMap (fun q => q.2.buf.filterMap (fun e => e.fired.map (fun f =>
    dueCycle s b.1 (f + 24) (Ev.memberRelease b.1 q.1 e.sq)))))

/-- The reservations W ticks after arming, and after them the starvation events 2W ticks after it (R394, R468). -/
def placerDues (s : State) : List Due :=
  let next := nextReservers s
  (((reservers s).filter (fun x => next.contains (x.1, x.2.1))).map (fun x => Due.mk x.2.2.2 0 (Ev.reservation x.1 x.2.1)) ++
  (s.dev.waiting.filter (fun w => !w.starved)).map (fun w =>
    Due.mk (w.armed + 2 * waitTime s w.asid) 0 (Ev.placementStarved w.asid w.index)) ++
  s.ctxs.flatMap (fun c => ((List.range c.2.saved.length).zip c.2.saved).filterMap (fun r =>
    if r.2.starved then none
    else some (Due.mk (r.2.armed + 2 * waitTime s c.1) 0 (Ev.placementStarved c.1 (4096 + r.1)))))).filter
    (fun d => hiveTakes s.dev d.ev)

/-- The retries and the stall of the point that a core waits for (R466), and the threshold of its waits (R458). -/
def coreDues (s : State) (core : Nat) : List Due :=
  (match waitingPoint s core with
    | none => []
    | some (_, _, w, p, ls) =>
      ((retryLines s core ls).take 1).map (fun l => dueBefore s (retryTick s w p) (Ev.forcedFillRetry core l)) ++
      [⟨(mapGet w.boundAt p).getD s.dev.time + w.ageBound, 0, Ev.walkStall core⟩]) ++
  [false, true].filterMap (fun mt =>
    if longWaits s core mt then some ⟨(threadOf s core mt).waitFrom + s.dev.waitcfg.toNat * 1000, 0, Ev.longWait core mt⟩ else none)

/-- The bound on the age of the candidates (R156), and the ends of the leases (R157). -/
def weevilDues (s : State) : List Due :=
  s.blocks.flatMap (fun b => b.2.cands.filterMap (fun c =>
    if c.forced then none
    else (walkOf s c.asid c.wid).map (fun w => ⟨c.entered + w.ageBound + 1, 0, Ev.ageBoundExpiry b.1 c.asid c.wid c.p⟩))) ++
  s.blocks.flatMap (fun b => b.2.lines.flatMap (fun l => l.2.leases.map (fun x =>
    ⟨x.until_, 0, Ev.leaseExpiry b.1 l.1 x.core⟩)))

/-- The steps that the spec ties to an instant. -/
def dues (s : State) : List Due :=
  oppDue s ++ releaseDues s ++ placerDues s ++ (liveCores s).flatMap (coreDues s) ++ weevilDues s ++ windowDue s

/-- Is an instant before another? -/
def before (t p u q : Nat) : Bool := decide (t < u) || (t == u && decide (p < q))

/-- The step that is due first. -/
def firstDue : List Due → Option Due
  | [] => none
  | d :: ds => match firstDue ds with
    | none => some d
    | some x => if before x.tick x.phase d.tick d.phase then some x else some d

/-- Has time passed the instant of a step that was due? -/
def Due.passed (d : Due) (t : State) : Bool := before d.tick d.phase t.dev.time t.dev.tphase

/-- Has time reached the instant of a step that is due? -/
def Due.reached (d : Due) (t : State) : Bool := !before t.dev.time t.dev.tphase d.tick d.phase

/-! ## Steps that come before all others -/

/-- The step that is due now. -/
def dueNow (s : State) : List Ev := ((firstDue (dues s)).filter (fun d => d.reached s)).toList.map (·.ev)

/-- What the Weevils do in the tick in which they can: an idle core is given its point, a batch is taken, the end of work is signalled,
an epilogue begins (R150, R154, R159). -/
def weevilNow (s : State) : List Ev :=
  let l := s.ctxs.flatMap (fun c => c.2.walks.flatMap (fun w => enabledWalk s c.1 w.1 w.2)) ++
    (liveCores s).flatMap (fun c =>
      (if pointFor s c then [Ev.pointIssue c] else []) ++ (if epilogueReady s c then [Ev.epilogueStart c] else []))
  l.filter (fun e => match runEv e s with
    | .next t => t != s
    | _ => false)

/-- Is an access one through the scratchpad aperture or the octet's window, beside the mesh (R78)? -/
def viaOctet (a : Access) : Bool :=
  a.isKey && decide (a.addr / 2 ^ 48 % 16 ≤ 1) &&
  (match a.op with
    | .load | .store | .atom _ _ | .cas _ => true
    | _ => false)

/-- Does an access leave its thread's queue now, at a memory of its own octet, which answers in the cycle (R78)? -/
def octetSend (s : State) (a : Access) : Bool :=
  a.queued && viaOctet a && decide (a.core < 2 ^ 20) && padServes s a.core (keyHome a.va) && sendable s a &&
  !(accFind (performHome s a.id) a.id).any (·.queued)

/-- The issuers of the lower members of an octet with a window that can issue in the present cycle. -/
def lowerFirst (s : State) (core : Nat) : List (Nat × Bool) :=
  if (coreOf s core).win = 0 then []
  else (issuers s).filter (fun x => blockOf x.1 == blockOf core && octetOf x.1 == octetOf core && decide (omiOf x.1 < omiOf core) &&
    (issueCycle s x.1 x.2).any (fun n => decide (n ≤ cycleNow s (blockOf core))))

/-- The accesses that their octet's memories serve in the present cycle, in ascending member order (R78), behind what lower members
issue in it. -/
def octetNow (s : State) : List Act :=
  let l := s.net.filter (octetSend s)
  match ((List.range 8).flatMap (fun m => l.filter (fun a => omiOf a.core == m))) with
  | [] => []
  | a :: _ =>
    match lowerFirst s a.core with
    | x :: _ => [Act.issue x.1 x.2]
    | [] => [Act.step (if isRemote a then .remoteScratchpadAccess a.id else .homeAccess a.id)]

/-- Does a thread issue in the cycle of its release (R61, R70)? -/
def prompts (s : State) (x : Nat × Bool) : Bool :=
  match (threadOf s x.1 x.2).prompt with
  | none => false
  | some n => decide (cycleNow s (blockOf x.1) ≤ n) && issueCycle s x.1 x.2 == some n

/-- The issues in the cycles of the releases, and those that come before one of them in its cycle. -/
def promptNow (s : State) : List Act :=
  if (liveCores s).all (fun c => (coreOf s c).ct.prompt.isNone) then []
  else
    let l := (liveCores s).flatMap (coreIssuers s)
    let ps := l.filter (prompts s)
    ((issuers s).filter (fun x => ps.contains x || ps.any (fun y => goesFirst s x y))).map (fun x => Act.issue x.1 x.2)

/-- What happens before anything else, and before time passes. (DESIGN CHOICE: log 4.) -/
def urgent (s : State) : List Act :=
  (firing s ++ dueNow s ++ weevilNow s).map Act.step ++ octetNow s ++ promptNow s

/-- Time passes at the end of a step, up to the instants of the steps that are due. (DESIGN CHOICE: log 6.) -/
def tick (s : State) : State :=
  let t := advance { s with free := s.free + 1 } (Config.elapsed s.free)
  if (urgent s).isEmpty && (firstDue (dues s)).all (fun d => !d.passed t) then t else { s with free := s.free + 1 }

/-- Time passes in a step in which nothing is enabled. (DESIGN CHOICE: log 6.) -/
def idle (s : State) : State := advance { s with free := s.free + 1 } (Config.elapsed s.free + 1)

end Sys2Proof.Machine
end

