-- ==== Sys2Proof/Machine/Step.lean ====
section
/-!
DEFINITION. One step of the machine: one of the device steps that are triggered or enabled happens, or one thread issues
its next instruction; then time passes. Where several could go, a free choice picks (notes/assumptions/4.md).
-/

namespace Sys2Proof.Machine

/-- A device step. -/
def runAct (e : Ev) (s : State) : Host.Outcome State Fault Refusal :=
  if evOk e then runEv e s else .fault .noSuchAgent

/-- A thread's next issue. -/
def runIssue (s : State) : Host.Outcome State Fault Refusal :=
  match fetchIssue s with
  | .moved t => .next t
  | .run t i => exec i t

/-- Releases that the step completed are signalled (R62, R70), the counts of idle blocks are kept, and time passes. -/
def thenTick : Host.Outcome State Fault Refusal → Host.Outcome State Fault Refusal
  | .next t => .next (tick (watchIdle (allArrivals t)))
  | .fault f => .fault f
  | .refused r => .refused r

/-- What an act does. -/
def runOne (a : Act) (s : State) : Host.Outcome State Fault Refusal :=
  match a with
  | .pending n e => runAct e { s with pending := s.pending.eraseIdx n }
  | .step e => runAct e s
  | .issue c m => runIssue (focusOn s c m)

/-- An act that moves time beyond the instant of a step that is due gives way to that step. -/
def onTime (s : State) (r : Host.Outcome State Fault Refusal) : Host.Outcome State Fault Refusal :=
  match r, firstDue (dues s) with
  | .next t, some d => if d.passed t then runAct d.ev s else r
  | _, _ => r

/-- One step. (DESIGN CHOICE: log 4.) -/
def step (s : State) : Host.Outcome State Fault Refusal :=
  match urgent s with
  | a :: _ => thenTick (onTime s (runOne a s))
  | [] =>
    match pick s with
    | none => onTime s (.next (idle s))
    | some (a, t) => thenTick (onTime t (runOne a t))

/-- The state with an instruction stored where the next step fetches: the focused core alone, with no device step
triggered, its thread that may issue the instruction (Table 10.10) at the first word of a block that its instruction buffer
holds, followed by NOP (notes/assumptions/5.md). (DESIGN CHOICE: log 5.) -/
def State.withFetchWord (s : State) (nbits w : Nat) : State :=
  let v := w % 2 ^ nbits
  let w0 : Word := BitVec.ofNat 64 v
  let w1 : Word := BitVec.ofNat 64 (v / 2 ^ 64)
  let mt := !(threadsOfOp (w0.extractLsb' 54 10)).compute
  let t := if mt then s.core.mt else s.core.ct
  let head : Word := t.blk &&& 0x0000_FFFF_FFFF_FFF8
  let t1 := { t with
    active := true, pc := head + 8, entry := .word, entered := true, blk := head, slots := [], pendTraps := []
    wait := .none, looped := false }
  let other := { (if mt then s.core.ct else s.core.mt) with active := false }
  let blk : IBlock :=
    { head := head.toNat, words := [0xFFC0_6000_0000_0000, w0, w1, 0x13C0_0000_0000_0000], u := true, poison := false }
  { s with
    onMt := mt
    core := { s.core with
      ct := if mt then other else t1, mt := if mt then t1 else other, gang := 0, ibuf := [blk], stopped := false
      stopReq := false, contained := false, powered := true, dbg := Debug.reset }
    cores := []
    pending := [] }

end Sys2Proof.Machine
end

