-- ==== Sys2Proof/Safety.lean ====
section
/-!
DEFINITION. What counts as a safe run, and the terms in which the claims speak of one instruction: when an instruction is
ready to issue (R194, R196, R201, R205, R210), what an issue changes besides the instruction's effect, and the ways in
which an instruction completes, waits or traps.
-/

namespace Sys2Proof.Machine

/-- A state from which n steps each answer a next state. -/
def safeFor : Nat → State → Prop
  | 0, _ => True
  | n + 1, s => ∃ t, step s = .next t ∧ safeFor n t

/-- A safe state: every run from it goes on. -/
def safe (s : State) : Prop := ∀ n, safeFor n s

/-! ## An instruction outside a gang -/

/-- The issuing thread may issue the instruction alone: the thread and the privilege are those of Tables 10.10 and 13.6 (R205,
R210), no load of the thread awaits its registers (R196), and no register that it reads holds an error (R470). -/
structure MayIssue (inf : Info) (h : Hdr) (u : Uses) (s : State) : Prop where
  thread : (if s.onMt then inf.thr.movement else inf.thr.compute) = true
  privilege : inf.priv = true → (thr s).priv = true
  alone : (issueSet s).length ≤ 1
  loaded : awaited (thr s) u = false
  guardGood : guardPoison s.core s.onMt h = false
  regsGood : readsPoison s.core s.onMt u = false

/-- The instruction has its effect: it may issue, both guards are true (R194), and a word that ends its block is followed by a
header (R201), which matters to an instruction that falls through. -/
structure Ready (inf : Info) (h : Hdr) (u : Uses) (s : State) : Prop extends MayIssue inf h u s where
  guarded : guards (thr s) h = true
  falls : inf.transfer = false → badFall s inf.words = none

/-- The state with what an issue changes besides the instruction's effect set to fixed values: the thread's program counter with
its entry, its wait, and the records of its last issue; the error marks of registers; the counts of the arbiters and the
progress of the debug module. Two states with equal `bare` agree in everything else: every register, all of memory, every
other core and every unit. -/
def bare (s : State) : State :=
  let s1 := setThr s { thr s with
    pc := 0, entry := .word, wait := .none, waitRaised := false, bkptSkip := none, waitKept := none, relPass := false
    relMark := none, got := []
    lastIssue := 0, yielded := false, parkEnds := false }
  { s1 with core := { s1.core with
      xPoison := 0, vPoison := 0, kPoison := 0, pPoison := 0
      dbg := { s1.core.dbg with step := false, pendHalt := none } } }

/-- Instruction i completes at s, and what it leaves is r but for the records of the issue; the thread goes on after its
words. -/
def Completes (words : Nat) (i : Instr) (s r : State) : Prop :=
  ∃ t, exec i s = .next t ∧ bare t = bare r ∧ (thr t).pc = (thr s).pc + BitVec.ofNat 64 (8 * words)

/-- Instruction i completes at s leaving r, and control enters the block at a. -/
def Jumps (i : Instr) (s r : State) (a : Word) : Prop :=
  ∃ t, exec i s = .next t ∧ bare t = bare r ∧ (thr t).pc = a ∧ (thr t).entry = .header

/-- Instruction i has begun at s, its thread waits at it in a wait state (R329), and what it leaves is r; whether it ends its block is
recorded (R201). -/
def Parks (i : Instr) (s r : State) : Prop :=
  ∃ t, exec i s = .next t ∧ bare t = bare r ∧
    thr t = { thr r with
      lastIssue := (thr t).lastIssue, yielded := (thr t).yielded, bkptSkip := none, parkEnds := endsBlock s s.me s.onMt 1 } ∧
    (thr t).pc = (thr s).pc

/-- Instruction i takes a trap of class P (R443) at s: its own boundary is saved. -/
def Traps (i : Instr) (s : State) (cause : BitVec 16) (addr : Word) : Prop :=
  ∃ t, exec i s = .next t ∧ bare t = bare (takeTrap s cause (thr s).pc false addr) ∧
    thr t = thr (takeTrap s cause (thr s).pc false addr)

/-- A lane-wise instruction completes at s: lane i below n of the destination takes f i where the mask register selects it, every
other lane keeps its value, and nothing else changes (R278). -/
def LanesBecome (words : Nat) (i : Instr) (s : State) (d : VReg) (t : Ty) (n : Nat) (e : Option KReg) (f : Nat → Nat) : Prop :=
  ∃ v : VecVal, Completes words i s (vset s d v) ∧
    ∀ j < t.lanes, lane v t j = if j < n ∧ selLane s e j = true then f j % 2 ^ t.width else lane (vget s d) t j

/-! ## The tokens of an expression (Table 14.4) -/

/-- Token t of a VEXPR takes a lane's stack a, top first, to b. An arithmetic token leaves the entry that put makes of its exact
result, and a special function that of fun_; input token t pushes entry ins (t − 1). A stack too short for the token takes no step. -/
def TokenStep (ins : Nat → StackEnt) (put : Machine.Real → StackEnt) (fun_ : Fn → Machine.Real → StackEnt) (t : Nat)
    (a b : List StackEnt) : Prop :=
  match t, a with
  | 5, x :: st => b = x :: x :: st
  | 6, y :: x :: st => b = x :: y :: st
  | 8, y :: x :: st => b = put (Real.sum [x.val, y.val]) :: st
  | 9, y :: x :: st => b = put (Real.sum [x.val, y.val.neg]) :: st
  | 10, y :: x :: st => b = put (Real.mul x.val y.val) :: st
  | 11, y :: x :: st => b = put (minReal x.val y.val) :: st
  | 12, y :: x :: st => b = put (maxReal x.val y.val) :: st
  | 13, z :: y :: x :: st => b = put (Real.sum [Real.mul x.val y.val, z.val]) :: st
  | 14, x :: st => b = put x.val.neg :: st
  | 15, x :: st => b = put x.val.abs :: st
  | t, st => (1 ≤ t ∧ t ≤ 4 ∧ b = ins (t - 1) :: st) ∨ (16 ≤ t ∧ t ≤ 24 ∧ ∃ x r, st = x :: r ∧ b = fun_ (fnOfNumber (t - 16)) x.val :: r)

/-- The special values of Table 9.7. -/
def specialValue : Fn → Machine.Real → Option Machine.Real
  | _, .nan => some .nan
  | .exp2, .inf neg => some (if neg then .fin false 0 0 else .inf false)
  | .log2, .inf neg => some (if neg then .nan else .inf false)
  | .log2, .fin neg m _ => if m = 0 then some (.inf true) else if neg then some .nan else none
  | .rcp, .inf neg => some (.fin neg 0 0)
  | .rcp, .fin neg m _ => if m = 0 then some (.inf neg) else none
  | .rsq, .inf neg => some (if neg then .nan else .fin false 0 0)
  | .rsq, .fin neg m _ => if m = 0 then some (.inf neg) else if neg then some .nan else none
  | .sqrt, .inf neg => some (if neg then .nan else .inf false)
  | .sqrt, .fin neg m _ => if m = 0 then some (.fin neg 0 0) else if neg then some .nan else none
  | .tanh, .inf neg => some (.fin neg 1 0)
  | .tanh, .fin neg m _ => if m = 0 then some (.fin neg 0 0) else none
  | .sig, .inf neg => some (if neg then .fin false 0 0 else .fin false 1 0)
  | .sinpi, .inf _ => some .nan
  | .sinpi, .fin neg m e => if m = 0 ∨ 0 ≤ e then some (.fin neg 0 0) else none
  | .cospi, .inf _ => some .nan
  | .cospi, .fin _ m e => if e = -1 ∧ m % 2 = 1 then some (.fin false 0 0) else none
  | _, _ => none

end Sys2Proof.Machine
end

