-- ==== Sys2Proof/Certificates/Slice0/Obligations.lean ====
section
/-!
DEFINITION. The statements for the provers.
-/

open Sys2Proof Sys2Proof.Machine

/-! ## Scalar instructions (spec 13) -/

/-- R256, Table 13.1: every register form of integer arithmetic and logic completes with F(x, y) mod 2^64 in d, and nothing else
changes; x0 as a destination discards it (R193). The shifts take n = y mod 64. -/
def Obligations.RegisterArithmetic : Prop :=
  ∀ (h : Hdr) (d a b : XReg) (s : State), Ready infoCM h { xr := [a, b], xw := [d] } s →
    let x := xget s a
    let y := xget s b
    let n := y.toNat % 64
    Completes 1 (.add h d a b) s (xset s d (x + y)) ∧
    Completes 1 (.sub h d a b) s (xset s d (x - y)) ∧
    Completes 1 (.mul h d a b) s (xset s d (x * y)) ∧
    Completes 1 (.mulh h d a b) s (xset s d (BitVec.ofInt 64 (x.toInt * y.toInt / 2 ^ 64))) ∧
    Completes 1 (.mulhu h d a b) s (xset s d (BitVec.ofNat 64 (x.toNat * y.toNat / 2 ^ 64))) ∧
    Completes 1 (.and h d a b) s (xset s d (x &&& y)) ∧
    Completes 1 (.or h d a b) s (xset s d (x ||| y)) ∧
    Completes 1 (.xor h d a b) s (xset s d (x ^^^ y)) ∧
    Completes 1 (.andn h d a b) s (xset s d (x &&& ~~~y)) ∧
    Completes 1 (.shl h d a b) s (xset s d (BitVec.ofNat 64 (x.toNat * 2 ^ n))) ∧
    Completes 1 (.shr h d a b) s (xset s d (BitVec.ofNat 64 (x.toNat / 2 ^ n))) ∧
    Completes 1 (.sar h d a b) s (xset s d (BitVec.ofInt 64 (x.toInt / 2 ^ n))) ∧
    Completes 1 (.rotr h d a b) s (xset s d (BitVec.ofNat 64 (x.toNat / 2 ^ n + x.toNat * 2 ^ (64 - n)))) ∧
    Completes 1 (.min h d a b) s (xset s d (if x.toInt ≤ y.toInt then x else y)) ∧
    Completes 1 (.max h d a b) s (xset s d (if x.toInt ≥ y.toInt then x else y)) ∧
    Completes 1 (.minu h d a b) s (xset s d (if x.toNat ≤ y.toNat then x else y)) ∧
    Completes 1 (.maxu h d a b) s (xset s d (if x.toNat ≥ y.toNat then x else y)) ∧
    (∀ c : PReg, Ready infoCM h { xr := [a, b], xw := [d], pr := [c] } s →
      Completes 1 (.sel h d a b c) s (xset s d (if pget s c then x else y))) ∧
    (∀ sc : BitVec 3, Completes 1 (.lea h sc d a b) s (xset s d (x + y * BitVec.ofNat 64 (2 ^ sc.toNat))))

/-- R258: the quotient and the remainder of the four divide instructions, for every pair of operands. -/
def Obligations.DivisionResults : Prop :=
  ∀ (h : Hdr) (d a b : XReg) (s : State), Ready infoCM h { xr := [a, b], xw := [d] } s →
    let x := xget s a
    let y := xget s b
    ∃ q r qu ru : Word,
      Completes 1 (.div h d a b) s (xset s d q) ∧ Completes 1 (.rem h d a b) s (xset s d r) ∧
      Completes 1 (.divu h d a b) s (xset s d qu) ∧ Completes 1 (.remu h d a b) s (xset s d ru) ∧
      (y = 0 → q.toInt = -1 ∧ r = x ∧ qu.toNat = 2 ^ 64 - 1 ∧ ru = x) ∧
      (x.toInt = -2 ^ 63 → y.toInt = -1 → q.toInt = -2 ^ 63 ∧ r = 0) ∧
      (y ≠ 0 → ¬ (x.toInt = -2 ^ 63 ∧ y.toInt = -1) → q.toInt = x.toInt.tdiv y.toInt ∧ r.toInt = x.toInt - y.toInt * q.toInt) ∧
      (y ≠ 0 → qu.toNat = x.toNat / y.toNat ∧ ru.toNat = x.toNat % y.toNat)

/-- R256, Table 13.1: what CLZ, CTZ, POPC and BREV leave in d, said by the bits of x.
R259: BFX and BFI with pos = Reg mod 64 and len = Reg mod 64, where 0 stands for 64, cut at bit 63. -/
def Obligations.BitOperations : Prop :=
  (∀ (h : Hdr) (d a : XReg) (s : State), Ready infoCM h { xr := [a], xw := [d] } s →
     let x := xget s a
     ∃ lz tz pc rv : Word,
       Completes 1 (.clz h d a) s (xset s d lz) ∧ Completes 1 (.ctz h d a) s (xset s d tz) ∧
       Completes 1 (.popc h d a) s (xset s d pc) ∧ Completes 1 (.brev h d a) s (xset s d rv) ∧
       (x = 0 → lz.toNat = 64 ∧ tz.toNat = 64) ∧
       (x ≠ 0 → lz.toNat < 64 ∧ x.getLsbD (63 - lz.toNat) = true ∧ ∀ i, 63 - lz.toNat < i → x.getLsbD i = false) ∧
       (x ≠ 0 → tz.toNat < 64 ∧ x.getLsbD tz.toNat = true ∧ ∀ i, i < tz.toNat → x.getLsbD i = false) ∧
       pc.toNat = ((List.range 64).filter (fun i => x.getLsbD i)).length ∧
       ∀ i, i < 64 → rv.getLsbD i = x.getLsbD (63 - i)) ∧
  (∀ (h : Hdr) (d a b c e : XReg) (s : State),
     let pos (r : XReg) : Nat := (xget s r).toNat % 64
     let len (p l : XReg) : Nat := min (if (xget s l).toNat % 64 = 0 then 64 else (xget s l).toNat % 64) (64 - pos p)
     let f := (xget s a).toNat / 2 ^ pos b % 2 ^ len b c
     let m : Word := BitVec.ofNat 64 ((2 ^ len c e - 1) * 2 ^ pos c)
     (Ready infoCM h { xr := [a, b, c], xw := [d] } s →
       Completes 1 (.bfx h false d a b c) s (xset s d (BitVec.ofNat 64 f)) ∧
       Completes 1 (.bfx h true d a b c) s (xset s d
         (BitVec.ofInt 64 (if 2 ^ (len b c - 1) ≤ f then (f : Int) - 2 ^ len b c else f)))) ∧
     (Ready infoCM h { xr := [a, b, c, e], xw := [d] } s →
       Completes 1 (.bfi h d a b c e) s (xset s d
         ((xget s a &&& ~~~m) ||| (BitVec.ofNat 64 ((xget s b).toNat * 2 ^ pos c) &&& m)))))

/-- R257, R260, Table 13.2: the immediate forms, MOV, LI and LIW; a signed immediate is sign-extended, MINUI and MAXUI
zero-extend theirs, and a LIW is two words. -/
def Obligations.ImmediateForms : Prop :=
  ∀ (h : Hdr) (d a : XReg) (imm : BitVec 18) (n : BitVec 6) (lit : Word) (s : State),
    let x := xget s a
    let y : Word := imm.signExtend 64
    let u : Word := imm.setWidth 64
    (Ready infoCM h { xr := [a], xw := [d] } s →
      Completes 1 (.addi h d a imm) s (xset s d (x + y)) ∧
      Completes 1 (.muli h d a imm) s (xset s d (x * y)) ∧
      Completes 1 (.andi h d a imm) s (xset s d (x &&& y)) ∧
      Completes 1 (.ori h d a imm) s (xset s d (x ||| y)) ∧
      Completes 1 (.xori h d a imm) s (xset s d (x ^^^ y)) ∧
      Completes 1 (.shli h d a n) s (xset s d (BitVec.ofNat 64 (x.toNat * 2 ^ n.toNat))) ∧
      Completes 1 (.shri h d a n) s (xset s d (BitVec.ofNat 64 (x.toNat / 2 ^ n.toNat))) ∧
      Completes 1 (.sari h d a n) s (xset s d (BitVec.ofInt 64 (x.toInt / 2 ^ n.toNat))) ∧
      Completes 1 (.rotri h d a n) s (xset s d
        (BitVec.ofNat 64 (x.toNat / 2 ^ n.toNat + x.toNat * 2 ^ (64 - n.toNat)))) ∧
      Completes 1 (.mini h d a imm) s (xset s d (if x.toInt ≤ y.toInt then x else y)) ∧
      Completes 1 (.maxi h d a imm) s (xset s d (if x.toInt ≥ y.toInt then x else y)) ∧
      Completes 1 (.minui h d a imm) s (xset s d (if x.toNat ≤ u.toNat then x else u)) ∧
      Completes 1 (.maxui h d a imm) s (xset s d (if x.toNat ≥ u.toNat then x else u)) ∧
      Completes 1 (.mov h d a) s (xset s d x)) ∧
    (Ready infoCM h { xw := [d] } s → Completes 1 (.li h d imm) s (xset s d y)) ∧
    (Ready { infoCM with words := 2 } h { xw := [d] } s → Completes 2 (.liw h d lit) s (xset s d lit))

/-- R261 to R263: CMP and CMPI write the condition of Table 10.4 into a predicate, PLOG the bit of its table that three
predicates name, and PSET writes the predicates that its enables name. -/
def Obligations.PredicateWrites : Prop :=
  ∀ (h : Hdr) (c : Cond) (d p q r : PReg) (a b : XReg) (imm : BitVec 18) (tt : BitVec 8) (vals en : BitVec 7) (s : State),
    let x := xget s a
    let y := xget s b
    let z : Word := imm.signExtend 64
    let holds (c : Cond) (x y : Word) : Bool :=
      match c with
      | .eq => decide (x = y)
      | .ne => decide (x ≠ y)
      | .lt => decide (x.toInt < y.toInt)
      | .ge => decide (x.toInt ≥ y.toInt)
      | .ltu => decide (x.toNat < y.toNat)
      | .geu => decide (x.toNat ≥ y.toNat)
      | .le => decide (x.toInt ≤ y.toInt)
      | .gt => decide (x.toInt > y.toInt)
      | .leu => decide (x.toNat ≤ y.toNat)
      | .gtu => decide (x.toNat > y.toNat)
      | .uo => false
      | .ord => false
    (Ready infoCM h { xr := [a, b], pw := [d] } s → Completes 1 (.cmp h c d a b) s (pset s d (holds c x y))) ∧
    (Ready infoCM h { xr := [a], pw := [d] } s → Completes 1 (.cmpi h c d a imm) s (pset s d (holds c x z))) ∧
    (Ready infoCM h { pr := [p, q, r], pw := [d] } s →
      Completes 1 (.plog h d p q r tt) s
        (pset s d (tt.getLsbD (4 * (pget s p).toNat + 2 * (pget s q).toNat + (pget s r).toNat)))) ∧
    (Ready infoCM h {} s →
      ∃ t, Completes 1 (.pset h vals en) s t ∧ bare (setThr t { thr t with p := (thr s).p }) = bare s ∧
        ∀ n : PReg, n ≠ 0 → pget t n = if en.getLsbD (n.toNat - 1) then vals.getLsbD (n.toNat - 1) else pget s n)

/-- R193, R1: a write to x0 or to p0 is discarded, x0 reads zero and p0 reads true; every other register holds what was last
written to it. -/
def Obligations.ScalarRegisters : Prop :=
  ∀ (t : Thread) (r q : XReg) (w : Word) (m n : PReg) (b : Bool),
    t.xget 0 = 0 ∧ t.pget 0 = true ∧ t.xset 0 w = t ∧ t.pset 0 b = t ∧
    (r ≠ 0 → (t.xset r w).xget r = w) ∧ (q ≠ r → (t.xset r w).xget q = t.xget q) ∧
    (n ≠ 0 → (t.pset n b).pget n = b) ∧ (m ≠ n → (t.pset n b).pget m = t.pget m) ∧
    (∀ p, (t.xset r w).pget p = t.pget p) ∧ (∀ x, (t.pset n b).xget x = t.xget x)

/-! ## Control transfer, gangs and sleep -/

/-- R264, R265, Table 13.3: each transfer enters the block at its target and writes its link or counter; the target of CALLX is
read before its link is written; LOOP falls through when its counter comes to 0; NOP has no effect.
R264: a transfer whose target is no header takes the branch-target fault at its own boundary, with TRAP_ADDR the target and
nothing written. -/
def Obligations.Transfers : Prop :=
  (∀ (h : Hdr) (d a : XReg) (imm : BitVec 18) (s : State),
     let pc := (thr s).pc
     let rel : Word := pc + 8 * imm.signExtend 64
     let n := xget s d - 1
     let header (t : Word) : Prop := headerAt s s.me (thr s) t ≠ some false
     (Ready infoJump h {} s → header rel → Jumps (.br h imm) s s rel) ∧
     (Ready infoJump h { xr := [a] } s → header (xget s a) → Jumps (.brx h a) s s (xget s a) ∧ Jumps (.ret h a) s s (xget s a)) ∧
     (Ready infoJump h { xw := [d] } s → header rel → Jumps (.call h d imm) s (xset s d (pc + 8)) rel) ∧
     (Ready infoJump h { xr := [a], xw := [d] } s → header (xget s a) →
       Jumps (.callx h d a) s (xset s d (pc + 8)) (xget s a)) ∧
     (Ready infoJump h { xr := [d], xw := [d] } s → n ≠ 0 → header rel → Jumps (.loop h d imm) s (xset s d n) rel) ∧
     (Ready infoCM h { xr := [d], xw := [d] } s → n = 0 → Completes 1 (.loop h d imm) s (xset s d 0)) ∧
     (Ready infoCM h {} s → Completes 1 (.nop h) s s)) ∧
  (∀ (h : Hdr) (d a : XReg) (imm : BitVec 18) (s : State),
     let rel : Word := (thr s).pc + 8 * imm.signExtend 64
     let bad (t : Word) : Prop := headerAt s s.me (thr s) t = some false
     (Ready infoJump h {} s → bad rel → Traps (.br h imm) s causeBranchTarget rel) ∧
     (Ready infoJump h { xr := [a] } s → bad (xget s a) →
       Traps (.brx h a) s causeBranchTarget (xget s a) ∧ Traps (.ret h a) s causeBranchTarget (xget s a)) ∧
     (Ready infoJump h { xw := [d] } s → bad rel → Traps (.call h d imm) s causeBranchTarget rel) ∧
     (Ready infoJump h { xr := [a], xw := [d] } s → bad (xget s a) → Traps (.callx h d a) s causeBranchTarget (xget s a)) ∧
     (Ready infoJump h { xr := [d], xw := [d] } s → xget s d ≠ 1 → bad rel → Traps (.loop h d imm) s causeBranchTarget rel))

/-- R267, R268, R43, R45: outside a gang a FUSE with an illegal operand takes the gang-operand fault; a FUSE of the issuing core
alone, or of its present gang, completes at once with no effect; any other waits in FUSE. A SPLIT outside a gang has no
effect.
R269: SLEEP answers 1 and clears the wake latch where it is set; answers 0 where the deadline has come; else the thread waits,
and nothing else changes. SLEEP_DEADLINE moves time to the deadline, and the core goes on with 0 in d; a wake that arrives ends
the sleep with 1. R255: a timer trap that is due at the deadline or before it comes before the instruction, which goes on waiting. -/
def Obligations.FuseSplitAndSleep : Prop :=
  (∀ (h : Hdr) (m : BitVec 8) (s : State),
     (Ready infoC h {} s → fuseLegal m s = false → Traps (.fuse h m) s causeGang 0) ∧
     (Ready infoC h {} s → fuseLegal m s = true → m = (1 : BitVec 8) <<< omiOf s.me ∨ m = s.core.gang →
       Completes 1 (.fuse h m) s s) ∧
     (Ready infoC h {} s → fuseLegal m s = true → (maskCores s.me m).length > 1 → m ≠ s.core.gang →
       ∃ r, Parks (.fuse h m) s r ∧ (thr r).wait = .fuse m ∧ bare r = bare (setThr s { thr s with waitFrom := (thr r).waitFrom })) ∧
     (Ready infoC h {} s → (maskCores s.me s.core.gang).length ≤ 1 → Completes 1 (.split h) s s)) ∧
  (∀ (h : Hdr) (d a : XReg) (s : State),
     (Ready infoC h { xr := [a], xw := [d] } s → s.core.wake = true →
       Completes 1 (.sleep h d a) s (xset { s with core := { s.core with wake := false } } d 1)) ∧
     (Ready infoC h { xr := [a], xw := [d] } s → s.core.wake = false → (xget s a).toNat ≤ s.dev.time →
       Completes 1 (.sleep h d a) s (xset s d 0)) ∧
     (Ready infoC h { xr := [a], xw := [d] } s → s.core.wake = false → s.dev.time < (xget s a).toNat →
       Parks (.sleep h d a) s (setThr s { thr s with wait := .sleep d (xget s a), waitFrom := s.dev.time })) ∧
     (∀ dl, s.core.ct.wait = .sleep d dl → d ≠ 0 → s.core.wake = false →
       s.core.ct.priv = true ∨ (dl.toNat < s.core.timerCmp.toNat ∧ s.dev.time < s.core.timerCmp.toNat) →
       ∃ t, exec (.sleepDeadline s.me) s = .next t ∧ dl.toNat ≤ t.dev.time ∧ s.dev.time ≤ t.dev.time ∧ t.core.ct.wait = .none ∧
         t.core.ct.xget d = 0 ∧ t.core.ct.pc = s.core.ct.pc + 8 ∧ t.mem = s.mem) ∧
     (∀ dl, s.core.ct.wait = .sleep d dl → s.core.ct.priv = false → s.core.timerCmp.toNat ≤ dl.toNat →
       ∃ t, exec (.sleepDeadline s.me) s = .next t ∧ s.core.timerCmp.toNat ≤ t.dev.time ∧ t.core = s.core ∧ t.mem = s.mem) ∧
     (∀ dl, s.core.ct.wait = .sleep d dl → d ≠ 0 → s.core.stopped = false → s.core.contained = false →
       s.core.dbg.halted = false → (blockAt s (blockOf s.me)).gated = false → timerDue s s.core = false →
       ∃ t, exec (.wakeArrival s.me) s = .next t ∧ t.core.ct.wait = .none ∧ t.core.ct.xget d = 1 ∧ t.core.wake = false ∧
         t.core.ct.pc = s.core.ct.pc + 8) ∧
     (s.core.ct.wait = .none → s.core.stopped = false → s.core.contained = false → s.core.dbg.halted = false →
       (blockAt s (blockOf s.me)).gated = false →
       exec (.wakeArrival s.me) s = .next { s with core := { s.core with wake := true } }))

/-! ## Traps and system registers -/

/-- R254: what a trap does to the registers of its thread. TRAP_CAUSE takes the cause and the state before, TRAP_PC the boundary,
TRAP_ADDR the address, TRAP_BLK the boundary where that is a header or no block was entered and the present block's header
otherwise; the thread is privileged and enters the block whose header lies at TRAP_VEC. The other thread's registers, which are
banked, and everything else keep their values. -/
def Obligations.TrapEntryRegisters : Prop :=
  ∀ (s : State) (cause : BitVec 16) (pc addr : Word) (hdr : Bool),
    let t := takeTrap s cause pc hdr addr
    let low : Word := 0x00FF_FFFF_FFFF_FFF8
    (thr t).trapPp = (thr s).priv ∧ (thr t).trapCause = cause ∧ (thr t).trapPc = pc &&& low ∧ (thr t).trapAddr = addr ∧
    (thr t).trapBlk = (if hdr = true ∨ (thr s).entered = false then pc else (thr s).blk) &&& low ∧
    (thr t).trapVec = (thr s).trapVec ∧ (thr t).priv = true ∧ (thr t).pc = (thr s).trapVec ∧ (thr t).entry = .handler ∧
    (∀ r, xget t r = xget s r) ∧ (∀ n, pget t n = pget s n) ∧
    (if s.onMt then t.core.ct = s.core.ct else t.core.mt = s.core.mt) ∧
    t.core.v = s.core.v ∧ t.core.k = s.core.k ∧ t.core.t = s.core.t ∧ t.core.a = s.core.a ∧ t.core.h = s.core.h ∧
    t.core.tshape = s.core.tshape ∧ t.mem = s.mem ∧ t.cores = s.cores ∧ t.dev = s.dev ∧ t.net = s.net ∧ t.blocks = s.blocks ∧
    t.ctxs = s.ctxs

/-- R270, R427: TRAP traps at the boundary after itself with its immediate in TRAP_ADDR; so does BKPT where the debug module has no
instruction breakpoints enabled, and else the core is to halt before it, with reason 4.
R271: TRET gives the thread the state that TRAP_CAUSE.pp holds and the program counter of TRAP_PC; where the word there is a
header the thread enters its block, and otherwise it resumes in the block that TRAP_BLK names. In task state TRET takes the
privilege fault. -/
def Obligations.TrapsAndReturns : Prop :=
  (∀ (h : Hdr) (imm : BitVec 18) (s : State),
     let low : Word := 0x00FF_FFFF_FFFF_FFF8
     let next := (thr s).pc + 8
     let traps (i : Instr) (cause : BitVec 16) : Prop := ∃ t, exec i s = .next t ∧
       bare t = bare (takeTrap s cause next (endsBlock s s.me s.onMt 1) (imm.setWidth 64)) ∧
       (thr t).trapCause = cause ∧ (thr t).trapPc = next &&& low ∧ (thr t).trapAddr = imm.setWidth 64 ∧
       (thr t).trapPp = (thr s).priv ∧ (thr t).priv = true ∧ (thr t).pc = (thr s).trapVec ∧
       (endsBlock s s.me s.onMt 1 = true → (thr t).trapBlk = (thr t).trapPc) ∧
       (endsBlock s s.me s.onMt 1 = false → (thr s).entered = true → (thr t).trapBlk = (thr s).blk &&& low)
     (Ready infoJump h {} s → traps (.trap h imm) 0x30) ∧
     (Ready infoJump h {} s → s.core.dbg.ctl.getLsbD 34 = false → traps (.bkpt h imm) 0x31) ∧
     (Ready infoJump h {} s → s.core.dbg.ctl.getLsbD 34 = true →
       ∃ t, exec (.bkpt h imm) s = .next t ∧ bare t = bare s ∧ thr t = thr s ∧ t.core.dbg.pendHalt = some 4)) ∧
  (∀ (h : Hdr) (s : State),
     let info : Info := { infoCM with priv := true, transfer := true }
     (Ready info h {} s →
       ∃ t, exec (.tret h) s = .next t ∧ (thr t).priv = (thr s).trapPp ∧ (thr t).pc = (thr s).trapPc ∧
         (thr t).entry = (if returnsToHeader s then .header else .word) ∧
         (thr t).blk = (if returnsToHeader s then (thr s).blk else (thr s).trapBlk) ∧
         (∀ r, xget t r = xget s r) ∧ (∀ n, pget t n = pget s n) ∧ (thr t).trapVec = (thr s).trapVec ∧
         (thr t).trapCause = (thr s).trapCause ∧ t.mem = s.mem ∧ t.core.v = s.core.v ∧ t.cores = s.cores) ∧
     ((issueSet s).length ≤ 1 → (thr s).priv = false →
       ∃ t, exec (.tret h) s = .next t ∧ (thr t).trapCause = 3 ∧ (thr t).trapPc = wordAddr (thr s).pc ∧ (thr t).priv = true))

/-- R272, R273, R276, Tables 13.6 and 13.7: SRD, TIME and CYC write the register's value into d, with the layout of its fields, those
of PIN_QUOTA (Table 4.3), SHADOW_QUOTA (Table 7.3) and SIDELOG_STAT (Table 26.3) among them; CYCLE counts from the task's start (R274).
R272, R3, Table 13.7: SWR writes the writable fields of a register that a state may write and SXCH also writes the old value into d, the
operand being read first; reserved fields keep their values. SWR and SXCH of a register that is read-only in both states take the
illegal-operand fault. -/
def Obligations.SystemRegisters : Prop :=
  (∀ (h : Hdr) (d : XReg) (s : State),
     (∀ sr : SysReg, Ready { infoCM with priv := sr.readPriv } h { xw := [d] } s →
       Completes 1 (.srd h d sr) s (xset s d (sysRead s sr))) ∧
     (Ready infoCM h { xw := [d] } s →
       Completes 1 (.time h d) s (xset s d (sysRead s .time)) ∧ Completes 1 (.cyc h d) s (xset s d (sysRead s .cycle))) ∧
     (s.me < 2 ^ 20 →
       (sysRead s .coreId).extractLsb' 0 20 = BitVec.ofNat 20 s.me ∧
       (sysRead s .coreId).extractLsb' 20 8 = BitVec.ofNat 8 (s.me / 1024 / 64 * 16 + s.me % 1024 / 64) ∧
       (sysRead s .coreId).extractLsb' 28 3 = BitVec.ofNat 3 (s.me / 1024 % 2 * 4 + s.me % 4) ∧
       (sysRead s .coreId).getLsbD 31 = s.onMt ∧ (sysRead s .coreId).extractLsb' 32 32 = 0) ∧
     sysRead s .membership = s.core.membership ∧ sysRead s .launchRect = s.core.launchRect ∧
     sysRead s .time = BitVec.ofNat 64 s.dev.time ∧ sysRead s .seedTop = s.core.seed.setWidth 64 ∧
     sysRead s .tdtBase = s.core.tdtBase ∧ sysRead s .timerCmp = s.core.timerCmp ∧ sysRead s .cntBase = s.core.cntBase ∧
     (sysRead s .mqWeight).extractLsb' 0 4 = s.core.mqWeight ∧
     (sysRead s .blocks).extractLsb' 32 32 = BitVec.ofNat 32 s.dev.gen ∧
     (s.dev.nblocks ≤ 256 →
       (sysRead s .blocks).extractLsb' 0 9 = BitVec.ofNat 9 s.dev.nblocks ∧ (sysRead s .blocks).extractLsb' 9 23 = 0) ∧
     (∀ asid c, s.core.ctx = some asid → ctxOf s asid = some c → asid < 2 ^ 16 → c.slot < 64 → s.me < 2 ^ 20 →
       (sysRead s .ctxId).extractLsb' 0 16 = BitVec.ofNat 16 asid ∧ (sysRead s .ctxId).extractLsb' 16 6 = BitVec.ofNat 6 c.slot ∧
       (sysRead s .ctxId).extractLsb' 22 42 = 0 ∧
       (sysRead s .pinQuota).extractLsb' 32 32 = BitVec.ofNat 32 c.pinUsed ∧
       (sysRead s .pinQuota).extractLsb' 0 32 = BitVec.ofNat 32 c.tab.pinlim ∧
       (sysRead s .shadowQuota).extractLsb' 32 32 = BitVec.ofNat 32 c.shUsed ∧
       (sysRead s .shadowQuota).extractLsb' 0 32 = BitVec.ofNat 32 c.tab.shlim) ∧
     (s.me < 2 ^ 20 →
       let log := (accsOf s s.me s.onMt).filter Access.logged
       let r := sysRead s .sidelogStat
       log.length ≤ 64 → (thr s).slots.length ≤ 8 →
       (r.extractLsb' 0 7).toNat = log.length ∧ r.getLsbD 7 = false ∧ r.extractLsb' 17 23 = 0 ∧
       (r.extractLsb' 8 8).toNat = ((thr s).slots.filter (fun x =>
         x.counts && (accsOf s s.me s.onMt).any (fun a => a.isHeld && a.slot == x.id))).length ∧
       r.getLsbD 16 = (logFull s s.me && (accsOf s s.me s.onMt).any (fun a => a.op.logs && a.queued)) ∧
       (log = [] → r.extractLsb' 40 24 = 0) ∧
       (∀ a rest c, log = a :: rest → a.stage = .logged c →
         r.extractLsb' 48 16 = c ∧ r.extractLsb' 40 8 = BitVec.ofNat 8 (blockOf s.me))) ∧
     sysRead s .cycle = BitVec.ofNat 64 (cycleNow s (blockOf s.me) - s.core.cycleFrom) ∧
     sysRead s .trapVec = (thr s).trapVec ∧ sysRead s .trapPc = (thr s).trapPc ∧ sysRead s .trapAddr = (thr s).trapAddr ∧
     sysRead s .trapBlk = (thr s).trapBlk ∧
     (sysRead s .trapCause).getLsbD 63 = (thr s).trapPp ∧ (sysRead s .trapCause).getLsbD 62 = (thr s).priv ∧
     (sysRead s .trapCause).extractLsb' 0 16 = (thr s).trapCause ∧ (sysRead s .trapCause).extractLsb' 16 46 = 0 ∧
     (∀ n : BitVec 2, sysRead s (.tshape n) = s.core.tshape[n.toNat]'n.isLt)) ∧
  (∀ (h : Hdr) (d a : XReg) (s : State),
     (∀ sr : SysReg, sr.writable = true → Ready { infoCM with priv := sr.writePriv } h { xr := [a] } s →
       Completes 1 (.swr h a sr) s (sysWrite s sr (xget s a))) ∧
     (∀ sr : SysReg, sr.writable = true → Ready { infoCM with priv := sr.readPriv || sr.writePriv } h { xr := [a], xw := [d] } s →
       Completes 1 (.sxch h d a sr) s (sysWrite (xset s d (sysRead s sr)) sr (xget s a))) ∧
     (∀ sr w, sr.writable = false → h.wf = true → encode (.swr h a sr) = [w] ∨ encode (.sxch h d a sr) = [w] →
       decodeWord w none = .error .illegalOperand ∧ ∀ mt priv, decodeFault mt priv w .illegalOperand = causeIllegalOperand) ∧
     ∀ v : Word,
       sysRead (sysWrite s .tdtBase v) .tdtBase = v &&& 0x00FF_FFFF_FFFF_C000 ∧
       sysRead (sysWrite s .mqWeight v) .mqWeight =
         (if v.extractLsb' 0 4 = 0 then 1 else if 8 < (v.extractLsb' 0 4).toNat then 8 else (v.extractLsb' 0 4).setWidth 64) ∧
       sysRead (sysWrite s .trapVec v) .trapVec = v &&& 0x00FF_FFFF_FFFF_FFF8 ∧
       sysRead (sysWrite s .trapPc v) .trapPc = v &&& 0x00FF_FFFF_FFFF_FFF8 ∧
       sysRead (sysWrite s .trapBlk v) .trapBlk = v &&& 0x00FF_FFFF_FFFF_FFF8 ∧
       sysRead (sysWrite s .trapAddr v) .trapAddr = v ∧ sysRead (sysWrite s .timerCmp v) .timerCmp = v ∧
       sysRead (sysWrite s .cntBase v) .cntBase = v &&& 0x00FF_FFFF_FFFF_FFF9 ∧
       (∀ n : BitVec 2, sysRead (sysWrite s (.tshape n) v) (.tshape n) = v &&& 0x00FF_FF0F) ∧
       (thr (sysWrite s .trapCause v)).trapPp = v.getLsbD 63 ∧ (thr (sysWrite s .trapCause v)).priv = (thr s).priv ∧
       (thr (sysWrite s .trapCause v)).trapCause = v.extractLsb' 0 16 ∧
       (∀ sr : SysReg, (∀ r, xget (sysWrite s sr v) r = xget s r) ∧ (∀ n, pget (sysWrite s sr v) n = pget s n) ∧
         (sysWrite s sr v).mem = s.mem ∧ (sysWrite s sr v).cores = s.cores ∧ (sysWrite s sr v).dev = s.dev))

/-- R205, R210, R253, Table 10.9 (checks 2 and 3): whichever instruction of the 185 it is, one whose thread Table 10.10 does not
list takes the illegal-thread fault, whatever its guards and operands are: nothing of it is performed, and where the thread's block is
in its buffer, with w the word at its program counter, TRAP_ADDR is w (R442). -/
def Obligations.WrongThreadTakesTheFault : Prop :=
  ∀ (i : Instr) (w : Word) (s : State),
    (encode i).head? = some w → (issueSet s).length ≤ 1 →
    (if s.onMt then (threadsOfOp (w.extractLsb' 54 10)).movement else (threadsOfOp (w.extractLsb' 54 10)).compute) = false →
    ∃ addr, exec i s = .next (takeTrap s causeIllegalThread (thr s).pc ((thr s).entry != .word) addr) ∧
      ∀ lit, wordsAt s s.me s.onMt = some (w, lit) → (thr s).blk.toNat ≤ (thr s).pc.toNat → addr = w

/-- R194: whichever instruction of the 185 it is, one that its thread and its state may issue and whose guards are not both true
changes nothing but the records of its issue, and the thread goes on after its words, which a header follows if they end the
block. A thread with loads outstanding may wait at it for one of its registers instead, and then nothing changes. -/
def Obligations.FalseGuardHasNoEffect : Prop :=
  ∀ (i : Instr) (w : Word) (s : State),
    (encode i).head? = some w → (issueSet s).length ≤ 1 →
    (if s.onMt then (threadsOfOp (w.extractLsb' 54 10)).movement else (threadsOfOp (w.extractLsb' 54 10)).compute) = true →
    (privDenied w = true → (thr s).priv = true) → s.core.pPoison = 0 →
    guardBit (thr s) (w.extractLsb' 16 4) = false ∨ guardBit (thr s) (w.extractLsb' 12 4) = false →
    badFall s (encode i).length = none →
    Completes (encode i).length i s s ∨ ((thr s).slots ≠ [] ∧ exec i s = .next s)

/-! ## Vector and mask instructions (spec 14) -/

/-- R278, R283, Table 14.1: VADD, VSUB and VMUL, with both kinds of second source. For an integer type a selected lane takes the exact
result, wrapped or clamped to the type under .SAT; for a floating type it takes the exact result rounded once, the dither taking the
lane's number mod 64. -/
def Obligations.VectorSumsAndProducts : Prop :=
  ∀ (h : Hdr) (ty : Ty) (r : Rnd) (d a : VReg) (b : VX) (e : Option KReg) (s : State),
    (Instr.vadd h ty r d a b e).wf = true → Ready infoC h (usesV d (a :: kept d e) b e) s →
    let x (i : Nat) := lane (vget s a) ty i
    let y (i : Nat) := srcLane s b ty i
    let fit (n : Int) : Nat := wrapInt ty.width (if r.sat then clampInt ty n else n)
    (ty.inIA = true →
      LanesBecome 1 (.vadd h ty r d a b e) s d ty ty.lanes e (fun i => fit (intOf ty (x i) + intOf ty (y i))) ∧
      LanesBecome 1 (.vsub h ty r d a b e) s d ty ty.lanes e (fun i => fit (intOf ty (x i) - intOf ty (y i))) ∧
      LanesBecome 1 (.vmul h ty r d a b e) s d ty ty.lanes e (fun i => fit (intOf ty (x i) * intOf ty (y i)))) ∧
    (ty.inFA = true →
      LanesBecome 1 (.vadd h ty r d a b e) s d ty ty.lanes e
        (fun i => roundReal ty r (i % 64) (Real.sum [decodeReal ty (x i), decodeReal ty (y i)])) ∧
      LanesBecome 1 (.vsub h ty r d a b e) s d ty ty.lanes e
        (fun i => roundReal ty r (i % 64) (Real.sum [decodeReal ty (x i), (decodeReal ty (y i)).neg])) ∧
      LanesBecome 1 (.vmul h ty r d a b e) s d ty ty.lanes e
        (fun i => roundReal ty r (i % 64) (Real.mul (decodeReal ty (x i)) (decodeReal ty (y i)))))

/-- R278, R283: the fused forms, each rounded once: VFMA is a × b + c, VFMS is a × b − c, VFNMA is c − a × b. -/
def Obligations.VectorFusedForms : Prop :=
  ∀ (h : Hdr) (ty : Ty) (r : Rnd) (d a : VReg) (b : VX) (c : VReg) (e : Option KReg) (s : State),
    (Instr.vfma h ty r d a b c e).wf = true → Ready infoC h (usesV d (a :: c :: kept d e) b e) s →
    let p (i : Nat) := Real.mul (decodeReal ty (lane (vget s a) ty i)) (decodeReal ty (srcLane s b ty i))
    let z (i : Nat) := decodeReal ty (lane (vget s c) ty i)
    LanesBecome 1 (.vfma h ty r d a b c e) s d ty ty.lanes e (fun i => roundReal ty r (i % 64) (Real.sum [p i, z i])) ∧
    LanesBecome 1 (.vfms h ty r d a b c e) s d ty ty.lanes e (fun i => roundReal ty r (i % 64) (Real.sum [p i, (z i).neg])) ∧
    LanesBecome 1 (.vfnma h ty r d a b c e) s d ty ty.lanes e (fun i => roundReal ty r (i % 64) (Real.sum [z i, (p i).neg]))

/-- R284: VMIN and VMAX of an integer type take the smaller and the larger value; of a floating type the smaller and the larger exact
value, NaN for a NaN operand. VABS and VNEG of an integer type wrap, or saturate under .SAT. VCPYS takes the magnitude of a and the sign
of b, and the canonical NaN where a is NaN. -/
def Obligations.VectorExtremesAndSigns : Prop :=
  ∀ (h : Hdr) (ty : Ty) (sat : Bool) (d a : VReg) (b : VX) (e : Option KReg) (s : State),
    let x (i : Nat) := lane (vget s a) ty i
    let y (i : Nat) := srcLane s b ty i
    let fit (n : Int) : Nat := wrapInt ty.width (if sat then clampInt ty n else n)
    let two := Ready infoC h (usesV d (a :: kept d e) b e) s
    let one := Ready infoC h { vr := a :: kept d e, vw := [d], kr := optReg e } s
    (two → (Instr.vmin h ty d a b e).wf = true → ty.inIA = true →
      LanesBecome 1 (.vmin h ty d a b e) s d ty ty.lanes e (fun i => if intOf ty (x i) ≤ intOf ty (y i) then x i else y i) ∧
      LanesBecome 1 (.vmax h ty d a b e) s d ty ty.lanes e (fun i => if intOf ty (y i) ≤ intOf ty (x i) then x i else y i)) ∧
    (two → (Instr.vmin h ty d a b e).wf = true → ty.inFA = true →
      LanesBecome 1 (.vmin h ty d a b e) s d ty ty.lanes e
        (fun i => roundReal ty rne 0 (minReal (decodeReal ty (x i)) (decodeReal ty (y i)))) ∧
      LanesBecome 1 (.vmax h ty d a b e) s d ty ty.lanes e
        (fun i => roundReal ty rne 0 (maxReal (decodeReal ty (x i)) (decodeReal ty (y i)))) ∧
      LanesBecome 1 (.vcpys h ty d a b e) s d ty ty.lanes e
        (fun i => if (decodeReal ty (x i)).isNan then (fmtOf ty).canon
          else x i % 2 ^ (ty.width - 1) + y i / 2 ^ (ty.width - 1) * 2 ^ (ty.width - 1))) ∧
    (one → (Instr.vabs h ty sat d a e).wf = true →
      (ty.isInt = true →
        LanesBecome 1 (.vabs h ty sat d a e) s d ty ty.lanes e (fun i => fit (intOf ty (x i)).natAbs) ∧
        LanesBecome 1 (.vneg h ty sat d a e) s d ty ty.lanes e (fun i => fit (-intOf ty (x i)))) ∧
      (ty.inFA = true →
        LanesBecome 1 (.vabs h ty sat d a e) s d ty ty.lanes e (fun i => roundReal ty rne (i % 64) (decodeReal ty (x i)).abs) ∧
        LanesBecome 1 (.vneg h ty sat d a e) s d ty ty.lanes e (fun i => roundReal ty rne (i % 64) (decodeReal ty (x i)).neg)))

/-- R284: the bit operations of lanes, and the shifts by the lane of b, where a count of the width or more shifts everything out; VSAR
shifts in the sign bit. -/
def Obligations.VectorLogicAndShifts : Prop :=
  ∀ (h : Hdr) (ty : Ty) (d a : VReg) (b : VX) (e : Option KReg) (s : State),
    let x (i : Nat) := lane (vget s a) ty i
    let y (i : Nat) := srcLane s b ty i
    let w := ty.width
    let signed (n : Nat) : Int := if 2 ^ (w - 1) ≤ n then (n : Int) - 2 ^ w else n
    (Ready infoC h (usesV d (a :: kept d e) b e) s →
      LanesBecome 1 (.vand h ty d a b e) s d ty ty.lanes e (fun i => x i &&& y i) ∧
      LanesBecome 1 (.vor h ty d a b e) s d ty ty.lanes e (fun i => x i ||| y i) ∧
      LanesBecome 1 (.vxor h ty d a b e) s d ty ty.lanes e (fun i => x i ^^^ y i) ∧
      LanesBecome 1 (.vshl h ty d a b e) s d ty ty.lanes e (fun i => x i * 2 ^ y i) ∧
      LanesBecome 1 (.vshr h ty d a b e) s d ty ty.lanes e (fun i => x i / 2 ^ y i) ∧
      LanesBecome 1 (.vsar h ty d a b e) s d ty ty.lanes e (fun i => wrapInt w (signed (x i) / 2 ^ y i))) ∧
    (Ready infoC h { vr := a :: kept d e, vw := [d], kr := optReg e } s →
      LanesBecome 1 (.vnot h ty d a e) s d ty ty.lanes e (fun i => 2 ^ w - 1 - x i) ∧
      LanesBecome 1 (.vmov h ty d a e) s d ty ty.lanes e x)

/-- R285 to R287, R299: VCMP writes the bits of selected lanes, keeps those of the others and clears those above the lanes; VSEL chooses
by a mask; VCLASS looks the class of each lane up in its immediate; KLOG applies its truth table bit by bit; KPOP counts; KFIRST finds the
lowest set bit, 1024 for none. -/
def Obligations.MasksAndSelection : Prop :=
  ∀ (h : Hdr) (ty : Ty) (cond : Cond) (d : VReg) (k l m n : KReg) (x : XReg) (a b : VReg) (src : VX) (e : Option KReg)
    (imm : BitVec 9) (tt : BitVec 8) (s : State),
    let cmp (i : Nat) : Bool := if ty.isInt then condLane ty cond (lane (vget s a) ty i) (srcLane s src ty i)
      else condReal cond (decodeReal ty (lane (vget s a) ty i)) (decodeReal ty (srcLane s src ty i))
    (Ready infoC h { vr := a :: vxV src, xr := vxX src, kr := kept k e ++ optReg e, kw := [k] } s →
      ∃ v : MaskVal, Completes 1 (.vcmp h ty cond k a src e) s (kset s k v) ∧
        ∀ i, v.getLsbD i = (decide (i < ty.lanes) && if selLane s e i then cmp i else (kget s k).getLsbD i)) ∧
    (Ready infoC h { vr := [a, b], kr := [k], vw := [d] } s →
      LanesBecome 1 (.vsel h ty d a b k) s d ty ty.lanes none
        (fun i => if (kget s k).getLsbD i then lane (vget s a) ty i else lane (vget s b) ty i)) ∧
    (Ready infoC h { vr := [a], kw := [k] } s →
      ∃ v : MaskVal, Completes 1 (.vclass h ty k a imm) s (kset s k v) ∧
        ∀ i, v.getLsbD i = (decide (i < ty.lanes) && imm.getLsbD (classOf ty (lane (vget s a) ty i)))) ∧
    (Ready infoC h { kr := [l, m, n], kw := [k] } s →
      ∃ v : MaskVal, Completes 1 (.klog h k l m n tt) s (kset s k v) ∧
        ∀ i < 1024, v.getLsbD i = tt.getLsbD
          (4 * ((kget s l).getLsbD i).toNat + 2 * ((kget s m).getLsbD i).toNat + ((kget s n).getLsbD i).toNat)) ∧
    (Ready infoC h { kr := [k], xw := [x] } s →
      ∃ c f : Word, Completes 1 (.kpop h x k) s (xset s x c) ∧ Completes 1 (.kfirst h x k) s (xset s x f) ∧
        c.toNat = ((List.range 1024).filter (fun i => (kget s k).getLsbD i)).length ∧
        (kget s k = 0 → f.toNat = 1024) ∧
        (kget s k ≠ 0 → (kget s k).getLsbD f.toNat = true ∧ ∀ i < f.toNat, (kget s k).getLsbD i = false))

/-- R288, R290: VCVT converts the lanes that both types have, rounding once; VNRW takes lane ki + j of d from lane i of v(a + j), where k
is the ratio of the widths. What decoding and rounding mean here and in the other statements, as R163 to R170 say it: the lanes of a
register; the value of each bit pattern, by the parameters of Table 9.2; and the pattern that a value x = m × 2^e rounds to, where p is the
pattern next below |x| and `up` says whether the mode takes the one next above: past the largest finite pattern `top`, the overflow result
of Table 9.4. A conversion into an integer type saturates; a lane of an integer result wraps, or is clamped under .SAT. -/
def Obligations.VectorConversions : Prop :=
  (∀ (v : VecVal) (ty : Ty) (i : Nat), lane v ty i = v.toNat / 2 ^ (ty.width * i) % 2 ^ ty.width) ∧
  (∀ n < 64, ∀ k < 6, (bitRev6 n).testBit k = n.testBit (5 - k)) ∧
  (∀ (ty : Ty) (r : Rnd) (pos : Nat) (neg : Bool), ty ∈ [Ty.f16, .bf16, .f32, .e4m3, .e5m2] →
    let par : Nat × Nat × Nat × Nat := match ty with
      | .f16 => (5, 10, 15, 0x7E00)
      | .bf16 => (8, 7, 127, 0x7FC0)
      | .e5m2 => (5, 2, 15, 0x7E)
      | .e4m3 => (4, 3, 7, 0x7F)
      | _ => (8, 23, 127, 0x7FC0_0000)
    let fw := par.2.1
    let top : Nat := if ty = .e4m3 then 0x7E else (2 ^ par.1 - 1) * 2 ^ fw - 1
    let sgn : Nat := if neg then 2 ^ (ty.width - 1) else 0
    let mant (p : Nat) : Nat := if p < 2 ^ fw then p else 2 ^ fw + p % 2 ^ fw
    let expo (p : Nat) : Int := (max (p / 2 ^ fw) 1 : Nat) - (par.2.2.1 : Int) - fw
    let special : Nat := if ty = .e4m3 then 0x7F else sgn + top + 1
    let beyond : Nat := if r.sat = true then sgn + top else match r.mode, neg with
      | .rz, _ => sgn + top
      | .ru, true => sgn + top
      | .rd, false => sgn + top
      | _, _ => special
    (∀ p < 2 ^ (ty.width - 1),
      (p ≤ top → decodeReal ty (sgn + p) = .fin neg (mant p) (expo p)) ∧
      (p = top + 1 → decodeReal ty (sgn + p) = if ty = .e4m3 then .nan else .inf neg) ∧
      (top + 1 < p → decodeReal ty (sgn + p) = .nan)) ∧
    roundReal ty r pos .nan = par.2.2.2 ∧ roundReal ty r pos (.inf neg) = (if ty ≠ .e4m3 ∧ r.sat = false then special else beyond) ∧
    (∀ e, roundReal ty r pos (.fin neg 0 e) = sgn) ∧
    (∀ m e, roundReal ty r pos (.fin neg (2 * m) (e - 1)) = roundReal ty r pos (.fin neg m e)) ∧
    (∀ (p m : Nat) (e : Int), p ≤ top → 0 < m → e ≤ expo p →
      let gap := 2 ^ (expo p - e).toNat
      let rem := m - mant p * gap
      let up : Prop := 0 < rem ∧ match r.mode with
        | .rn => gap < 2 * rem ∨ 2 * rem = gap ∧ p % 2 = 1
        | .rz => False
        | .ru => neg = false
        | .rd => neg = true
        | .di => bitRev6 (pos % 64) * gap < 64 * rem
      (mant p * gap ≤ m → m < (mant p + 1) * gap →
        (¬ up → roundReal ty r pos (.fin neg m e) = sgn + p) ∧
        (up → roundReal ty r pos (.fin neg m e) = if p = top then beyond else sgn + p + 1)) ∧
      (p = top → (mant p + 1) * gap ≤ m → roundReal ty r pos (.fin neg m e) = beyond))) ∧
  (∀ (ty : Ty) (r : Rnd) (pos : Nat) (x : Nat) (n : Int),
    let w := ty.width
    let lo : Int := if ty.isSigned then -(2 ^ (w - 1) : Nat) else 0
    let hi : Int := if ty.isSigned then (2 ^ (w - 1) : Nat) - 1 else (2 ^ w : Nat) - 1
    let bits (n : Int) : Nat := (n % (2 ^ w : Nat)).toNat
    let clamp (n : Int) : Int := max lo (min hi n)
    (ty.isInt = true → x < 2 ^ w →
      exactOf ty x = Real.ofInt (if ty.isSigned = true ∧ 2 ^ (w - 1) ≤ x then (x : Int) - (2 ^ w : Nat) else x) ∧
      encodeLane ty r pos (Real.ofInt n) = bits (if r.sat then clamp n else n) ∧
      roundTo ty r pos .nan = 0 ∧ (∀ neg, roundTo ty r pos (.inf neg) = bits (if neg then lo else hi)) ∧
      (∀ neg m (e : Nat), roundTo ty r pos (.fin neg m e) = bits (clamp (if neg then -(m * 2 ^ e : Nat) else (m * 2 ^ e : Nat)))) ∧
      ∀ (neg : Bool) (m k : Nat),
        let q := m / 2 ^ k
        let rem := m % 2 ^ k
        let up : Prop := 0 < rem ∧ match r.mode with
          | .rn => 2 ^ k < 2 * rem ∨ 2 * rem = 2 ^ k ∧ q % 2 = 1
          | .rz => False
          | .ru => neg = false
          | .rd => neg = true
          | .di => bitRev6 (pos % 64) * 2 ^ k < 64 * rem
        let sign (n : Nat) : Int := if neg then -n else n
        (up → roundTo ty r pos (.fin neg m (-k)) = bits (clamp (sign (q + 1)))) ∧
        (¬ up → roundTo ty r pos (.fin neg m (-k)) = bits (clamp (sign q)))) ∧
    (ty.isInt = false → exactOf ty x = decodeReal ty x ∧ (∀ y, roundTo ty r pos y = roundReal ty r pos y) ∧
      ∀ y, encodeLane ty r pos y = roundReal ty r (pos % 64) y)) ∧
  ∀ (h : Hdr) (ty src : Ty) (r : Rnd) (d a : VReg) (e : Option KReg) (s : State),
    (Ready infoC h { vr := [a, d], vw := [d], kr := optReg e } s →
      LanesBecome 1 (.vcvt h ty src r d a e) s d ty (min ty.lanes src.lanes) e
        (fun i => roundTo ty r (i % 64) (exactOf src (lane (vget s a) src i)))) ∧
    ∀ k, narrowFactor ty src = some k → Ready infoC h { vr := regsFrom a k, vw := [d] } s →
      LanesBecome 1 (.vnrw h ty src r d a) s d ty ty.lanes none
        (fun n => roundTo ty r (n % 64) (exactOf src (lane (vget s (a + BitVec.ofNat 4 (n % k))) src (n / k))))

/-- R289: a widening instruction sends lane ki + j of its sources to lane i of v(d + j), in the wide type of Table 14.3: VWADD their sum,
VWMUL their product, VWFMA the product added to what the lane holds, rounded once. The other registers and everything else keep their
values. -/
def Obligations.WideningForms : Prop :=
  ∀ (h : Hdr) (ty w : Ty) (q : Bool) (d a : VReg) (b : VX) (s : State),
    ty.widen q = some w → (Instr.vwadd h ty q d a b).wf = true →
    Ready infoC h { vr := a :: vxV b ++ regsFrom d (widenBy q), xr := vxX b, vw := regsFrom d (widenBy q) } s →
    let k := if q then 4 else 2
    let x (i j : Nat) := exactOf ty (lane (vget s a) ty (k * i + j))
    let y (i j : Nat) := exactOf ty (srcLane s b ty (k * i + j))
    let old (i j : Nat) := exactOf w (lane (vget s (d + BitVec.ofNat 4 j)) w i)
    let becomes (ins : Instr) (f : Nat → Nat → Machine.Real) : Prop := ∃ t, Completes 1 ins s t ∧
      (∀ j < k, ∀ i < w.lanes, lane (vget t (d + BitVec.ofNat 4 j)) w i = encodeLane w rne i (f i j) % 2 ^ w.width) ∧
      (∀ r : VReg, (∀ j < k, r ≠ d + BitVec.ofNat 4 j) → vget t r = vget s r) ∧
      { t with core := { t.core with v := s.core.v } } = s
    becomes (.vwadd h ty q d a b) (fun i j => Real.sum [x i j, y i j]) ∧
    becomes (.vwmul h ty q d a b) (fun i j => Real.mul (x i j) (y i j)) ∧
    becomes (.vwfma h ty q d a b) (fun i j => Real.sum [Real.mul (x i j) (y i j), old i j])

/-- R182, R291, R293: VEXPR leaves in each lane of d what its token program leaves, and of two entries the lower in d and the top in
v(d + 1); it is two words long. The stack of a lane after the tokens is the one that the steps of Table 14.4 lead to from the empty
stack: an arithmetic token rounds once to F32 under RN, and the last one to ty under md. VSFU leaves in each selected lane the function of
its value, rounded once; the special values of Table 9.7 stand there, and of a value between two bounds the result is the rounding of a point next to the
lower one (DEDUCED, log 9: both bounds round alike for every operand). -/
def Obligations.ExpressionsAndFunctions : Prop :=
  ∀ (h : Hdr) (ty : Ty) (r : Rnd) (fn : Fn) (d a : VReg) (s1 s2 s3 s4 : Option VReg) (e : Option KReg) (lit : Word) (s : State),
    let result (i : Nat) := vexprLane ty r [s1, s2, s3, s4] lit s i
    let bits (i : Nat) (x : Option StackEnt) : Nat := entryBits ty r i (x.getD ⟨.nan, none⟩)
    let srcs := optReg s1 ++ optReg s2 ++ optReg s3 ++ optReg s4
    ((vexprScan lit).depth ≠ 2 → Ready { infoC with words := 2 } h { vr := srcs, vw := [d] } s →
      LanesBecome 2 (.vexpr h ty r d s1 s2 s3 s4 lit) s d ty ty.lanes none (fun i => bits i (result i)[0]?)) ∧
    ((vexprScan lit).depth = 2 → Ready { infoC with words := 2 } h { vr := srcs, vw := [d, d + 1] } s →
      ∃ lo hi : VecVal, Completes 2 (.vexpr h ty r d s1 s2 s3 s4 lit) s (vset (vset s d lo) (d + 1) hi) ∧
        ∀ i < ty.lanes, lane lo ty i = bits i (result i)[1]? % 2 ^ ty.width ∧ lane hi ty i = bits i (result i)[0]? % 2 ^ ty.width) ∧
    (Ready infoC h { vr := a :: kept d e, vw := [d], kr := optReg e } s →
      LanesBecome 1 (.vsfu h ty r fn d a e) s d ty ty.lanes e (fun i => sfuRound ty r (i % 64) fn (exactOf ty (lane (vget s a) ty i)))) ∧
    (∀ (i : Nat) (st : Nat → List StackEnt),
      let toks := (vexprBody (vexprTokens lit)).1
      let ins (k : Nat) : StackEnt := ⟨(([s1, s2, s3, s4].getD k none).map (fun v => exactOf ty (lane (vget s v) ty i))).getD .nan, none⟩
      let put (last : Bool) (f : Ty → Rnd → Nat → Nat) : StackEnt :=
        if last then ⟨exactOf ty (f ty r (i % 64)), some (f ty r (i % 64))⟩ else ⟨exactOf .f32 (f .f32 rne 0), none⟩
      st 0 = [] →
      (∀ j t, toks[j]? = some t →
        let last := !(toks.drop (j + 1)).any (fun u => decide (8 ≤ u))
        TokenStep ins (fun v => put last (fun t r p => roundReal t r p v)) (fun fn v => put last (fun t r p => sfuRound t r p fn v)) t
          (st j) (st (j + 1))) →
      result i = st toks.length) ∧
    (∀ p x y, specialValue fn x = some y → sfuRound ty r p fn x = roundReal ty r p y) ∧
    (∀ p x, (∃ y, sfuValue fn x = .exact y ∧ sfuRound ty r p fn x = roundReal ty r p y) ∨
      ∃ neg lo hi k, sfuValue fn x = .between neg lo hi k ∧
        sfuRound ty r p fn x = roundMag (fmtOf ty) r p neg (4 * lo + 1) (k - 2))

/-- R294 to R297: VRSUM leaves in lane 0 the exact sum of the selected lanes and of lane 0 of c, encoded once; VRMAX and VRMIN the largest
and the smallest of the selected lanes; all three keep the other lanes. VSCAN leaves in each selected lane the exact sum of the selected
lanes up to it. VDOT4 leaves in each 32-bit lane the exact sum of its four products and of the lane of c. -/
def Obligations.ReductionsAndScans : Prop :=
  ∀ (h : Hdr) (ty src : Ty) (r : Rnd) (d a b : VReg) (c : Option VReg) (e : Option KReg) (s : State),
    let val (t : Ty) (i : Nat) := exactOf t (lane (vget s a) t i)
    let chosen (t : Ty) (n : Nat) : List Machine.Real := ((List.range n).filter (selLane s e)).map (val t)
    let first (t : Ty) (i : Nat) : List Machine.Real := match c with
      | some v => [exactOf t (lane (vget s v) t i)]
      | none => []
    let upTo (i : Nat) : Machine.Real := match chosen ty (i + 1) with
      | x :: xs => xs.foldl (fun p z => Real.sum [p, z]) x
      | [] => .nan
    (Ready infoC h { vr := a :: d :: optReg c, vw := [d], kr := optReg e } s →
      LanesBecome 1 (.vrsum h ty src r d a c e) s d ty 1 none
        (fun _ => encodeLane ty r 0 (Real.sum (first ty 0 ++ chosen src src.lanes)))) ∧
    (Ready infoC h { vr := [a, d], vw := [d], kr := optReg e } s →
      LanesBecome 1 (.vrmax h ty d a e) s d ty 1 none (fun _ => extremeOf ty true (chosen ty ty.lanes)) ∧
      LanesBecome 1 (.vrmin h ty d a e) s d ty 1 none (fun _ => extremeOf ty false (chosen ty ty.lanes))) ∧
    (Ready infoC h { vr := a :: kept d e, vw := [d], kr := optReg e } s →
      LanesBecome 1 (.vscan h ty r d a e) s d ty ty.lanes e (fun i => encodeLane ty r i (upTo i))) ∧
    (Ready infoC h { vr := a :: b :: optReg c, vw := [d] } s →
      LanesBecome 1 (.vdot4 h ty r d a b c) s d (dotType ty) (dotType ty).lanes none (fun i =>
        encodeLane (dotType ty) r i (Real.sum (first (dotType ty) i ++ [0, 1, 2, 3].map (fun j =>
          Real.mul (val ty (4 * i + j)) (exactOf ty (lane (vget s b) ty (4 * i + j))))))))

/-- R298, Table 14.5: VPERM, every form of VSHUF, VSPLAT, VIOTA, VEXTR, VINSR, VCPRS and VEXPD, lane by lane. -/
def Obligations.LanesMoved : Prop :=
  ∀ (h : Hdr) (ty : Ty) (d a b : VReg) (x y : XReg) (k : KReg) (e : Option KReg) (s : State),
    let n := ty.lanes
    let la (i : Nat) := lane (vget s a) ty i
    let lb (i : Nat) := lane (vget s b) ty i
    let marked (m : Nat) : List Nat := (List.range m).filter (fun i => (kget s k).getLsbD i)
    (Ready infoC h { vr := [a, b], vw := [d] } s →
      LanesBecome 1 (.vperm h ty d a b) s d ty n none (fun i => la (lb i % n)) ∧
      LanesBecome 1 (.vshuf h ty (.zlo b) d a) s d ty n none (fun i => if i % 2 = 0 then la (i / 2) else lb (i / 2)) ∧
      LanesBecome 1 (.vshuf h ty (.zhi b) d a) s d ty n none
        (fun i => if i % 2 = 0 then la (n / 2 + i / 2) else lb (n / 2 + i / 2)) ∧
      LanesBecome 1 (.vshuf h ty (.evn b) d a) s d ty n none (fun i => if i < n / 2 then la (2 * i) else lb (2 * (i - n / 2))) ∧
      LanesBecome 1 (.vshuf h ty (.odd b) d a) s d ty n none
        (fun i => if i < n / 2 then la (2 * i + 1) else lb (2 * (i - n / 2) + 1))) ∧
    (Ready infoC h { vr := [a], vw := [d] } s → LanesBecome 1 (.vshuf h ty .rev d a) s d ty n none (fun i => la (n - 1 - i))) ∧
    (Ready infoC h { vr := [a], xr := [x], vw := [d] } s →
      LanesBecome 1 (.vshuf h ty (.rot x) d a) s d ty n none (fun i => la ((i + (xget s x).toNat) % n))) ∧
    (Ready infoC h { xr := [x], vr := kept d e, vw := [d], kr := optReg e } s →
      LanesBecome 1 (.vsplat h ty d x e) s d ty n e (fun _ => (xget s x).toNat) ∧
      LanesBecome 1 (.viota h ty d x e) s d ty n e (fun i => (xget s x).toNat + i)) ∧
    (Ready infoC h { xr := [y], vr := [a], xw := [x] } s →
      Completes 1 (.vextr h ty x a y) s (xset s x (BitVec.ofInt 64 (intOf ty (la ((xget s y).toNat % n)))))) ∧
    (Ready infoC h { xr := [x, y], vr := [d], vw := [d] } s →
      LanesBecome 1 (.vinsr h ty d x y) s d ty n none
        (fun i => if i = (xget s y).toNat % n then (xget s x).toNat else lane (vget s d) ty i)) ∧
    (Ready infoC h { vr := [a], kr := [k], vw := [d] } s →
      LanesBecome 1 (.vcprs h ty d a k) s d ty n none (fun i => ((marked n)[i]?.map la).getD 0) ∧
      LanesBecome 1 (.vexpd h ty d a k) s d ty n none
        (fun i => if (kget s k).getLsbD i then la (marked i).length else 0))

/-- R300 to R302, R183: VGQD decodes the codes that its operand j0 selects; VGQE writes the codes of its lanes at j0, keeping the others, and
under .FIT also answers the scales it picked; VRNG draws the generator of R183 at the counter of each lane. -/
def Obligations.CodesAndRandomNumbers : Prop :=
  ∀ (h : Hdr) (ty : Ty) (r : Rnd) (d a : VReg) (b c o : XReg) (e : Option KReg) (s : State),
    let sup := decodeReal .f32 ((xget s b).toNat % 2 ^ 32)
    let j0 := (xget s c).toNat % 16
    let codes (op : GqeOp) (v : VecVal) : Prop :=
      (∀ i < ty.lanes, laneBits v 4 ((64 * j0 + i) % 1024) =
        gqEncode sup ((gqeScales s ty op a b).getD (i / 64) 0) (exactOf ty (lane (vget s a) ty i))) ∧
      (∀ n < 1024, (∀ i < ty.lanes, n ≠ (64 * j0 + i) % 1024) → laneBits v 4 n = laneBits (vget s d) 4 n)
    (ty.inFA = true → Ready infoC h { xr := [b, c], vr := a :: kept d e, vw := [d], kr := optReg e } s →
      LanesBecome 1 (.vgqd h ty r d a b c e) s d ty ty.lanes e (fun i =>
        roundReal ty r (i % 64) (gqDecode sup ((xget s b).toNat / 2 ^ (32 + 8 * (i / 64)) % 256)
          (laneBits (vget s a) 4 ((64 * j0 + i) % 1024))))) ∧
    (ty.inFA = true → Ready infoC h { xr := [b, c], vr := [a, d], vw := [d] } s →
      ∃ v w, codes .given v ∧ Completes 1 (.vgqe h ty .given d a b c) s (vset s d v) ∧
        codes (.fit none) w ∧ Completes 1 (.vgqe h ty (.fit none) d a b c) s (vset s d w)) ∧
    (ty.inFA = true → Ready infoC h { xr := [b, c], xw := [o], vr := [a, d], vw := [d] } s →
      ∃ v, codes (.fit (some o)) v ∧ Completes 1 (.vgqe h ty (.fit (some o)) d a b c) s
        (xset (vset s d v) o (packScales (xget s b) (gqeScales s ty (.fit (some o)) a b)))) ∧
    (Ready infoC h { xr := [b, c], vr := kept d e, vw := [d], kr := optReg e } s →
      LanesBecome 1 (.vrng h ty d b c e) s d ty ty.lanes e (fun i =>
        let x := rng (BitVec.ofNat 32 ((xget s b).toNat + i)) ((xget s c).setWidth 32) ((xget s c).extractLsb' 32 32)
        if ty.isInt then x.toNat else roundReal .f32 rne 0 (.fin false (x.toNat / 256) (-24)))) ∧
    rng 1 0 0 = 0x5227_3A61

/-! ## Descriptors and the matrix unit (spec 15) -/

/-- R310 to R312: TDLD, whose 64 bytes have come, loads the entry where it is valid and else takes the descriptor fault with the address;
TDST stores the loaded entry, or zeros; TDSET changes one field of a loaded entry, and takes the descriptor fault where none is loaded or
the result is not valid; TDINV drops the entry. -/
def Obligations.DescriptorTable : Prop :=
  ∀ (h : Hdr) (a : XReg) (id : BitVec 8) (fld : TdField) (s : State),
    let va := s.core.tdtBase + 64 * id.setWidth 64
    let read : DescVal := BitVec.ofNat 512 (leNat (thr s).got)
    (Ready infoC h {} s → badAperture s va 64 = false → (thr s).got ≠ [] → descValid read = true →
      Completes 1 (.tdld h id) s (ldtSet s id read) ∧ ((myCtx s).isSome = true → ldtGet (ldtSet s id read) id = some read)) ∧
    (Ready infoC h {} s → badAperture s va 64 = false → (thr s).got ≠ [] → descValid read = false →
      Traps (.tdld h id) s causeDescriptor va) ∧
    (Ready infoC h { xr := [a] } s → (xget s a).toNat % 64 = 0 → (xget s a).toNat + 64 ≤ 2 ^ 56 → badAperture s (xget s a) 64 = false →
      storeRoom s = true →
      Completes 1 (.tdst h a id) s (storeRange s h.ch (xget s a).toNat (leBytes 64 ((ldtGet s id).getD 0).toNat) none)) ∧
    (Ready infoC h { xr := [a] } s → (xget s a).toNat % 64 ≠ 0 → Traps (.tdst h a id) s causeAlignment (xget s a)) ∧
    (∀ e e1, Ready infoC h { xr := [a] } s → ldtGet s id = some e → tdsetEntry fld e (xget s a) = some e1 → descValid e1 = true →
      Completes 1 (.tdset h fld a id) s (ldtSet s id e1)) ∧
    (Ready infoC h { xr := [a] } s → ldtGet s id = none → Traps (.tdset h fld a id) s causeDescriptor 0) ∧
    (Ready infoC h {} s → Completes 1 (.tdinv h id) s (ldtClear s id) ∧ (ldtClear s id).core = s.core)

/-- R306, R314 to R325: a matrix command that passes its checks joins tl2 and the matrix queue, with the operands, the TSHAPE words and the
descriptor it reads at issue; TLD, TTRN, TCMP and ACVT also write the TSHAPE words of the tiles they will write. Nothing else changes. A
failed check is the matrix fault, and a full queue holds the instruction. MQRY answers the state of the queue. -/
def Obligations.MatrixCommandsJoinTheQueue : Prop :=
  ∀ (h : Hdr) (t d b m : TReg) (x : XReg) (p q o : AReg) (z int : Bool) (ty : Ty) (r : Rnd) (id : BitVec 8) (s : State),
    let joins (i : Instr) (op : MOp) (e : DescVal) (ch : BitVec 3) (shapes : Vector Word 4) : Prop :=
      ∃ v c, Completes 1 i s v ∧ v.core.mq = s.core.mq ++ [c] ∧ c.op = op ∧ c.desc = e ∧ c.ch = ch ∧ c.num = tlNext s.core 2 ∧
        c.shapes = s.core.tshape ∧ c.started = false ∧ (tlGet (tlsNow v.core) 2).i = c.num ∧ v.core.tshape = shapes ∧
        { v with core := { v.core with mq := s.core.mq, tls := s.core.tls, tshape := s.core.tshape } } = s
    let sh := s.core.tshape
    let sd := shapeGet s.core d
    let room := s.core.mq.length < 8
    (Ready infoC h {} s → room →
      joins (.tzero h t) (.tzero t) 0 0 sh ∧ joins (.azero h p) (.azero p) 0 0 sh ∧ joins (.aadd h int p q o) (.aadd int p q o) 0 0 sh ∧
      joins (.acvt h ty r t p) (.acvt ty r t p) 0 0 (sh.set t.toNat (mkShape 0 32 32 ty.code) t.isLt) ∧
      (ttrnOk sd = true → joins (.ttrn h t d) (.ttrn t d) 0 0 (sh.set t.toNat (mkShape 0 (shCols sd) (shRows sd) (shTy sd)) t.isLt)) ∧
      (tcmpOk sd = true → joins (.tcmp h t d b) (.tcmp t d b) 0 0
        ((sh.set t.toNat (mkShape 1 (shRows sd) (shCols sd / 2) (shTy sd)) t.isLt).set b.toNat
          (mkShape 2 (shRows sd) (shCols sd / 4) 0) b.isLt)) ∧
      (mmaOk sd (shapeGet s.core b) = true → joins (.mma h z p d b) (.mma z p d b) 0 0 sh) ∧
      (mmasOk sd (shapeGet s.core b) (shapeGet s.core m) = true → joins (.mmas h z p d b m) (.mmas z p d b m) 0 0 sh)) ∧
    (∀ e, Ready infoC h { xr := [x] } s → room → ldtGet s id = some e → tensorOk e (xget s x) = true →
      (tileExtentOk e = true →
        joins (.tld h t x id) (.tld t (xget s x)) e h.ch (sh.set t.toNat (tileShape e) t.isLt)) ∧
      (tileExtentOk e = true → shapeLegal (shapeGet s.core t) = true → shapeGet s.core t &&& 0xFF_FF0F = tileShape e →
        joins (.tst h t x id) (.tst t (xget s x)) e h.ch sh) ∧
      (accExtentOk e = true → aldType (dType e) = true → joins (.ald h p x id) (.ald p (xget s x)) e h.ch sh) ∧
      (accExtentOk e = true → astType (dType e) = true → joins (.ast h r p x id) (.ast r p (xget s x)) e h.ch sh)) ∧
    (Ready infoC h {} s → mmaOk sd (shapeGet s.core b) = false → Traps (.mma h z p d b) s causeMatrix 0) ∧
    (Ready infoC h {} s → ttrnOk sd = false → Traps (.ttrn h t d) s causeMatrix 0) ∧
    (Ready infoC h { xr := [x] } s → ldtGet s id = none → Traps (.tld h t x id) s causeDescriptor 0) ∧
    (Ready infoC h {} s → ¬ room → exec (.tzero h t) s = .next s ∧ exec (.azero h p) s = .next s) ∧
    (Ready infoC h { xw := [x] } s →
      ∃ w : Word, Completes 1 (.mqry h x) s (xset s x w) ∧
        (s.core.mq.length ≤ 8 → (w.extractLsb' 0 8).toNat = 8 - s.core.mq.length) ∧ w.extractLsb' 8 4 = s.core.mqWeight)

/-- R303, R305, R307, R317 to R322, R325: a started command on registers does its work on its core, leaves the queue and completes; each
result is said element by element. TCMP keeps of each group of four the two elements that come first in order of magnitude, and their
positions in the nibble; an MMAG forms each participant's own product with the leader's tile. Memory and the other cores keep their values.
R315, R316, R323, R324: a started command on memory runs its rows in order and completes where none stops. A row of a TLD holds the elements
read, and for GQ4 the superscale and scale; a row of an ALD the elements read, converted; a row of a TST or an AST that lies in whole bytes of
one line is one store of the tile's elements or of the converted ones, and a GQ4 row of a TST also stores its block scale.
R308, R309, R397: the unit of an octet that a command occupies starts none; else the member whose turn it is starts its head command,
which is one that is ready, where the ramp limiter lets it. A window of the limiter that has ended starts with no busy cycle. -/
def Obligations.MatrixExecution : Prop :=
  (∀ (core : Nat) (c : MCmd) (s : State),
     mqHead s core = some c → c.started = true → c.stopped = false → c.proxy = false → c.partners = [] → cmdFailing s core c = [] →
     cmdMem c.op = false →
     ∃ t, exec (.matrixCommandComplete core) s = .next t ∧ (coreOf t core).mq = (coreOf s core).mq.drop 1 ∧ t.mem = s.mem ∧
       (∀ q, q ≠ core → (∀ z d a b m, c.op ≠ .mmag z d a b m) → coreOf t q = coreOf s q) ∧
       let k := coreOf s core
       let k' := coreOf t core
       (∀ d, c.op = .tzero d → tget k' d = 0) ∧ (∀ d, c.op = .azero d → aget k' d = 0) ∧
       (∀ d a, c.op = .ttrn d a → ttrnOk (cmdShape c a) = true →
         ∀ i j, i < shRows (cmdShape c a) → j < shCols (cmdShape c a) →
           tileRaw (tget k' d) (shType (cmdShape c a)).width j i = tileRaw (tget k a) (shType (cmdShape c a)).width i j) ∧
       (∀ ty r d a, c.op = .acvt ty r d a → ty.inAcvt = true → ∀ i j, i < 32 → j < 32 →
         tileRaw (tget k' d) ty.width i j =
           roundTo ty r ((32 * i + j) % 64) (if ty.isInt then exactOf .i32 (accElem (aget k a) i j)
             else decodeReal .f32 (accElem (aget k a) i j)) % 2 ^ ty.width) ∧
       (∀ d a b, c.op = .aadd true d a b → ∀ i j, i < 32 → j < 32 →
         accElem (aget k' d) i j = (accElem (aget k a) i j + accElem (aget k b) i j) % 2 ^ 32) ∧
       (∀ d a b, c.op = .aadd false d a b → ∀ i j, i < 32 → j < 32 → accElem (aget k' d) i j =
         roundReal .f32 rne 0 (Real.sum [decodeReal .f32 (accElem (aget k a) i j), decodeReal .f32 (accElem (aget k b) i j)])) ∧
       (∀ d a b, c.op = .tcmp d a b → d ≠ b → tcmpOk (cmdShape c a) = true →
         let sa := cmdShape c a
         let z := (shType sa).width
         let bigger (x y : Nat) : Bool :=
           if shType sa = .gq4 then decide (y % 8 < x % 8)
           else (exactOf (shType sa) x).isNan && !(exactOf (shType sa) y).isNan ||
             !(exactOf (shType sa) y).isNan && Real.lt (exactOf (shType sa) y).abs (exactOf (shType sa) x).abs
         (∀ r g, r < shRows sa → g < shCols sa / 4 →
           let el (i : Nat) := tileRaw (tget k a) z r (4 * g + i)
           let nib := tileRaw (tget k' b) 4 r g
           let before (p q : Nat) : Prop := bigger (el p) (el q) = true ∨ bigger (el q) (el p) = false ∧ p < q
           nib % 4 < nib / 4 ∧ tileRaw (tget k' d) z r (2 * g) = el (nib % 4) ∧ tileRaw (tget k' d) z r (2 * g + 1) = el (nib / 4) ∧
           ∀ q < 4, q ≠ nib % 4 → q ≠ nib / 4 → before (nib % 4) q ∧ before (nib / 4) q) ∧
         (∀ r < shRows sa, shType sa = .gq4 →
           rowSuper (tget k' d) r = rowSuper (tget k a) r ∧ rowScale (tget k' d) r = rowScale (tget k a) r) ∧
         (∀ r i, r < 32 → i < 128 → ¬ (r < shRows sa ∧ i < shCols sa / 4) → tileRaw (tget k' b) 4 r i = 0) ∧
         (∀ r i, r < 32 → z * i < 512 → shType sa ≠ .gq4 → ¬ (r < shRows sa ∧ i < shCols sa / 2) → tileRaw (tget k' d) z r i = 0)) ∧
       (∀ z d a b m, c.op = .mmas z d a b m →
         let sa := cmdShape c a
         let sb := cmdShape c b
         ∀ i j, i < 32 → j < 32 → accElem (aget k' d) i j =
           if i < shRows sa ∧ j < shRows sb then
             macElem (shType sa).isInt (if z then none else some (accElem (aget k d) i j))
               (fun n =>
                 let nib := tileRaw (tget k m) 4 i (n / 4)
                 let term (h : Nat) := Real.mul (tileReal (tget k a) (shType sa) i (2 * (n / 4) + h)) (tileReal (tget k b) (shType sb) j n)
                 (if nib % 4 = n % 4 then [term 0] else []) ++ (if nib / 4 = n % 4 then [term 1] else [])) (shCols sb) % 2 ^ 32
           else accElem (aget k d) i j) ∧
       (∀ z d a b, c.op = .mma z d a b →
         let sa := cmdShape c a
         let sb := cmdShape c b
         ∀ i j, i < 32 → j < 32 → accElem (aget k' d) i j =
           if i < shRows sa ∧ j < shRows sb then
             macElem (shType sa).isInt (if z then none else some (accElem (aget k d) i j))
               (fun n => [Real.mul (tileReal (tget k a) (shType sa) i n) (tileReal (tget k b) (shType sb) j n)]) (shCols sa) % 2 ^ 32
           else accElem (aget k d) i j)) ∧
  (∀ (core : Nat) (c : MCmd) (z : Bool) (d : AReg) (a b : TReg) (mask : BitVec 8) (s : State),
     mqHead s core = some c → c.started = true → c.stopped = false → c.proxy = false → cmdFailing s core c = [] →
     c.op = .mmag z d a b mask →
     let leaderB := tget (coreOf s c.bcore) b
     let sb := c.bshape
     ∃ t, exec (.matrixCommandComplete core) s = .next t ∧ t.mem = s.mem ∧
       (∀ q, q ≠ core → q ∉ mmagCores core mask → q ∉ c.partners.map (·.1) → coreOf t q = coreOf s q) ∧
       (∀ q, q ∉ mmagCores core mask → (coreOf t q).a = (coreOf s q).a) ∧
       ∀ p ∈ mmagCores core mask,
         let k := coreOf s p
         let sa := cmdShape (if p = core then c else k.mq.headD c) a
         ∀ i j, i < 32 → j < 32 → accElem (aget (coreOf t p) d) i j =
           if i < shRows sa ∧ j < shRows sb then
             macElem (shType sa).isInt (if z then none else some (accElem (aget k d) i j))
               (fun n => [Real.mul (tileReal (tget k a) (shType sa) i n) (tileReal leaderB (shType sb) j n)]) (shCols sb) % 2 ^ 32
           else accElem (aget k d) i j) ∧
  (∀ (core : Nat) (c : MCmd) (s u : State) (f : State → Nat → Nat → RowRes) (r start : Nat) (rs : List Nat),
     let rows := (List.range (dTx c.desc 1)).drop (c.cursor / 8)
     let k := coreOf s core
     (mqHead s core = some c → c.started = true → c.stopped = false → c.proxy = false → cmdFailing s core c = [] →
       cmdMem c.op = true → doMem s core c = (u, none) → exec (.matrixCommandComplete core) s = .next (endCmd u core c)) ∧
     (∀ d x, c.op = .tld d x → doMem s core c = runRows (tldRow core c d x) rows (c.cursor % 8)
       (if c.cursor = 0 then setCore s core (clearTA (tset k d 0) [d] []) else s)) ∧
     (∀ d x, c.op = .ald d x → doMem s core c = runRows (aldRow core c d x) rows (c.cursor % 8)
       (if c.cursor = 0 then setCore s core (clearTA (aset k d 0) [] [d]) else s)) ∧
     (∀ d x, c.op = .tst d x → doMem s core c = runRows (tstRow core c d x) rows (c.cursor % 8) s) ∧
     (∀ rnd d x, c.op = .ast rnd d x → doMem s core c = runRows (astRow core c rnd d x) rows (c.cursor % 8) s) ∧
     runRows f [] start s = (s, none) ∧
     ((f s r start).bad = none → runRows f (r :: rs) start s = runRows f rs 0 (f s r start).st) ∧
     ∀ b, (f s r start).bad = some b → runRows f (r :: rs) start s = ((f s r start).st, some (r, b))) ∧
  (∀ (core : Nat) (c : MCmd) (td : TReg) (ad : AReg) (rnd : Rnd) (x : Word) (s : State) (r start : Nat), r < 32 →
     let ty := dType c.desc
     let z := ty.width
     let got := readRow s core c x r
     let n := got.2.length
     let k := coreOf got.1.st core
     let t := (tldRow core c td x s r start).st
     let u := (aldRow core c ad x s r start).st
     (ty ≠ .gq4 → z * n ≤ 512 →
       (∀ i < n, tileRaw (tget (coreOf t core) td) z r i = got.2.getD i 0 % 2 ^ z) ∧
       (∀ r' i, z * (i + 1) ≤ 512 → ¬ (r' = r ∧ i < n) → tileRaw (tget (coreOf t core) td) z r' i = tileRaw (tget k td) z r' i) ∧
       t.mem = got.1.st.mem) ∧
     (ty = .gq4 → got.1.bad = none → rowLen c.desc x r ≠ 0 →
       let s1 := setCore got.1.st core (tset k td (tilePut (tget k td) r 0 (z * n) (rowOfElems z got.2)))
       let sc := readScales s1 core c x r
       sc.1.bad = none → rowSuper (tget (coreOf t core) td) r = sc.2 % 2 ^ 32 ∧ rowScale (tget (coreOf t core) td) r = sc.2 / 2 ^ 32 % 2 ^ 8) ∧
     (n ≤ 32 →
       (∀ i < n, accElem (aget (coreOf u core) ad) r i =
         (if ty = .f32 ∨ ty = .i32 then got.2.getD i 0
          else if ty.isInt then wrapInt 32 (intOf ty (got.2.getD i 0)) else roundReal .f32 rne 0 (decodeReal ty (got.2.getD i 0))) % 2 ^ 32) ∧
       (∀ r' i, i < 32 → ¬ (r' = r ∧ i < n) → accElem (aget (coreOf u core) ad) r' i = accElem (aget k ad) r' i) ∧
       u.mem = got.1.st.mem) ∧
     (let len := rowLen c.desc x r
      let codes := writeRow s core c x r start ((List.range len).map (tileRaw (tget (coreOf s core) td) z r))
      let conv (i : Nat) : Nat := roundTo ty (if ty.isInt then rne else rnd)
        ((r * dTx c.desc 0 + i) % 64 + (dDph c.desc + 17 * tileIndex c.desc x) % 64)
        (let v := accElem (aget (coreOf s core) ad) r i
         if ty.isInt then exactOf .i32 v else decodeReal .f32 v)
      let ast := writeRow s core c x r start ((List.range len).map conv)
      (ty ≠ .gq4 → (tstRow core c td x s r start).st = codes.1 ∧ (tstRow core c td x s r start).bad = codes.2) ∧
      (ty = .gq4 → len ≠ 0 → codes.2 = none →
        let a := (scaleAddr c.desc (rowBlock c.desc x r)).2
        (tstRow core c td x s r start).st = (engineWrite (watch codes.1 core a 1 false true) core false (cmdReq s core c) a
          [BitVec.ofNat 8 (rowScale (tget (coreOf s core) td) r)]).1) ∧
      (astRow core c rnd ad x s r start).st = ast.1 ∧ (astRow core c rnd ad x s r start).bad = ast.2) ∧
     ∀ va b elems, rowStart c.desc x r = (va, 0) → rowLen c.desc x r * z = 8 * b → 0 < b → splitLines va b = [(va, b, 0)] →
       writeRow s core c x r 0 elems =
         match homeDo (watch s core va b false true) core false { cmdReq s core c with w := true } va
           (.write (leBytes b (rowOfElems z (elems.take (rowLen c.desc x r))))) b with
         | (v, .fault f) => (v, some ⟨some f, va, 0⟩)
         | (v, .wait) => (v, some ⟨none, va, 0⟩)
         | (v, .bytes _) => (v, none)) ∧
  (∀ (blk octet : Nat) (s : State),
     let cores := octetCores blk octet
     let b := blockAt s blk
     (unitBusy s cores = true → exec (.matrixArbitration blk octet) s = .next s) ∧
     (∀ m left c, unitBusy s cores = false →
       nextTurn s cores ((mapGet b.rrTurn octet).getD 0) ((mapGet b.rrLeft octet).getD 0) = some (m, left) →
       mqHead s (cores.getD m 0) = some c → rampAllows b s.dev (cmdCycles s (cores.getD m 0) c) = true →
       cmdReady s (cores.getD m 0) = true ∧
       ∃ t, exec (.matrixArbitration blk octet) s = .next t ∧ mqHead t (cores.getD m 0) = some { c with started := true } ∧
         t.mem = s.mem ∧ (∀ q, q ≠ cores.getD m 0 → coreOf t q = coreOf s q) ∧
         (∀ n, n ≠ blk → blockAt t n = blockAt s n) ∧ mapGet (blockAt t blk).rrTurn octet = some m) ∧
     ∃ t, exec (.rampWindow blk) s = .next t ∧ (blockAt t blk).rampAt = max b.rampAt (s.dev.time / 1000) ∧
       (b.rampAt < s.dev.time / 1000 → (blockAt t blk).rampCur = 0) ∧ (∀ n, n ≠ blk → blockAt t n = blockAt s n) ∧
       t.core = s.core ∧ t.mem = s.mem)

/-! ## Gangs (spec 02, R44, R321, R447) -/

/-- R44, R321: the members of a gang execute an instruction together, each with its own guards and its own registers. ADD adds each
member's registers where its guards are true, and every member goes on after it; MMAG, with a legal mask and room in every queue, joins
tl2 and puts one entry into the queue of every member, of which the first holds the product. No other core changes.
R447: a member of a gang that takes a fault before an instruction makes every member trap at its own boundary with nothing performed:
a faulting member with its cause, each other with the partner cause 0x33. Here the fault is that of a TRET, which the members in task
state take (R253). -/
def Obligations.Gangs : Prop :=
  (∀ (h : Hdr) (d a b x : XReg) (z : Bool) (p : AReg) (t1 t2 : TReg) (s : State),
     let ms := gangOf s s.me
     let lead := ms.headD s.me
     s.onMt = false → s.me < 2 ^ 20 → mapSorted s.cores = true → mapGet s.cores s.me = none → 2 ≤ ms.length → s.me ∈ ms →
     (∀ c ∈ ms, (coreOf s c).gang = s.core.gang) → badFall (focusOn s lead false) 1 = none →
     let clear (u : Uses) : Prop := ∀ c ∈ ms,
       awaited (threadOf s c false) u = false ∧ guardPoison (coreOf s c) false h = false ∧ readsPoison (coreOf s c) false u = false
     (clear { xr := [a, b], xw := [d] } →
       ∃ t, exec (.add h d a b) s = .next t ∧ t.mem = s.mem ∧ (∀ c, c ∉ ms → coreOf t c = coreOf s c) ∧
         ∀ c ∈ ms, (threadOf t c false).pc = (threadOf s c false).pc + 8 ∧
           ∀ r, (threadOf t c false).xget r =
             if guards (threadOf s c false) h = true ∧ r = d ∧ r ≠ 0
             then (threadOf s c false).xget a + (threadOf s c false).xget b else (threadOf s c false).xget r) ∧
     (clear { xr := [x] } → (∀ c ∈ ms, guards (threadOf s c false) h = true ∧ (coreOf s c).mq.length < 8) →
       let mask := (threadOf s lead false).xget x
       mask.toNat < 256 → mask.setWidth 8 &&& ~~~s.core.gang = 0 →
       (∀ c ∈ ms, mmaOk (shapeGet (coreOf s c) t1) (shapeGet (coreOf s lead) t2) = true) →
       ∃ t, exec (.mmag h z p t1 t2 x) s = .next t ∧ t.mem = s.mem ∧ (∀ c, c ∉ ms → coreOf t c = coreOf s c) ∧
         ∀ c ∈ ms, (threadOf t c false).pc = (threadOf s c false).pc + 8 ∧
           ∃ cmd, (coreOf t c).mq = (coreOf s c).mq ++ [cmd] ∧ cmd.op = .mmag z p t1 t2 (mask.setWidth 8) ∧
             cmd.num = tlNext (coreOf s c) 2 ∧ (tlGet (tlsNow (coreOf t c)) 2).i = cmd.num ∧ cmd.proxy = decide (c ≠ lead))) ∧
  (∀ (h : Hdr) (s : State),
     let ms := gangOf s s.me
     s.onMt = false → s.me < 2 ^ 20 → 2 ≤ ms.length → s.me ∈ ms → (thr s).priv = false →
     ∃ t, exec (.tret h) s = .next t ∧ t.mem = s.mem ∧ (∀ c, c ∉ ms → coreOf t c = coreOf s c) ∧
       ∀ c ∈ ms, (threadOf t c false).trapCause = (if (threadOf s c false).priv then causePartner else causePrivilege) ∧
         (threadOf t c false).trapPc = wordAddr (threadOf s c false).pc ∧ (threadOf t c false).priv = true ∧
         (threadOf t c false).pc = (threadOf s c false).trapVec ∧ (∀ r, (threadOf t c false).xget r = (threadOf s c false).xget r))

/-! ## Steps, decoding, memory, reset, positions -/

/-- R201, R205, R196: where the thread that issues next stands at a word of a block in the buffer, no trap is due, and the word (with the one
after it) decodes to an instruction, the step is that instruction's execution, once time has reached the cycle of its issue delay, followed
by the passing of time. A device step that is picked is that step's effect, followed by the passing of time. R60, R61, R70, R416: a fire
decision comes before anything else, then a step whose instant has come; no time passes before they have happened, and an act that would
move time beyond the instant of a step that is due gives way to that step. R41: the cycle follows the last issue of the thread by its issue
delay, and is none that the other thread of the core has taken. That the act is picked freely among those that can happen, and by how much
time passes, is the model's choice: logs 4 and 6. -/
def Obligations.StepRunsTheDecodedInstruction : Prop :=
  ∀ (s u : State) (c : Nat) (mt : Bool) (w : Word) (lit : Option Word) (i : Instr) (e : Ev),
    let f := focusOn u c mt
    let g := advanceToCycle f (blockOf f.me) (issueAt f (w.extractLsb' 5 4).toNat)
    (urgent s = [] → pick s = some (.issue c mt, u) → atWord f f.me f.onMt = true →
      (∀ m ∈ together f f.me f.onMt, (threadOf f m f.onMt).pendTraps = []) → wordsAt f f.me f.onMt = some (w, lit) →
      decodeWord w lit = .ok i →
      ¬ (f.onMt = false ∧ (together f f.me false).any (fun m => timerDue g (coreOf g m)) = true) →
      step s = thenTick (onTime u (exec i (startCycle g)))) ∧
    (acts s = [.issue c mt] → pick s = some (.issue c mt, s)) ∧
    (urgent s = [] → pick s = some (.step e, u) → evOk e = true → step s = thenTick (onTime u (runEv e u))) ∧
    (∀ a as, urgent s = a :: as → step s = thenTick (onTime s (runOne a s))) ∧
    (evOk e = true → runOne (.step e) s = runEv e s) ∧
    (∀ es, firing s = e :: es → (urgent s).head? = some (.step e)) ∧
    (∀ d, firing s = [] → firstDue (dues s) = some d → d.reached s = true → (urgent s).head? = some (.step d.ev)) ∧
    (urgent s ≠ [] → (tick s).dev = s.dev) ∧
    (∀ t, (∀ d, firstDue (dues u) = some d → d.passed t = false) → onTime u (.next t) = .next t) ∧
    (∀ t d, firstDue (dues u) = some d → d.passed t = true → evOk d.ev = true → onTime u (.next t) = runEv d.ev u) ∧
    (∀ t, thenTick (.next t) = .next (tick (watchIdle (allArrivals t)))) ∧
    (∀ t,
      let first := (thr t).lastIssue + 1 + (w.extractLsb' 5 4).toNat
      (thr t).yielded = false → (coreOf t t.me).win = 0 → (thr t).notBefore ≤ first →
      (∀ q ∈ issueSet t, (threadOf t q (!t.onMt)).lastIssue ≤ cycleNow t (blockOf q) → (threadOf t q (!t.onMt)).lastIssue < first) →
      issueAt t (w.extractLsb' 5 4).toNat = first)

/-- Tables 10.1 to 10.7 and the worked words of the spec: what some words stand for. -/
def Obligations.WordsDecode : Prop :=
  let h : Hdr := ⟨0, 0, 0, 0, 0⟩
  decodeTableWord 64 0x0840_50C0_0050_0000 = some (.addi h 5 3 5) ∧
  decodeTableWord 64 0x1000_D000_0080_0000 = some (.li h 13 8) ∧
  decodeTableWord 64 0x1340_D03F_FF90_0000 = some (.loop h 13 0x3FFF9) ∧
  decodeTableWord 64 0x1380_0000_0000_0000 = some (.endTask h) ∧
  decodeTableWord 64 0x20DE_28E4_8801_0240 = some (.vfma ⟨1, 0, 1, 2, 0⟩ .bf16 ⟨.rn, false⟩ 2 3 (.v 4) 2 none) ∧
  decodeTableWord 64 0x4000_0000_0010_0000 = some (.tdld h 1) ∧
  decodeTableWord 64 0x4400_4001_0000_0001 = some (.mma h true 0 0 1) ∧
  decodeTableWord 64 0x5021_A580_0000_0000 = some (.ld h (.ty .f32) 26 22 0) ∧
  decodeTableWord 64 0x5500_0000_0000_0000 = some (.wait h) ∧
  decodeTableWord 64 0x6001_B000_0541_0000 = some (.mvcall ⟨1, 0, 0, 0, 0⟩ 27 0 84) ∧
  decodeTableWord 64 0x6040_0000_0000_0000 = some (.mvret h) ∧
  decodeTableWord 64 0x0000_0000_0000_0000 = none ∧ decodeTableWord 64 0xFFC0_8000_0000_C000 = none

/-- R189 to R195, R198, R199, R2: decoding what the encoder writes for any well-formed instruction of the 185, with every operand at every
value, gives the instruction and leaves the bytes after it. -/
def Obligations.EncodingRoundTrips : Prop :=
  ∀ (i : Instr) (rest : List Byte), i.wf = true → encode i ≠ [] →
    decode (encodeBytes i ++ rest) = .ok (i, rest) ∧ (encodeBytes i).length = 8 * (encode i).length ∧
    (∀ w, (encode i).head? = some w → isHeader w = false ∧ assignedOp (w.extractLsb' 54 10) = true)

/-- R73, R76, R80 and the model's form of memory (log entry 1): a write of bytes keeps the canonical form, what is read afterward at a written
address is the byte written, and what is read at any other address is what was there; so for erasing a range and for copying one. -/
def Obligations.MemoryKeepsItsForm : Prop :=
  ∀ (m : List Host.Cell) (a n src dst : Nat) (bs : List Byte), memWf m = true →
    memWf (writeBytes m a bs) = true ∧
    (∀ x, readByte (writeBytes m a bs) x = if a ≤ x ∧ x < a + bs.length then bs.getD (x - a) 0 else readByte m x) ∧
    readBytes (writeBytes m a bs) a bs.length = bs ∧
    memWf (eraseRange m a n) = true ∧ (∀ x, readByte (eraseRange m a n) x = if a ≤ x ∧ x < a + n then 0 else readByte m x) ∧
    (src + n ≤ dst ∨ dst + n ≤ src →
      memWf (copyRange m src dst n) = true ∧
      ∀ x, readByte (copyRange m src dst n) x = if dst ≤ x ∧ x < dst + n then readByte m (x - dst + src) else readByte m x) ∧
    (∀ m', memWf m' = true → (∀ x, readByte m x = readByte m' x) → m = m')

/-- What reset leaves: memory lists nothing, no core runs a task, nothing is in flight, and the boot ROM is about to boot (R411); the reset
values of Tables 13.6, 15.7, 18.6, 20.2 and 27.2. The values of general registers at reset are the model's (log entry 2). -/
def Obligations.ResetState : Prop :=
  let s := State.reset
  memWf s.mem = true ∧ s.mem = [] ∧ s.net = [] ∧ s.ctxs = [] ∧ s.dev.time = 0 ∧ s.pending = [.boot] ∧ acts s = [.pending 0 .boot] ∧
  (∀ c, (coreOf s c).ct.active = false ∧ (coreOf s c).mt.active = false ∧ (coreOf s c).mq = [] ∧ (coreOf s c).inbox = [] ∧
    (coreOf s c).timerCmp = 0xFFFF_FFFF_FFFF_FFFF ∧ (coreOf s c).mqWeight = 1 ∧ (coreOf s c).gang = 0 ∧
    ∀ h, (hget (coreOf s c) h).st = .unconf) ∧
  regValue s 0x3000 = some 0x0001_0020 ∧ regValue s 0x7000 = some 0x0000_03E8_0008_00F0 ∧ regValue s 0x8000 = some 10000 ∧
  (∀ r, (thr s).xget r = 0)

/-- R5: the number of a core from its row and column, and its block from the number.
R8: members of a rectangle are numbered in row-major order from 0; the numbering and its inverse.
R12: octets. The number within the block, the member index within the octet, and that an octet never crosses a block boundary. -/
def Obligations.CoreAndOctetNumbers : Prop :=
  (∀ row col : Nat, row < 1024 → col < 1024 →
     coreAt row col = row * 1024 + col ∧ rowOf (coreAt row col) = row ∧ colOf (coreAt row col) = col ∧
     blockOf (coreAt row col) = row / 64 * 16 + col / 64 ∧ blockOf (coreAt row col) < 256 ∧ coreAt row col < 2 ^ 20) ∧
  (∀ (row0 col0 row1 col1 row col : Nat),
     row0 ≤ row → row ≤ row1 → col0 ≤ col → col ≤ col1 → row1 < 1024 → col1 < 1024 →
     let r : RectF := ⟨row0, col0, row1, col1⟩
     memberIdx (coreAt row col) r = (row - row0) * (col1 - col0 + 1) + (col - col0) ∧
     memberIdx (coreAt row col) r < rectCount r ∧ memberCore (memberIdx (coreAt row col) r) r = coreAt row col ∧
     rectOf (rectWord r) = r) ∧
  (∀ row col : Nat, row < 1024 → col < 1024 →
     let c := coreAt row col
     octetOf c = row % 64 / 2 * 16 + col % 64 / 4 ∧ octetOf c < 512 ∧ omiOf c = row % 2 * 4 + col % 4 ∧
     omiOf c = memberIdx c ⟨row / 2 * 2, col / 4 * 4, row / 2 * 2 + 1, col / 4 * 4 + 3⟩ ∧ octetCore c (omiOf c) = c ∧
     (∀ m < 8, blockOf (octetCore c m) = blockOf c ∧ octetOf (octetCore c m) = octetOf c ∧ omiOf (octetCore c m) = m) ∧
     blockOf c * 512 + octetOf c < 2 ^ 17 ∧
     ∀ q < 2 ^ 20, blockOf q * 512 + octetOf q = blockOf c * 512 + octetOf c → ∃ m < 8, q = octetCore c m)

/-! ## Loads, stores and atomics (spec 16) -/

/-- R328, R330 to R332, R445: a load that passes its checks, with a slot free, completes. A register that is not its destination, a
predicate and every byte of memory keep their values. A part that its octet's own memories hold at once is bound at once; where some part
is sent, the destination keeps its value and a load slot waits for the parts, each an access of its own. A load of no byte, or of no lane,
has no effect. -/
def Obligations.LoadsComplete : Prop :=
  ∀ (h : Hdr) (sz : MemSz) (ty : Ty) (d a b : XReg) (v w : VReg) (e : Option KReg) (imm : BitVec 18) (s : State),
    let k := freshSlot (thr s)
    let held (n va key : Nat) : Prop := partsOf s va n = some [(key, va, n, 0)] ∧ 2 ^ 60 ≤ key ∧
      padServes s s.me (keyHome key) = true ∧ poisonedIn s key n = false ∧ accsOf s s.me s.onMt = []
    let frame (r : State) : Prop := r.mem = s.mem ∧ r.cores = s.cores ∧ r.blocks = s.blocks ∧ r.ctxs = s.ctxs ∧ r.dev = s.dev ∧
      r.core.k = s.core.k ∧ r.core.t = s.core.t ∧ r.core.a = s.core.a ∧ (∀ n, pget r n = pget s n) ∧ s.net <+: r.net ∧
      (r.net = s.net → (thr r).slots = (thr s).slots)
    let waits (r : State) (dst : LoadDst) : Prop := r.net ≠ s.net → ∃ ids buf, ids ≠ [] ∧
      (thr r).slots = (thr s).slots ++ [{ id := k, dst := dst, parts := ids, buf := buf }] ∧
      ∀ id ∈ ids, ∃ x ∈ r.net, x.id = id ∧ x.op = .load ∧ x.slot = k ∧ x.core = s.me ∧ x.mt = s.onMt ∧ x.stage = .queued
    let va := xget s a + imm.signExtend 64
    let n := memBytes sz
    let m := (xget s b).toNat
    let ls := gatherLanes s ty a w e
    (Ready infoC h { xr := [a], xw := [d] } s → checkVa s va n false = none → slotsUsed (thr s) < 8 →
      ∃ r, Completes 1 (.ld h sz d a imm) s r ∧ frame r ∧ r.core.v = s.core.v ∧ (∀ q, q ≠ d → xget r q = xget s q) ∧
        (r.net ≠ s.net → xget r d = xget s d) ∧ waits r (.x d (memSigned sz)) ∧
        ∀ key, held n va.toNat key → r.net = s.net ∧
          (d ≠ 0 → xget r d = scalarOf (readBytes s.mem key n) (memSigned sz))) ∧
    (Ready infoC h { xr := [a, b], vw := [v] } s → checkCount s (xget s a) (xget s b) = none → slotsUsed (thr s) < 8 →
      ∃ r, Completes 1 (.ldv h v a b) s r ∧ frame r ∧ (∀ q, xget r q = xget s q) ∧ (∀ q, q ≠ v → vget r q = vget s q) ∧
        (m = 0 → r = s) ∧ (r.net ≠ s.net → vget r v = vget s v) ∧ waits r (.v v) ∧
        ∀ key, m ≠ 0 → held m (xget s a).toNat key → ∀ i, i < 512 →
          lane (vget r v) .u8 i = if i < m then (readByte s.mem (key + i)).toNat else lane (vget s v) .u8 i) ∧
    (Ready infoC h { xr := [a], vr := [w], vw := [v], kr := optReg e } s → checkLanes s (ty.width / 8) ls = none →
      slotsUsed (thr s) < 8 →
      ∃ r, Completes 1 (.ldx h ty v a w e) s r ∧ frame r ∧ (∀ q, xget r q = xget s q) ∧ (∀ q, q ≠ v → vget r q = vget s q) ∧
        (ls = [] → r = s) ∧ (r.net ≠ s.net → waits r (.v v) ∧ vget r v = vget s v) ∧
        ∀ i x key, ls = [(i, x)] → held (ty.width / 8) x.toNat key → 8 ≤ ty.width → ∀ j, j < ty.lanes →
          lane (vget r v) ty j = if j = i then leNat (readBytes s.mem key (ty.width / 8)) else lane (vget s v) ty j)

/-- R328, R330 to R333, R113: a store that passes its checks, with a place in the store queue free, completes. No register changes. A part
that lies in its octet's own memories and has nothing of its thread before it is performed at once; any other part joins the store queue
with its bytes, and memory keeps every byte that no part performed at once holds. STL's store carries its release. A store of no byte, or
of no lane, has no effect. -/
def Obligations.StoresComplete : Prop :=
  ∀ (h : Hdr) (sz : MemSz) (ty : Ty) (d a b : XReg) (v w : VReg) (e : Option KReg) (imm : BitVec 18) (s : State),
    memWf s.mem = true →
    let kept (r : State) : Prop := (∀ q, xget r q = xget s q) ∧ (∀ q, pget r q = pget s q) ∧ r.core.v = s.core.v ∧
      r.core.k = s.core.k ∧ (thr r).slots = (thr s).slots ∧ r.cores = s.cores ∧ r.blocks = s.blocks ∧ s.net <+: r.net ∧
      memWf r.mem = true
    let stored (r : State) (va : Nat) (bytes : List Byte) (rel : Option Word) : Prop :=
      let parts := (partsOf s va bytes.length).getD []
      kept r ∧
      (∀ x, (∀ p ∈ parts, rel = none → 2 ^ 60 ≤ p.1 → x < p.1 ∨ p.1 + p.2.2.1 ≤ x) → readByte r.mem x = readByte s.mem x) ∧
      (∀ key, parts = [(key, va, bytes.length, 0)] → 2 ^ 60 ≤ key → padServes s s.me (keyHome key) = true → rel = none →
        accsOf s s.me s.onMt = [] → releasePending s s.me s.onMt (fun r => decide (r.start ≤ (thr s).seq)) = false → r.net = s.net ∧ readBytes r.mem key bytes.length = bytes) ∧
      (∀ p, parts = [p] → p.1 < 2 ^ 60 ∨ rel ≠ none → r.mem = s.mem ∧ ∃ x, r.net = s.net ++ [x] ∧ x.op = .store ∧ x.va = p.1 ∧
        x.n = p.2.2.1 ∧ x.data = (bytes.drop p.2.2.2).take p.2.2.1 ∧ x.rel = rel ∧ x.stage = .queued ∧ x.core = s.me ∧
        x.mt = s.onMt ∧ x.seq = (thr s).seq)
    let va := xget s a + imm.signExtend 64
    let n := memBytes sz
    let ls := gatherLanes s ty a w e
    queuedWrites s s.me s.onMt < 16 →
    (Ready infoC h { xr := [d, a] } s → checkVa s va n false = none →
      ∃ r, Completes 1 (.st h sz d a imm) s r ∧ stored r va.toNat (leBytes n (xget s d).toNat) none) ∧
    (Ready infoC h { xr := [d, a, b] } s → checkScope (xget s b) = none → checkVa s (xget s a) n true = none →
      ∃ r, Completes 1 (.stl h sz d a b) s r ∧ stored r (xget s a).toNat (leBytes n (xget s d).toNat) (some (xget s b))) ∧
    (Ready infoC h { xr := [a, b], vr := [v] } s → checkCount s (xget s a) (xget s b) = none →
      ∃ r, Completes 1 (.stv h v a b) s r ∧ (xget s b = 0 → r = s) ∧
        (xget s b ≠ 0 → stored r (xget s a).toNat ((leBytes 512 (vget s v).toNat).take (xget s b).toNat) none)) ∧
    (Ready infoC h { xr := [a], vr := [v, w], kr := optReg e } s → checkLanes s (ty.width / 8) ls = none →
      ∃ r, Completes 1 (.stx h ty v a w e) s r ∧ kept r ∧ (ls = [] → r = s) ∧
        (∀ x, (∀ l ∈ ls, ∀ p ∈ (partsOf s l.2.toNat (ty.width / 8)).getD [], 2 ^ 60 ≤ p.1 → x < p.1 ∨ p.1 + p.2.2.1 ≤ x) →
          readByte r.mem x = readByte s.mem x) ∧
        ∀ i x, ls = [(i, x)] → stored r x.toNat (leBytes (ty.width / 8) (lane (vget s v) ty i)) none)

/-- R328, R333 to R335: LDA, ATOM and CAS that pass their checks begin. An ATOM or a CAS is one access, which carries its operation, its
operand and its release, and its thread waits for the access; so does an LDA of which some part is sent, and one whose bytes come at
once completes and acquires. Nothing is stored yet, and no register but LDA's destination changes. An address that is not a multiple of
the size is the alignment fault. -/
def Obligations.AtomicsStallTheirThread : Prop :=
  ∀ (h : Hdr) (sz : MemSz) (ty : Ty) (op : AtomOp) (dbl : Bool) (ord : AtomOrd) (d a b : XReg) (s : State),
    let k := freshSlot (thr s)
    let va := xget s a
    let n := if dbl then 8 else 4
    let scopes : Prop := ∀ c, ord = .acq c ∨ ord = .rel c ∨ ord = .ar c → malformedScope (xget s c) = false
    let ordRegs : List XReg := match ord with | .none => [] | .acq c => [c] | .rel c => [c] | .ar c => [c]
    let sent (i : Instr) (o : AccOp) (data : List Byte) : Prop := ∃ r x p, Parks i s r ∧ r.mem = s.mem ∧ r.net = s.net ++ [x] ∧
      partsOf s va.toNat n = some [p] ∧ x.op = o ∧ x.va = p.1 ∧ x.n = n ∧ x.off = 0 ∧ x.data = data ∧ x.slot = k ∧ x.core = s.me ∧
      x.mt = s.onMt ∧ x.stage = .queued ∧ x.rel = ordReleases ord s ∧ (thr r).wait = .access k ∧
      (thr r).slots = (thr s).slots ++
        [{ id := k, dst := .atomic d (ty.isSigned && !dbl) (ordAcquires ord s), parts := [x.id], buf := List.replicate n 0 }] ∧
      (∀ q, xget r q = xget s q) ∧ r.core.v = s.core.v ∧ r.cores = s.cores
    (Ready infoC h { xr := a :: b :: ordRegs, xw := [d] } s → scopes → checkVa s va n true = none →
      sent (.atom h ty op dbl ord d a b) (.atom op ty.isSigned) (leBytes n (xget s b).toNat)) ∧
    (Ready infoC h { xr := d :: a :: b :: ordRegs, xw := [d] } s → scopes → checkVa s va n true = none →
      sent (.cas h ty dbl ord d a b) (.cas (leBytes n (xget s d).toNat)) (leBytes n (xget s b).toNat)) ∧
    (Ready infoC h { xr := a :: b :: ordRegs, xw := [d] } s → scopes → badAddress va n = false → va.toNat % n ≠ 0 →
      Traps (.atom h ty op dbl ord d a b) s causeAlignment va) ∧
    (Ready infoC h { xr := [a, b], xw := [d] } s → malformedScope (xget s b) = true →
      Traps (.lda h sz d a b) s causeRectangle (xget s b)) ∧
    (Ready infoC h { xr := [a, b], xw := [d] } s → malformedScope (xget s b) = false → checkVa s va (memBytes sz) true = none →
      ∃ r, r.mem = s.mem ∧ (∀ q, q ≠ d → xget r q = xget s q) ∧ r.core.v = s.core.v ∧ r.cores = s.cores ∧
        (r.net = s.net → Completes 1 (.lda h sz d a b) s r ∧
          r.core.l1 = s.core.l1.filter (fun l => !scopeHasBlock (xget s b) (homeOf s l.asid l.line))) ∧
        (r.net ≠ s.net → Parks (.lda h sz d a b) s r ∧ (thr r).wait = .access k ∧ xget r d = xget s d) ∧
        ∀ key, partsOf s va.toNat (memBytes sz) = some [(key, va.toNat, memBytes sz, 0)] → 2 ^ 60 ≤ key →
          padServes s s.me (keyHome key) = true → poisonedIn s key (memBytes sz) = false → accsOf s s.me s.onMt = [] →
          r.net = s.net ∧ (d ≠ 0 → xget r d = scalarOf (readBytes s.mem key (memBytes sz)) (memSigned sz)))

/-- R79, R101 to R103, R113, R334, R335, R445, R449, R450: an access on its way. One to local memory is performed there as one access: the
bytes it found are its answer, and what an atomic or a store leaves is written. One to global memory joins a walk where the home's cache
holds no translation, and a fault sends it to the pending loads or the side log. The last response of a load writes its scalar or vector register,
and that of an atomic also lets the thread go on. -/
def Obligations.AccessesReachTheirHome : Prop :=
  ∀ (s : State) (id : Nat) (a : Access), accFind s id = some a →
    let home := homeOf s a.asid a.va
    let isFault (t : State) (c : BitVec 16) : Prop :=
      if a.op.reads then accFind t id = some { a with stage := .held (causeFor s a c) } ∧
        (.pendingLoadFault id (causeFor s a c)) ∈ t.pending
      else accFind t id = some { a with stage := .logged (causeFor s a c) } ∧ (.sideLogEntry id (causeFor s a c)) ∈ t.pending
    -- an access to local memory: HOME_ACCESS, and REMOTE_SCRATCHPAD_ACCESS for another core's
    (∀ c, memWf s.mem = true → sendable s a = true → lineLogged s a = none → a.isKey = true → keyHome a.va = .core c →
      (∀ h r x y, a.op ≠ .send h r x y) → (∀ x y, a.op ≠ .red x y) →
      keyFits s a = true → (coreOf s c).contained = false → (coreOf s c).stopped = false → (coreOf s c).dbg.halted = false →
      (blockAt s (blockOf c)).gated = false → poisonedIn s a.va a.n = false → (∀ w, accWrites a (readBytes s.mem a.va a.n) = some w → w.length = a.n) →
      let old := readBytes s.mem a.va a.n
      let done (t : State) : Prop := accFind t id = some { a with stage := .performed old } ∧
        readBytes t.mem a.va a.n = (accWrites a old).getD old ∧
        ∀ x, x < a.va ∨ a.va + a.n ≤ x → readByte t.mem x = readByte s.mem x
      (∃ t, exec (.homeAccess id) s = .next t ∧ done t) ∧
      (c ≠ a.core % 2 ^ 20 → ∃ t, exec (.remoteScratchpadAccess id) s = .next t ∧ done t)) ∧
    (sendable s a = true → lineLogged s a = none → a.isKey = true → a.op = .load ∨ a.op = .store ∧ logFull s a.core = false →
      keyFits s a = false → ∃ t, exec (.homeAccess id) s = .next t ∧ isFault t causeAperture ∧ t.mem = s.mem) ∧
    -- one to global memory, at the home's translation cache
    (sendable s a = true → lineLogged s a = none → a.isKey = false → a.op = .load ∨ a.op = .store →
      (translateHit s home (accReq a) a.va = none → (blockAt s home).walkq = [] →
        (blockAt s home).walkWait = [] → ∃ t, exec (.homeAccess id) s = .next t ∧ accFind t id = some { a with stage := .walking } ∧
          (.translationWalk home a.asid (a.va / 65536 * 65536)) ∈ t.pending ∧ t.mem = s.mem) ∧
      (∀ s1 c, translateHit s home (accReq a) a.va = some (s1, .error c) → causeCode c ≠ causeContained →
        (a.op = .store → logFull s a.core = false) → ∃ t, exec (.homeAccess id) s = .next t ∧ isFault t c)) ∧
    (∀ vp s1, (blockAt s home).walkq = [{ asid := a.asid, vpage := vp, waiters := [.acc id] }] → (∀ x y, a.op ≠ .red x y) →
      let s0 := setBlock s home { blockAt s home with walkq := [] }
      (∀ c, translateWalk s0 home (accReq a) a.va = (s1, .error c) → causeCode c ≠ causeContained →
        (a.op.reads = false → logFull s1 a.core = false) → (blockAt s1 home).walkWait = [] →
        ∃ t, exec (.translationWalk home a.asid vp) s = .next t ∧ t.mem = s1.mem ∧ ∃ b, accFind t id = some b ∧ b.op = a.op ∧
          b.stage = (if a.op.reads then .held (causeFor s1 a c) else .logged (causeFor s1 a c))) ∧
      (∀ e, translateWalk s0 home (accReq a) a.va = (s1, .ok e) →
        let u := performHome (accSet s1 { a with stage := .queued, kind := e.ok }) id
        (blockAt u home).walkWait = [] →
        ∃ t, exec (.translationWalk home a.asid vp) s = .next t ∧ t.net = u.net ∧ t.mem = u.mem)) ∧
    (∀ pa s1 e b, (∀ x ∈ s.net, x.stage = .filling home pa → x.id = id) → a.stage = .filling home pa → a.op = .load ∨ a.op = .store → pa = lineBase (physOf e a.va) →
      translateHit (accSet (wakeRim s (stackIslands pa)) { a with stage := .queued }) home (accReq a) a.va = some (s1, .ok e) →
      isRim (physOf e a.va) = false →
      (performAt s1 home a.core a.mt (accReq a) a.va e (accHomeOp a) a.n).2 = .bytes b →
      ∃ t, exec (.hbmFillComplete home pa id) s = .next t ∧ accFind t id = some { a with stage := .performed b }) ∧
    -- faults recorded
    (∀ c, a.core < 2 ^ 20 → endWaits s a.core a.mt = false → a.trapped = false →
      let due := (threadOf s a.core a.mt).pendTraps ++ if trapsAfterHold c then [⟨c, BitVec.ofNat 64 a.addr⟩] else []
      (∃ t b, exec (.pendingLoadFault id c) s = .next t ∧ accFind t id = some b ∧ b.stage = .held c ∧
        (threadOf t a.core a.mt).pendTraps = due) ∧
      (a.logged = true → ∃ t b, exec (.sideLogEntry id c) s = .next t ∧ accFind t id = some b ∧ b.stage = .logged c ∧
        (threadOf t a.core a.mt).pendTraps = due)) ∧
    (∀ s1 b, accsOf s a.core a.mt = [a] → a.logged = true → a.isKey = false → rejectedSince s a = false → a.op = .store →
      homeDo s a.core a.mt { accReq a with who := none } a.va (.write a.data) a.n = (s1, .bytes b) → accFind s1 id = some a →
      ∃ t, exec (.replayPass a.core a.mt) s = .next t ∧
        accFind t id = some { a with stage := .performed b, kind := pageKind s a.asid a.va }) ∧
    -- the response
    (∀ bytes x, a.stage = .performed bytes → (threadOf s a.core a.mt).slots.find? (fun x => x.id == a.slot) = some x →
      x.parts = [id] →
      (∀ d, x.dst = .v d → a.op = .load → ∃ t, exec (.accessResponse id) s = .next t ∧
        (∀ i < 512, lane ((coreOf t a.core).v[d.toNat]'d.isLt) .u8 i = ((placeBytes x.buf a.off bytes).getD i 0).toNat) ∧
        (∀ q : VReg, q ≠ d → (coreOf t a.core).v[q.toNat]'q.isLt = (coreOf s a.core).v[q.toNat]'q.isLt) ∧
        (∀ y ∈ (threadOf t a.core a.mt).slots, y.id ≠ a.slot) ∧ t.mem = s.mem) ∧
      (a.off = 0 → bytes.length = x.buf.length →
      (∀ d sg, x.dst = .x d sg → d ≠ 0 → a.op = .load →
        ∃ t, exec (.accessResponse id) s = .next t ∧ (threadOf t a.core a.mt).xget d = scalarOf bytes sg ∧
          (∀ y ∈ (threadOf t a.core a.mt).slots, y.id ≠ a.slot) ∧ t.mem = s.mem) ∧
      (∀ d sg acq, x.dst = .atomic d sg acq → d ≠ 0 → (∃ o y, a.op = .atom o y) ∨ (∃ y, a.op = .cas y) →
        ∃ t, exec (.accessResponse id) s = .next t ∧ (threadOf t a.core a.mt).xget d = scalarOf bytes sg ∧
          (threadOf t a.core a.mt).wait = .none ∧ (threadOf t a.core a.mt).pc = (threadOf s a.core a.mt).pc + 8 ∧ t.mem = s.mem)))

/-! ## Fences, waits and timelines (spec 16), barrier programs and the combining tree (spec 03, 04) -/

/-- R340 to R342, R122: a FENCE or an L1INV whose conditions hold completes: an acquire removes from L1 exactly the lines homed in its
scope, FENCE.REL changes nothing, L1INV without a scope empties L1, and a malformed scope is the rectangle fault. PRF, no line of
which must wait for a walk, binds no register and no access, and with no byte to fetch it changes nothing.
R59, R62, R63, R70: WAIT on a core of a group waits; the oldest entry that has not fired and names its member claims it at once, and
its waiting bit is set where its release is complete. GBAR waits in its launch domain, and its arrival is counted where its release is
complete. No register and no byte of memory changes. A core without a group, or without a domain, takes the barrier fault.
The scope of L1INV.SC, that PRF acts in the step of its issue (log 33), and the order within a fence (log 76) are read so by the model. -/
def Obligations.FencesAndBarriers : Prop :=
  (∀ (h : Hdr) (a b : XReg) (s : State),
     let gone (scope : Word) : State :=
       { s with core := { s.core with l1 := s.core.l1.filter (fun l => !scopeHasBlock scope (homeOf s l.asid l.line)) } }
     let scope := xget s a
     let released (x : Word) : Prop := releaseDone s s.me s.onMt x (thr s).seq = true
     (Ready infoC h { xr := [a] } s → malformedScope scope = false →
       (loadsBound s s.me s.onMt = true → Completes 1 (.fence h (.acq a)) s (gone scope) ∧
         Completes 1 (.l1inv h (some a)) s (gone scope)) ∧
       (released scope → Completes 1 (.fence h (.rel a)) s s ∧ Completes 1 (.fence h (.ar a)) s (gone scope))) ∧
     (Ready infoC h { xr := [a] } s → malformedScope scope = true →
       Traps (.fence h (.acq a)) s causeRectangle scope ∧ Traps (.fence h (.rel a)) s causeRectangle scope ∧
       Traps (.fence h (.ar a)) s causeRectangle scope ∧ Traps (.l1inv h (some a)) s causeRectangle scope) ∧
     (Ready infoC h {} s → fenceAllDone s s.me s.onMt = true → released deviceScope →
       Completes 1 (.fence h .all) s (gone deviceScope)) ∧
     (Ready infoC h {} s → loadsBound s s.me s.onMt = true →
       Completes 1 (.l1inv h none) s { s with core := { s.core with l1 := [] } }) ∧
     (Ready infoC h { xr := [a, b] } s →
       (∀ l ∈ linesOf (xget s a).toNat (min (xget s b).toNat 512), l < 2 ^ 56 → isAperture l = false →
         walkBusy s (homeOf s (myAsid s) l) none (myAsid s) l = false) →
       ∃ r, Completes 1 (.prf h a b) s r ∧ thr r = thr s ∧ r.core.v = s.core.v ∧ r.net = s.net ∧ (xget s b = 0 → r = s))) ∧
  (∀ (h : Hdr) (s : State), Ready infoC h {} s →
     let k := s.core
     let q := seqAt s (groupBlk k) (groupSeq k)
     let claim := (claimOf q (groupMember k)).map (fun e => e.sq.toNat)
     let inGroup := releaseDone s s.me false (groupScope k) (thr s).seq
     let inLaunch := releaseDone s s.me false k.launchRect (thr s).seq
     let same (r : State) : Prop := (∀ x, xget r x = xget s x) ∧ (∀ n, pget r n = pget s n) ∧ r.core.v = k.v ∧ r.mem = s.mem ∧
       r.net = s.net ∧ r.cores = s.cores
     (waitFaults s k = true → Traps (.wait h) s causeBarrier 0) ∧
     (waitFaults s k = false → ∃ r, Parks (.wait h) s r ∧ same r ∧ (thr r).wait = .bar claim inGroup ∧
       (seqAt r (groupBlk k) (groupSeq k)).buf =
         if inGroup = true ∧ claim.isSome = true then q.buf.map (fun e => if some e.sq.toNat = claim then
           { e with wait := e.wait ||| BitVec.ofNat 32 (2 ^ groupMember k) } else e) else q.buf) ∧
     (gbarFaults s k = true → Traps (.gbar h) s causeBarrier 0) ∧
     (gbarFaults s k = false → ∃ r, Parks (.gbar h) s r ∧ same r ∧ (thr r).wait = .gbar inLaunch (launchDom k) ∧
       ∀ d, mapGet s.dev.ldoms (launchDom k) = some d →
         mapGet r.dev.ldoms (launchDom k) = some (if inLaunch then d.arrive s.me s.dev.time else d)))

/-- R127 to R129, R344 to R346: TLR reads V, or I; TLW whose value is reached acquires and completes, and else waits with its operands;
TLS takes the next number of tl7 into d and does not wait. TLW_SATISFIED ends the wait, and TIMELINE_COMPLETE moves V to the last number
below which every operation has completed. -/
def Obligations.TimelineInstructions : Prop :=
  ∀ (h : Hdr) (n : BitVec 3) (d a b : XReg) (s : State),
    let gone (scope : Word) : State :=
      { s with core := { s.core with l1 := s.core.l1.filter (fun l => !scopeHasBlock scope (homeOf s l.asid l.line)) } }
    (∀ set, s.core.tls = some set →
      let tl := set.tl[n.toNat]'n.isLt
      (Ready infoC h { xw := [d] } s →
        Completes 1 (.tlr h n false d none) s (xset s d (BitVec.ofNat 64 tl.v)) ∧
        Completes 1 (.tlr h n true d none) s (xset s d (BitVec.ofNat 64 tl.i))) ∧
      (Ready infoC h { xr := [a, b] } s → malformedScope (xget s b) = false → loadsBound s s.me false = true →
        ((xget s a).toNat ≤ tl.v → Completes 1 (.tlw h n a b none) s (gone (xget s b))) ∧
        (tl.v < (xget s a).toNat → ∃ r, Parks (.tlw h n a b none) s r ∧
          (thr r).wait = .tlw s.me n.toNat (xget s a) (xget s b) ∧ r.core.l1 = s.core.l1 ∧ r.mem = s.mem ∧
          ∀ x, xget r x = xget s x))) ∧
    (Ready infoC h { xr := [a], xw := [d] } s → malformedScope (xget s a) = false →
      ∃ r o, Completes 1 (.tls h d a) s r ∧ (d ≠ 0 → (xget r d).toNat = tlNext s.core 7 % 2 ^ 64) ∧
        (∀ x, x ≠ d → xget r x = xget s x) ∧ (tlGet (tlsNow r.core) 7).i = tlNext s.core 7 ∧ r.core.ops = s.core.ops ++ [o] ∧
        o.op = .release (xget s a) (thr s).seq ∧ o.tl = 7 ∧ o.num = tlNext s.core 7 ∧ r.mem = s.mem ∧ r.net = s.net) ∧
    (∀ c on tl m scope, (coreOf s c).ct.wait = .tlw on tl m scope → tlwReady s c = true →
      ∃ t, exec (.tlwSatisfied c) s = .next t ∧ (coreOf t c).ct.wait = .none ∧ (coreOf t c).ct.pc = (coreOf s c).ct.pc + 8 ∧
        (coreOf t c).l1 = (coreOf s c).l1.filter (fun l => !scopeHasBlock scope (homeOf s l.asid l.line)) ∧ t.mem = s.mem) ∧
    (∀ c m o set, (coreOf s c).ops.find? (completes s c n.toNat m) = some o → (coreOf s c).tls = some set →
      set.serial = o.serial → 0 < m →
      let old := set.tl[n.toNat]'n.isLt
      (∀ x ∈ old.doneAbove, old.v + 1 < x) →
      ∃ t set', exec (.timelineComplete c n.toNat m) s = .next t ∧ (coreOf t c).tls = some set' ∧
        let new := set'.tl[n.toNat]'n.isLt
        let ended (x : Nat) : Prop := x ≤ old.v ∨ x ∈ old.doneAbove ∨ x = m
        new.i = old.i ∧ (∀ x, x ≤ new.v → ended x) ∧ ¬ ended (new.v + 1) ∧
        (∀ x, x ∈ new.doneAbove ↔ ended x ∧ new.v < x) ∧ ∀ j : BitVec 3, j ≠ n → set'.tl[j.toNat]'j.isLt = set.tl[j.toNat]'j.isLt)

/-- R52 to R61, R64: what each entry of a barrier program does on a sequencer that runs, and how an entry fires and frees. A malformed entry
enters FAULT. NOTE writes its record of kind 2 to the block's trace buffer where such records are kept and there is room.
R70 to R72: when every member of a launch domain has arrived the root fixes the release tick 512 ticks later; at that tick each member
that waits goes on after its GBAR, and the domain counts anew. Before the last arrival nothing happens. -/
def Obligations.BarrierProgramsAndTree : Prop :=
  (∀ (blk seq : Nat) (s : State),
     let q := seqAt s blk seq
     (q.st = .run ∨ q.st = .full →
       -- reading an entry
       (∀ s1 bs, q.fetched = none → q.pc < q.pcnt →
         homeDo s q.core0 false { seqReq q.asid blk with who := some (.prog blk seq) } (q.base + 8 * q.pc) .read 8 = (s1, .bytes bs) →
         let w : Word := BitVec.ofNat 64 (leNat bs)
         ∃ t, exec (.seqProgramFetch blk seq) s = .next t ∧
           if (entryStep blk seq w).isSome = true ∧ entryReserved w = false then (seqAt t blk seq).fetched = some w
           else (seqAt t blk seq).st = .fault) ∧
       -- MASK and MASKB
       (∀ (m : BitVec 32) (tag : BitVec 4) (cnt : BitVec 24), m ≠ 0 → m.toNat < 2 ^ q.gsz → q.buf.length < 16 →
         let credit := q.credits[tag.toNat]'tag.isLt
         let appended (t : State) (e : MaskEntry) : Prop :=
           (seqAt t blk seq).buf.length = q.buf.length + 1 ∧ (seqAt t blk seq).buf.getLast? = some e ∧ e.mask = m ∧ e.sq = q.nextSq ∧
           e.fired = none ∧ e.abs = 0 ∧ (seqAt t blk seq).pc = q.pc + 1 ∧ (seqAt t blk seq).st = .run ∧
           (seqAt t blk seq).nextSq = q.nextSq + 1 ∧ (seqAt t blk seq).loops = q.loops ∧
           ∀ i c, i < 32 → m = BitVec.ofNat 32 (2 ^ i) → c = q.member i → (coreOf s c).dbg.halted = false →
             groupBlk (coreOf s c) = blk → groupSeq (coreOf s c) = seq → ∀ bit, (coreOf s c).ct.wait = .bar none bit →
             (coreOf t c).ct.wait = .bar (some q.nextSq.toNat) bit ∧ (bit = true → e.wait = m)
         (∃ t e, exec (.mask blk seq m) s = .next t ∧ appended t e ∧ e.tagged = false ∧ e.cnt = 0 ∧
           (seqAt t blk seq).credits = q.credits) ∧
         (∃ t e, exec (.maskb blk seq tag cnt m) s = .next t ∧ appended t e ∧ e.tagged = true ∧ e.tag = tag ∧
           e.cnt = cnt.toNat - min credit cnt.toNat ∧
           (seqAt t blk seq).credits = q.credits.set tag.toNat (credit - min credit cnt.toNat) tag.isLt)) ∧
       (∀ m : BitVec 32, m ≠ 0 → m.toNat < 2 ^ q.gsz → 16 ≤ q.buf.length →
         ∃ t, exec (.mask blk seq m) s = .next t ∧ seqAt t blk seq = { q with st := .full }) ∧
       (∀ m : BitVec 32, m = 0 ∨ 2 ^ q.gsz ≤ m.toNat → ∃ t, exec (.mask blk seq m) s = .next t ∧ (seqAt t blk seq).st = .fault) ∧
       -- control of the stream
       (let at_ (t : State) (pc : Nat) (loops : List (Nat × Nat)) (st : SeqState) : Prop :=
         seqAt t blk seq = { q with pc := pc, loops := loops, st := st, fetched := none }
        (∀ n : BitVec 16, n ≠ 0 → q.loops.length < 4 →
          ∃ t, exec (.loopEntry blk seq n) s = .next t ∧ at_ t (q.pc + 1) ((n.toNat, q.pc + 1) :: q.loops) .run) ∧
        (∀ n : BitVec 16, n = 0 ∨ 4 ≤ q.loops.length →
          ∃ t, exec (.loopEntry blk seq n) s = .next t ∧ (seqAt t blk seq).st = .fault) ∧
        (∀ n i rest, q.loops = (n, i) :: rest → ∃ t, exec (.endl blk seq) s = .next t ∧
          (1 < n → at_ t i ((n - 1, i) :: rest) .run) ∧ (n = 1 → at_ t (q.pc + 1) rest .run)) ∧
        (q.loops = [] → ∃ t, exec (.endl blk seq) s = .next t ∧ (seqAt t blk seq).st = .fault) ∧
        (∀ tgt : BitVec 16, ∃ t, exec (.jump blk seq tgt) s = .next t ∧
          (tgt.toNat < q.pcnt → at_ t tgt.toNat q.loops .run) ∧ (q.pcnt ≤ tgt.toNat → (seqAt t blk seq).st = .fault)) ∧
        (∀ v : BitVec 32, ∃ t, exec (.note blk seq v) s = .next t ∧ at_ t (q.pc + 1) q.loops .run ∧ t.mem = s.mem ∧
          let b := blockAt s blk
          let slot := ((ctxOf s q.asid).map (·.slot)).getD 0
          (traceEnabled b 2 = false → (blockAt t blk).trace = b.trace) ∧
          (traceEnabled b 2 = true → b.tlost = 0 → b.traceFull = false → (blockAt t blk).trace = b.trace ++
            [⟨BitVec.ofNat 64 (2 + slot % 64 * 2 ^ 9 + q.core0 % 2 ^ 20 * 2 ^ 16), BitVec.ofNat 64 s.dev.time⟩,
             ⟨BitVec.ofNat 64 (v.toNat + seq * 2 ^ 32), BitVec.ofNat 64 q.pc⟩])) ∧
        (∃ t, exec (.halt blk seq) s = .next t ∧ at_ t (q.pc + 1) q.loops .halted ∧ (seqAt t blk seq).buf = q.buf))) ∧
     -- firing and release
     (∀ e, q.buf = [e] → fires e = true →
       ∃ t, exec (.fire blk seq e.sq) s = .next t ∧
         (seqAt t blk seq).buf = [{ e with fired := some (cycleNow s blk), wait := 0 }] ∧ t.cores = s.cores) ∧
     (∀ e f i c, q.buf = [e] → e.fired = some f → i < 32 → e.mask = BitVec.ofNat 32 (2 ^ i) → c = q.member i →
       groupBlk (coreOf s c) = blk → groupSeq (coreOf s c) = seq → (∃ bit, (coreOf s c).ct.wait = .bar (some e.sq.toNat) bit) →
       ∃ t, exec (.memberRelease blk seq e.sq) s = .next t ∧ (seqAt t blk seq).buf = [] ∧ (seqAt t blk seq).st ≠ .full ∧
         f + 24 ≤ cycleNow t blk ∧ (coreOf t c).ct.wait = .none ∧ (coreOf t c).ct.pc = (coreOf s c).ct.pc + 8 ∧ t.mem = s.mem)) ∧
  (∀ (ldom : Nat) (d : LDom) (s : State), mapGet s.dev.ldoms ldom = some d →
     (d.arrived.length = d.n → d.release = none →
       exec (.gbarCountComplete ldom) s =
         .next { s with dev := { s.dev with ldoms := mapSet s.dev.ldoms ldom { d with release := some (s.dev.time + 512) } } }) ∧
     (d.arrived.length ≠ d.n → exec (.gbarCountComplete ldom) s = .next s) ∧
     (d.release = none → exec (.gbarRelease ldom) s = .next s) ∧
     (∀ tick, d.release = some tick → (s.dev.placed.any (fun p => p.serial == d.serial)) = true →
       ∃ t d', exec (.gbarRelease ldom) s = .next t ∧ tick ≤ t.dev.time ∧ mapGet t.dev.ldoms ldom = some d' ∧ d'.arrived = [] ∧
         d'.release = none ∧ d'.n = d.n ∧ d'.serial = d.serial ∧ t.mem = s.mem ∧
         ∀ c ∈ d.arrived, (coreOf s c).ct.wait = .gbar true ldom → (coreOf s c).dbg.halted = false →
           (coreOf t c).ct.wait = .none ∧ (coreOf t c).ct.pc = (coreOf s c).ct.pc + 8))

/-! ## Tasks, routines and gangs (spec 02) -/

/-- R33 to R38, R43, R255, R361, R362: END waits, and END_RETIRE frees the core and counts it in its launch. TASK_START gives a
fixed-coordinate task its registers of R34, zero in every other. MVCALL posts its routine, ROUTINE_START starts it with x1 and x2, and MVRET
ends it. TIMER_TRAP takes the timer trap, and GANG_FUSION joins the cores of a mask that all wait in FUSE with it.
R461, R447: where cores of an octet wait in FUSE with different masks of which one names the other core, each of them takes the gang-operand
fault, and the partners in its gang the partner cause. -/
def Obligations.TasksAndRoutines : Prop :=
  ∀ (h : Hdr) (d a : XReg) (imm : BitVec 18) (c : Nat) (s : State),
    let k := coreOf s c
    (Ready { infoC with transfer := true } h {} s → ∃ r, Parks (.endTask h) s r ∧ (thr r).wait = .ending ∧
      (∀ q, xget r q = xget s q) ∧ r.mem = s.mem ∧ ∀ x ∈ r.net, x ∈ s.net) ∧
    (endReady s c = false ∨ countsWait s c = true → exec (.endRetire c) s = .next s) ∧
    (∀ r, endReady s c = true → countsWait s c = false → k.task = .fixed → k.taskRec = some r →
      ∃ t, exec (.endRetire c) s = .next t ∧ (coreOf t c).ct.active = false ∧ (coreOf t c).ct.wait = .none ∧
        (coreOf t c).task = .none ∧ (coreOf t c).gang = 0 ∧ ∀ p ∈ t.dev.placed, p.serial = r.serial → c ∈ p.ended) ∧
    (∀ r, pointReady s c = none → readyRecord s c = some r → r.kind = 0 →
      ∃ t, exec (.taskStart c) s = .next t ∧
        let n := coreOf t c
        n.inbox = k.inbox.drop 1 ∧ n.task = .fixed ∧ n.ctx = some r.asid ∧ n.launchRect = r.rect ∧ n.ct.active = true ∧
        n.ct.pc = r.task ∧ n.ct.entry = .header ∧ n.ct.priv = false ∧ n.ct.p = 0 ∧ n.ct.slots = [] ∧
        n.ct.xget 1 = BitVec.ofNat 64 (colOf c - (rectOf r.rect).col0 + (rowOf c - (rectOf r.rect).row0) * 2 ^ 16) ∧
        n.ct.xget 2 = r.rect ∧ n.ct.xget 3 = r.arg0 ∧ n.ct.xget 4 = r.arg1 ∧ n.ct.xget 5 = r.arg2 ∧
        n.ct.xget 6 = BitVec.ofNat 64 (memberIdx c (rectOf r.rect)) ∧ (∀ q : XReg, 6 < q.toNat → n.ct.xget q = 0) ∧
        (∀ q, n.mt.xget q = 0) ∧ n.v = Vector.replicate 16 0 ∧ n.k = Vector.replicate 8 0 ∧ n.t = Vector.replicate 4 0 ∧
        n.a = Vector.replicate 2 0 ∧ n.tshape = Vector.replicate 4 0 ∧ n.gang = 0 ∧ n.seed = r.seed) ∧
    (Ready infoC h { xr := [d, a] } s → s.core.mvq.length < 2 →
      Completes 1 (.mvcall h d a imm) s { s with core := { s.core with
        mvq := s.core.mvq ++ [((thr s).pc + 8 * imm.signExtend 64, xget s d, xget s a, (thr s).seq)] } }) ∧
    (Ready infoC h { xr := [d, a] } s → 2 ≤ s.core.mvq.length → exec (.mvcall h d a imm) s = .next s) ∧
    (∀ tgt v1 v2 n rest, k.mvq = (tgt, v1, v2, n) :: rest → routineReady k = true →
      ∃ t, exec (.routineStart c) s = .next t ∧ (coreOf t c).mvq = rest ∧ (coreOf t c).mt.active = true ∧ (coreOf t c).mt.pc = tgt ∧
        (coreOf t c).mt.entry = .header ∧ (coreOf t c).mt.xget 1 = v1 ∧ (coreOf t c).mt.xget 2 = v2 ∧
        (∀ q : XReg, q ≠ 1 → q ≠ 2 → (coreOf t c).mt.xget q = k.mt.xget q) ∧ (coreOf t c).ct = k.ct ∧ t.mem = s.mem) ∧
    (Ready { infoM with transfer := true } h {} s →
      ∃ t, exec (.mvret h) s = .next t ∧ bare t = bare (setThr s { thr s with active := false }) ∧ (thr t).active = false) ∧
    (timerReady s c = false → exec (.timerTrap c) s = .next s) ∧
    (timerReady s c = true → atWord s c false = true → gangOf s c = [c] → k.ct.wait = .none →
      ∃ t, exec (.timerTrap c) s = .next t ∧ (coreOf t c).ct.trapCause = causeTimer ∧ (coreOf t c).ct.priv = true ∧
        (coreOf t c).ct.trapPc = wordAddr k.ct.pc ∧ (coreOf t c).ct.trapAddr = BitVec.ofNat 64 s.dev.time ∧
        (coreOf t c).ct.pc = k.ct.trapVec ∧ (∀ q, (coreOf t c).ct.xget q = k.ct.xget q) ∧ t.mem = s.mem) ∧
    (∀ m, k.ct.wait = .fuse m → fuseBad s c = [] →
      (∀ q ∈ maskCores c m, (coreOf s q).ct.wait = .fuse m ∧ (coreOf s q).taskRec.map (·.serial) = k.taskRec.map (·.serial) ∧
        timerDue s (coreOf s q) = false) →
      ∃ t, exec (.gangFusion c) s = .next t ∧ t.mem = s.mem ∧ ∀ q ∈ maskCores c m, (coreOf t q).gang = m ∧
        (coreOf t q).ct.wait = .none ∧ (coreOf t q).ct.pc = (coreOf s ((maskCores c m).headD c)).ct.pc + 8 ∧
        (coreOf t q).ct.x = (coreOf s q).ct.x ∧ (coreOf t q).ct.p = (coreOf s q).ct.p) ∧
    (let octet := (List.range 8).map (octetCore c)
     (∀ q, q ∈ fuseBad s c ↔ q ∈ octet ∧ ∃ d ∈ octet, ∃ m m', (coreOf s q).ct.wait = .fuse m ∧ (coreOf s d).ct.wait = .fuse m' ∧
       m ≠ m' ∧ (m.getLsbD (omiOf d) = true ∨ m'.getLsbD (omiOf q) = true)) ∧
     (∀ m, k.ct.wait = .fuse m → fuseBad s c ≠ [] → ∃ t, exec (.gangFusion c) s = .next t ∧ t.mem = s.mem ∧
       (∀ q ∈ fuseBad s c, q ∈ gangOf s q → (coreOf t q).ct.trapCause = causeGang ∧ (coreOf t q).ct.priv = true) ∧
       (∀ q ∈ octet, q ∉ fuseBad s c → (∃ b ∈ fuseBad s c, q ∈ gangOf s b) → (coreOf t q).ct.trapCause = causePartner) ∧
       ∀ q, (∀ b ∈ fuseBad s c, q ∉ gangOf s b) → coreOf t q = coreOf s q))

/-! ## Reductions and snapshots (spec 09, 16, 17) -/

/-- R179, R337 to R339: REDO opens a closed session over its spill area and joins tl3, RED sends one contribution, and REDC, once its release
is complete, starts the close; each takes the reduction fault where its session does not stand so, and REDO and RED the memory-operand and
alignment faults of their operands. A unit applies the open, adds a contribution exactly to the entry of its target, and at the close turns
the session's entries into results to be written and drops them; with none left it has closed. -/
def Obligations.Reductions : Prop :=
  ∀ (h : Hdr) (ty : Ty) (mode : RMode) (a b : XReg) (sid : BitVec 4) (s : State),
    let asid := myAsid s
    let joined (r : State) (op : EOp) : Prop := ∃ o, r.core.ops = s.core.ops ++ [o] ∧ o.op = op ∧ o.tl = 3 ∧
      o.num = tlNext s.core 3 ∧ (tlGet (tlsNow r.core) 3).i = o.num ∧ (∀ q, xget r q = xget s q) ∧ r.mem = s.mem ∧ r.net = s.net
    (Ready infoC h { xr := [a, b] } s → (xget s a).toNat % 64 = 0 → (xget s b).toNat % 64 = 0 →
      badAddress (xget s a) (xget s b).toNat = false → isAperture (xget s a).toNat = false →
      (∀ x, sessOf s asid sid = some x → x.st = .closed →
        ∃ r, Completes 1 (.redo h ty a b sid) s r ∧ joined r (.redo sid.toNat) ∧
          sessOf r asid sid = some { x with st := .opening, ty := ty, base := (xget s a).toNat, size := (xget s b).toNat, raised := 0,
                                            opens := 0, openCore := s.me }) ∧
      (∀ x, sessOf s asid sid = some x → x.st ≠ .closed → Traps (.redo h ty a b sid) s causeReduction 0)) ∧
    (Ready infoC h { xr := [a, b] } s → (xget s a).toNat % 64 ≠ 0 ∨ (xget s b).toNat % 64 ≠ 0 →
      Traps (.redo h ty a b sid) s causeMemOperand (xget s a)) ∧
    (Ready infoC h { xr := [a, b] } s → badAddress (xget s a) (ty.width / 8) = false → isAperture (xget s a).toNat = false →
      ((xget s a).toNat % (ty.width / 8) ≠ 0 → Traps (.red h ty a b sid) s causeAlignment (xget s a)) ∧
      (∀ x, (xget s a).toNat % (ty.width / 8) = 0 → sessOf s asid sid = some x → (x.st ≠ .opening ∧ x.st ≠ .opened) ∨ x.ty ≠ ty →
        Traps (.red h ty a b sid) s causeReduction (xget s a))) ∧
    (Ready infoC h { xr := [a, b] } s → checkRed s ty (xget s a) sid = none → queuedWrites s s.me s.onMt < 16 →
      ∃ r x, Completes 1 (.red h ty a b sid) s r ∧ r.mem = s.mem ∧ r.net = s.net ++ [x] ∧ x.op = .red sid.toNat ty ∧
        x.va = (xget s a).toNat ∧ x.data = leBytes (ty.width / 8) (xget s b).toNat ∧ x.stage = .queued ∧ x.core = s.me ∧
        ∀ q, xget r q = xget s q) ∧
    (Ready infoC h {} s → ∀ x, sessOf s asid sid = some x →
      (x.st = .opening ∨ x.st = .opened → releaseDone s s.me s.onMt deviceScope (thr s).seq = true →
        ∃ r, Completes 1 (.redc h mode sid) s r ∧ joined r (.redc sid.toNat) ∧
          ∃ y, sessOf r asid sid = some y ∧ y.st = .closing ∧ y.mode = mode ∧ y.core = s.me ∧ y.num = tlNext s.core 3 ∧ y.ty = x.ty) ∧
      (x.st ≠ .opening → x.st ≠ .opened → Traps (.redc h mode sid) s causeReduction 0)) ∧
    (∀ blk id x, sessOf s id sid = some x → x.opens < 256 → (blockAt s blk).opened.contains (id, sid.toNat) = false →
      ∃ t, exec (.redoOpenApply blk id sid) s = .next t ∧ (blockAt t blk).opened = (blockAt s blk).opened ++ [(id, sid.toNat)] ∧
        sessOf t id sid = some { x with
          opens := x.opens + 1, st := if x.opens = 255 ∧ x.st = .opening then .opened else x.st }) ∧
    (∀ id acc s1 e x, accFind s id = some acc → acc.op = .red sid.toNat ty → sendable s acc = true → lineLogged s acc = none →
      let home := homeOf s acc.asid acc.va
      translateFor s home (accReq acc) acc.va = (s1, some (.ok e)) → e.ok = acc.kind → lineBusy s1 home (physOf e acc.va) = false →
      (blockAt s home).opened.contains (acc.asid, sid.toNat) = true →
      (blockAt s home).xa.find? (fun y => y.asid == acc.asid && y.sid == sid.toNat && y.va == acc.va) = some x →
      ∃ t, exec (.redUpdateApply id) s = .next t ∧ accFind t id = some { acc with stage := .performed [] } ∧
        (blockAt t home).xa.getLast? = some { xaApply x (exactOf ty (leNat acc.data)) with core := acc.core }) ∧
    (∀ (x : XaEnt) (v : Machine.Real),
      let y := xaApply x v
      (x.cnt = 2 ^ 24 - 1 → y.cof = true ∧ y.cnt = x.cnt) ∧ (x.cnt ≠ 2 ^ 24 - 1 → y.cof = x.cof ∧ y.cnt = x.cnt + 1) ∧
      y.nan = (x.nan || decide (v = .nan)) ∧ y.pinf = (x.pinf || decide (v = .inf false)) ∧ y.ninf = (x.ninf || decide (v = .inf true)) ∧
      ((∃ e, v = .fin true 0 e) → y.nzs = x.nzs) ∧ ((∀ e, v ≠ .fin true 0 e) → y.nzs = true) ∧
      (∀ neg m e, v = .fin neg m e → -149 ≤ e →
        y.val = x.val + BitVec.ofInt 302 ((if neg then -1 else 1) * (m : Int) * 2 ^ (e + 149).toNat)) ∧
      ((∀ neg m e, v ≠ .fin neg m e) → y.val = x.val) ∧ y.va = x.va ∧ y.sid = x.sid ∧ y.asid = x.asid) ∧
    (∀ blk id x, sessOf s id sid = some x → x.st = .closing → 256 ≤ x.opens → (blockAt s blk).opened.contains (id, sid.toNat) = true →
      let b := blockAt s blk
      let mine (y : XaEnt) : Bool := y.asid == id && y.sid == sid.toNat
      let results := (b.xa.filter mine).map (fun y => resultOf x id sid.toNat y.va (xaResult x.ty x.mode y))
      exec (.redcCloseApply blk id sid) s = .next (closeRest (setBlock s blk { b with
        xa := b.xa.filter (fun y => !mine y), results := b.results ++ results
        opened := b.opened.filter (· != (id, sid.toNat)) }) blk id sid x)) ∧
    (∀ blk id x, sessOf s id sid = some x → x.st = .closing → 256 ≤ x.opens → x.closes < 255 →
      (blockAt s blk).opened.contains (id, sid.toNat) = true → (∀ e ∈ (blockAt s blk).xa, e.asid = id → e.sid ≠ sid.toNat) →
      (∀ e ∈ (blockAt s blk).spills, e.asid = id → e.sid ≠ sid.toNat) →
      (∀ e ∈ (blockAt s blk).results, e.asid = id → e.sid ≠ sid.toNat) →
      ∃ t, exec (.redcCloseApply blk id sid) s = .next t ∧ sessOf t id sid = some { x with closes := x.closes + 1 } ∧
        (blockAt t blk).opened.contains (id, sid.toNat) = false ∧ (blockAt t blk).xa = (blockAt s blk).xa)

/-- R199, R291, R293, R337 to R339: where VEXPR, VSFU, the reduction instructions and the steps of the reduction units complete. A VEXPR,
two words long, whose program leaves one entry writes d alone, one that leaves two writes d and v(d + 1), and a VSFU writes the selected
lanes of d alone; every other register, and every byte of memory, keeps its value. REDO, RED and REDC write no register of the thread and
no byte of memory, and the thread goes on at the next word; a step of a unit leaves every register of the issuing core's threads as it is. -/
def Obligations.ExpressionsAndReductionsComplete : Prop :=
  (∀ (h : Hdr) (ty : Ty) (r : Rnd) (fn : Fn) (d a : VReg) (s1 s2 s3 s4 : Option VReg) (e : Option KReg) (lit : Word) (s : State),
      let srcs := optReg s1 ++ optReg s2 ++ optReg s3 ++ optReg s4
      let keeps (t : State) : Prop := (∀ q, xget t q = xget s q) ∧ (∀ q, pget t q = pget s q) ∧ (∀ q, kget t q = kget s q) ∧
        t.mem = s.mem ∧ t.net = s.net ∧ t.cores = s.cores ∧ t.blocks = s.blocks ∧ t.dev.queues = s.dev.queues
      ((vexprScan lit).depth ≠ 2 → Ready { infoC with words := 2 } h { vr := srcs, vw := [d] } s →
        ∃ t, exec (.vexpr h ty r d s1 s2 s3 s4 lit) s = .next t ∧ (thr t).pc = (thr s).pc + 16 ∧ keeps t ∧
          ∀ q, q ≠ d → vget t q = vget s q) ∧
      ((vexprScan lit).depth = 2 → Ready { infoC with words := 2 } h { vr := srcs, vw := [d, d + 1] } s →
        ∃ t, exec (.vexpr h ty r d s1 s2 s3 s4 lit) s = .next t ∧ (thr t).pc = (thr s).pc + 16 ∧ keeps t ∧
          ∀ q, q ≠ d → q ≠ d + 1 → vget t q = vget s q) ∧
      (Ready infoC h { vr := a :: kept d e, vw := [d], kr := optReg e } s →
        ∃ t, exec (.vsfu h ty r fn d a e) s = .next t ∧ (thr t).pc = (thr s).pc + 8 ∧ keeps t ∧ (∀ q, q ≠ d → vget t q = vget s q) ∧
          ∀ i < ty.lanes, selLane s e i = false → lane (vget t d) ty i = lane (vget s d) ty i)) ∧
  (∀ (h : Hdr) (ty : Ty) (mode : RMode) (a b : XReg) (sid : BitVec 4) (s : State) (x : Session),
      sessOf s (myAsid s) sid = some x →
      let runs (i : Instr) : Prop := ∃ t, exec i s = .next t ∧ (thr t).pc = (thr s).pc + 8 ∧ (∀ q, xget t q = xget s q) ∧
        (∀ q, pget t q = pget s q) ∧ (∀ q, vget t q = vget s q) ∧ (∀ q, kget t q = kget s q) ∧ t.mem = s.mem
      (Ready infoC h { xr := [a, b] } s →
        (x.st = .closed → (xget s a).toNat % 64 = 0 → (xget s b).toNat % 64 = 0 → badAddress (xget s a) (xget s b).toNat = false →
          isAperture (xget s a).toNat = false → runs (.redo h ty a b sid)) ∧
        (x.st = .opening ∨ x.st = .opened → x.ty = ty → (xget s a).toNat % (ty.width / 8) = 0 → badAddress (xget s a) (ty.width / 8) = false →
          isAperture (xget s a).toNat = false → queuedWrites s s.me s.onMt < 16 → runs (.red h ty a b sid))) ∧
      (Ready infoC h {} s → x.st = .opening ∨ x.st = .opened → releaseDone s s.me s.onMt deviceScope (thr s).seq = true →
        runs (.redc h mode sid)) ∧
      (∀ blk, blk < 256 → x.opens < 256 → (myAsid s, sid.toNat) ∉ (blockAt s blk).opened →
        ∃ t y, exec (.redoOpenApply blk (myAsid s) sid) s = .next t ∧ (myAsid s, sid.toNat) ∈ (blockAt t blk).opened ∧
          sessOf t (myAsid s) sid = some y ∧ y.opens = x.opens + 1 ∧ t.core.ct = s.core.ct ∧ t.core.mt = s.core.mt) ∧
      (∀ id acc s1 e ent, accFind s id = some acc → acc.op = .red sid.toNat ty → sendable s acc = true → lineLogged s acc = none →
        let home := homeOf s acc.asid acc.va
        translateFor s home (accReq acc) acc.va = (s1, some (.ok e)) → e.ok = acc.kind →
        lineBusy s1 home (physOf e acc.va) = false → (acc.asid, sid.toNat) ∈ (blockAt s home).opened →
        (blockAt s home).xa.find? (fun y => y.asid == acc.asid && y.sid == sid.toNat && y.va == acc.va) = some ent →
        ∃ t, exec (.redUpdateApply id) s = .next t ∧ accFind t id = some { acc with stage := .performed [] } ∧ t.mem = s1.mem ∧
          t.core = s1.core) ∧
      (∀ blk, x.st = .closing → x.opens = 256 → x.closes < 255 → (myAsid s, sid.toNat) ∈ (blockAt s blk).opened →
        (∀ y ∈ (blockAt s blk).xa, y.asid = myAsid s → y.sid ≠ sid.toNat) → (∀ y ∈ (blockAt s blk).spills, y.asid = myAsid s → y.sid ≠ sid.toNat) →
        (∀ y ∈ (blockAt s blk).results, y.asid = myAsid s → y.sid ≠ sid.toNat) →
        ∃ t, exec (.redcCloseApply blk (myAsid s) sid) s = .next t ∧ (myAsid s, sid.toNat) ∉ (blockAt t blk).opened ∧
          sessOf t (myAsid s) sid = some { x with closes := x.closes + 1 } ∧ t.core = s.core ∧ t.mem = s.mem))

/-- R132 to R134, R138, R139, R142, R377 to R379: SNOPEN, whose range list has come, opens a level at the next G; SNACC and SNREJ end the
innermost one; each joins tl4 and answers its number, and with no level open SNACC and SNREJ take the snapshot fault. SNQRY stores its
record, and completes when it is performed. At an agent, an operation moves the view on; an accept drops the entries of its level, and a
reject makes each line written since the open await its value at the open (when it is restored: log 54). -/
def Obligations.Snapshots : Prop :=
  ∀ (h : Hdr) (d a b : XReg) (s : State),
    let n := (xget s b).toNat
    let clear : Prop := ∀ x ∈ accsOf s s.me false, x.op.writes = true → x.performed = true
    (∀ c, clear → myCtx s = some c → opsOn s.core 4 < 8 →
      let joins (i : Instr) (levels : List Level) : Prop := ∃ r o c', Completes 1 i s r ∧ r.core.ops = s.core.ops ++ [o] ∧
        o.op = .snap (c.snapG + 1) ∧ o.tl = 4 ∧ o.num = tlNext s.core 4 ∧ (d ≠ 0 → xget r d = BitVec.ofNat 64 o.num) ∧
        (∀ q, q ≠ d → xget r q = xget s q) ∧ r.mem = s.mem ∧ myCtx r = some c' ∧ c'.snapG = c.snapG + 1 ∧ c'.levels = levels ∧
        c'.shUsed = c.shUsed ∧ c'.ldt = c.ldt
      (Ready infoM h { xr := [a, b], xw := [d] } s → 1 ≤ n → n ≤ 4 → (xget s a).toNat % 16 = 0 →
        checkRange s (xget s a) (16 * n) = none → (thr s).got ≠ [] → snopenOk s (rangesOf (thr s).got n) = true →
        joins (.snopen h d a b) (c.levels ++ [{ og := c.snapG + 1, ranges := rangesOf (thr s).got n }])) ∧
      (Ready infoM h { xw := [d] } s → c.levels ≠ [] →
        joins (.snacc h d) c.levels.dropLast ∧ joins (.snrej h d) c.levels.dropLast) ∧
      (Ready infoM h { xw := [d] } s → c.levels = [] → Traps (.snacc h d) s causeSnapshot 0 ∧ Traps (.snrej h d) s causeSnapshot 0)) ∧
    (Ready infoM h { xr := [a, b] } s → n ≤ 8 → (xget s a).toNat % 64 = 0 → checkRange s (xget s a) 128 = none → clear →
      ((thr s).got ≠ [] → (∀ x ∈ accsOf s s.me s.onMt, x.op.writes = true → x.performed = true) →
        Completes 1 (.snqry h a b) s s) ∧
      ((thr s).got = [] → queuedWrites s s.me s.onMt < 16 → ∀ c, myCtx s = some c →
        ∃ t, exec (.snqry h a b) s = .next t ∧ (thr t).got = [1] ∧ (thr t).pc = (thr s).pc ∧
          bare t = bare (storeRange s 0 (xget s a).toNat (snqryBytes s (myAsid s) c n) none))) ∧
    (∀ blk id g kind acks core c, snapReady s blk id g = true → ctxOf s id = some c → snapOp c g = some (kind, acks, core) → acks < 255 →
      let v := viewOf (blockAt s blk) id
      let mine := (blockAt s blk).shadow.filter (fun x => x.asid == id)
      ∃ t c', exec (.snapshotOpApply blk id g) s = .next t ∧
        viewOf (blockAt t blk) id = { asid := id, applied := g, levels := (mapGet c.snapLevels g).getD [] } ∧
        ctxOf t id = some c' ∧ snapOp c' g = some (kind, acks + 1, core) ∧
        (kind = 0 → (blockAt t blk).shadow = (blockAt s blk).shadow) ∧
        ((∀ x ∈ (blockAt s blk).shadow, x.restore = none) →
          let left (x : ShadowLine) := x.e.filter (fun e => e.lvl != v.levels.length)
          (kind = 1 → (blockAt t blk).shadow.filter (fun x => x.asid == id) = mine.map (fun x => { x with e := left x })) ∧
          (∀ lv, kind = 2 → v.levels.getLast? = some lv → ∀ x ∈ mine,
            let written := x.vas.any (fun p => inRanges p.1 lv.ranges && decide (lv.og ≤ p.2))
            (written = false → { x with e := left x } ∈ (blockAt t blk).shadow) ∧
            (∀ e es, x.e = e :: es → written = true →
              { x with restore := some e.data, lw := e.lwb, e := left x, vas := x.vas.map (fun p => (p.1, min p.2 e.lwb)) } ∈
                (blockAt t blk).shadow))))

/-! ## Rings (spec 16) -/

/-- R347 to R356: HCFG sets up a handle; HRSV asks the receiver for a slot, which grants the slot at its pointer when that is FREE; SEND adds
bytes at the fill cursor; HCMT, once released, commits, and the slot becomes FILLED; HADV frees the HELD slot and takes the head slot;
HQRY reads the state; WAKE sends a wake, which a contained target
turns away (R477). Each takes the handle fault, or waits, in the states that Table 16.4 names. -/
def Obligations.Rings : Prop :=
  ∀ (h : Hdr) (hd : HReg) (d c : XReg) (v : VReg) (op : HcfgOp) (s : State),
    let x := hget s.core hd
    let rx := launchCore s.core x.peer
    let put (y : Handle) : State := { s with core := hset s.core hd y }
    let released (core : Nat) : Prop := releaseDone s s.me s.onMt (oneCore core) (thr s).seq = true
    (Ready infoC h { xr := hcfgRegs op } s →
      (∀ y, hcfgFrom x = true → x.waiting = [] → hcfgNew op s = some y → Completes 1 (.hcfg h op hd) s (put y)) ∧
      (hcfgFrom x = false ∨ hcfgNew op s = none → Traps (.hcfg h op hd) s causeHandle 0)) ∧
    (∀ k ra rb z m, ra.toNat % 64 = 0 → 64 ≤ z → z ≤ 4096 → z % 64 = 0 → 1 ≤ m → m ≤ 256 → ra.toNat + z * m ≤ padSize k →
      rb = BitVec.ofNat 64 (m * 2 ^ 16 + z) →
      hcfgRx k ra rb = some { Handle.reset with st := .rx, base := ra.toNat, z := z, slots := List.replicate m .free }) ∧
    (Ready infoC h {} s →
      (x.st = .txIdle → Completes 1 (.hrsv h hd) s (post (put { x with st := .txWait }) (.ringReservationRequest s.me hd))) ∧
      (x.st ≠ .txIdle → Traps (.hrsv h hd) s causeHandle 0) ∧
      (x.st = .txHold → absentRx s s.me rx = false → released rx →
        Completes 1 (.hcmt h hd) s (post
          { s with core := { hset s.core hd { x with st := .txIdle, slot := 0, cur := 0 } with
              commits := s.core.commits ++ [⟨hd, launchIndex s s.me, (launchOf s.core).getD 0, rx, x.peerH, x.slot⟩] } }
          (.commitComplete s.me hd))) ∧
      (x.st ≠ .txHold → x.st ≠ .txWait → Traps (.hcmt h hd) s causeHandle 0) ∧ (x.st = .txWait → exec (.hcmt h hd) s = .next s) ∧
      (x.st = .rx → x.waiting = [] → Completes 1 (.hadv h .done hd) s (put (freeHeld x))) ∧
      (x.st ≠ .rx → Traps (.hadv h .done hd) s causeHandle 0)) ∧
    (Ready infoC h { xw := [d] } s →
      (x.st = .rx → x.waiting = [] → slotOfRing (freeHeld x) x.head = .filled →
        Completes 1 (.hadv h (.next d) hd) s (xset (put { freeHeld x with
            slots := listSet (freeHeld x).slots x.head .held, head := (x.head + 1) % max 1 x.slots.length }) d
          (BitVec.ofNat 64 (0xF0_0000_0000_0000 + x.base + x.z * x.head)))) ∧
      ∃ w : Word, Completes 1 (.hqry h d hd) s (xset s d w) ∧
        (x.slot < 256 → x.slots.length ≤ 256 → w.extractLsb' 48 16 = BitVec.ofNat 16 x.st.code) ∧
        (x.st = .rx → x.slots.length ≤ 256 →
          (w.extractLsb' 16 16).toNat = (x.slots.filter (· == .filled)).length ∧
          (w.extractLsb' 0 16).toNat = (x.slots.filter (· == .free)).length)) ∧
    (Ready infoC h { xr := [c], vr := [v] } s →
      let n := (xget s c).toNat
      (x.st = .txHold → absentRx s s.me rx = false → 1 ≤ n → n ≤ 512 → x.cur + n ≤ x.z → queuedWrites s s.me s.onMt < 16 →
        ∃ r m, Completes 1 (.send h hd v c) s r ∧ r.net = s.net ++ [m] ∧ m.op = .send hd x.peerH x.slot x.cur ∧
          m.va = localKey rx ((hget (coreOf s rx) x.peerH).base + (hget (coreOf s rx) x.peerH).z * x.slot + x.cur) ∧
          m.data = (leBytes 512 (vget s v).toNat).take n ∧ hget r.core hd = { x with cur := x.cur + n } ∧ r.mem = s.mem ∧
          ∀ q, xget r q = xget s q) ∧
      (x.st = .txHold → 1 ≤ n → n ≤ 512 → x.z < x.cur + n → Traps (.send h hd v c) s causeHandle 0) ∧
      (x.st = .txHold → n = 0 ∨ 512 < n → Traps (.send h hd v c) s causeMemOperand 0)) ∧
    (Ready infoC h { xr := [c] } s →
      let tgt := launchCore s.core (xget s c).toNat
      ((xget s c).toNat < memberCount s.core → (xget s c).toNat < 2 ^ 16 → absentRx s s.me tgt = false → released tgt →
        ((coreOf s tgt).contained = false → Completes 1 (.wake h c) s (post s (.wakeArrival tgt))) ∧
        ((coreOf s tgt).contained = true →
          Completes 1 (.wake h c) s (addTrap s s.me s.onMt causeContained (BitVec.ofNat 64 (0xF2_0000_0000_0000 + tgt * 2 ^ 20))))) ∧
      (memberCount s.core ≤ (xget s c).toNat ∨ 2 ^ 16 ≤ (xget s c).toNat → Traps (.wake h c) s causeMemOperand 0)) ∧
    (∀ tx th, tx < 2 ^ 20 →
      let y := hget (coreOf s tx) th
      let r := launchCore (coreOf s tx) y.peer
      let z := hget (coreOf s r) y.peerH
      (y.st = .txWait → absentRx s tx r = false → z.st = .rx → sameLaunch s tx r = true → z.waiting = [] →
        ∃ t, exec (.ringReservationRequest tx th) s = .next t ∧
          (slotOfRing z z.grantPtr = .free →
            hget (coreOf t r) y.peerH = { z with slots := listSet z.slots z.grantPtr (.granted (launchIndex s tx) th)
                                                 grantPtr := (z.grantPtr + 1) % max 1 z.slots.length } ∧
            (.ringGrant (memberNow s r (launchIndex s tx)) th (some (z.grantPtr, z.z))) ∈ t.pending) ∧
          (slotOfRing z z.grantPtr ≠ .free → hget (coreOf t r) y.peerH = { z with waiting := [(launchIndex s tx, th)] })) ∧
      (y.st = .txWait → absentRx s tx r = false → z.st ≠ .rx →
        exec (.ringReservationRequest tx th) s = .next (post s (.ringGrant tx th none))) ∧
      (y.st = .txWait → (coreOf s tx).stopped = false →
        (∀ g : Nat × Nat, ∃ t, exec (.ringGrant tx th (some g)) s = .next t ∧
          hget (coreOf t tx) th = { y with st := .txHold, slot := g.1, z := g.2, cur := 0 }) ∧
        ∃ t, exec (.ringGrant tx th none) s = .next t ∧ hget (coreOf t tx) th = { y with st := .error }) ∧
      (∀ c, commitOf (coreOf s tx) th = some c → (coreOf s c.rx).contained = false → (coreOf s c.rx).stopped = false → away s c.rx c.serial = false →
        sendsDone s tx th c.slot = true → launchOf (coreOf s c.rx) = some c.serial →
        slotOfRing (hget (coreOf s c.rx) c.rxh) c.slot = .granted c.m th → (coreOf s c.rx).dbg.halted = false →
        ∃ t, exec (.commitComplete tx th) s = .next t ∧ t.mem = s.mem ∧
          hget (coreOf t c.rx) c.rxh = { hget (coreOf s c.rx) c.rxh with slots := listSet (hget (coreOf s c.rx) c.rxh).slots c.slot .filled }))

/-! ## Copies, peer operations and cache commands (spec 17) -/

/-- R358, R360, R363 to R373: a copy, gather, tile copy, peer operation or cache command that passes its checks joins its timeline, with its
number in d and the operands it read, and nothing else changes: the work is the engines'. Here the compute thread's earlier stores are
performed (R124), and the timeline has room. A failed check of a range, a tag or a status is its trap, and no operation joins. -/
def Obligations.MovementCommands : Prop :=
  ∀ (h : Hdr) (s1 : Bool) (d a b c p : XReg) (e st : Option XReg) (ty : Ty) (cls : FillCls) (id : BitVec 8) (op : CwinOp) (s : State),
    let clear : Prop := ∀ x ∈ accsOf s s.me false, x.op.writes = true → x.performed = true
    let joins (i : Instr) (tl : BitVec 3) (op : EOp) (tag : Option (Nat × Nat × Nat)) : Prop :=
      clear → opsOn s.core tl < 8 →
        ∃ r o, Completes 1 i s r ∧ r.core.ops = s.core.ops ++ [o] ∧ o.op = op ∧ o.tl = tl.toNat ∧ o.num = tlNext s.core tl ∧ o.tag = tag ∧
          o.cursor = 0 ∧ o.phase = 0 ∧ o.ch = h.ch ∧ o.asid = myAsid s ∧ o.priv = (thr s).priv ∧
          (tlGet (tlsNow r.core) tl).i = o.num ∧ (d ≠ 0 → xget r d = BitVec.ofNat 64 o.num) ∧ (∀ q, q ≠ d → xget r q = xget s q) ∧
          r.mem = s.mem ∧ r.net = s.net ∧ r.blocks = s.blocks ∧ r.ctxs = s.ctxs ∧ r.cores = s.cores
    let tl : BitVec 3 := if s1 then 1 else 0
    let x := xget s a
    let y := xget s b
    let z := xget s c
    let n := z.toNat
    let w := xget s p
    let tagFine := checkTag s e = none
    (Ready infoM h { xr := a :: b :: c :: optReg e, xw := [d] } s →
      (n < 2 ^ 32 → checkRange s x n = none → checkRange s y n = none → tagFine →
        joins (.cpy h s1 d a b c e) tl (.copy x.toNat y.toNat n) (tagOf s e)) ∧
      (2 ^ 32 ≤ n → Traps (.cpy h s1 d a b c e) s causeMemOperand 0) ∧
      (∀ f, n < 2 ^ 32 → checkRange s x n = some f → Traps (.cpy h s1 d a b c e) s f.1 f.2) ∧
      (∀ f, n < 2 ^ 32 → checkRange s x n = none → checkRange s y n = some f → Traps (.cpy h s1 d a b c e) s f.1 f.2) ∧
      (∀ t, y.toNat % 128 = 0 → checkRange s y 128 = none → (thr s).got ≠ [] → genFieldsOk (thr s).got = true →
        let w0 := recWord (thr s).got 0
        let steps := genSteps (thr s).got (field w0 11 8)
        let bytes := steps.foldl (fun acc x => acc * x.1) (field w0 31 16 * ((dType t).width / 8))
        ldtGet s (w0.setWidth 8) = some t → (∀ q ∈ steps, q.2.1 < dRank t) → dType t ≠ .i4 → dType t ≠ .gq4 → bytes < 2 ^ 32 →
        checkRange s x bytes = none → tagFine →
        joins (.cpyg h s1 d a b c e) tl (.gather x.toNat bytes t steps (field w0 31 16) ((List.range 4).map (fun m => int16 (coordOf z m))))
          (tagOf s e)) ∧
      (y.toNat % 128 ≠ 0 → Traps (.cpyg h s1 d a b c e) s causeMemOperand y) ∧
      (∀ u v, n < 2 ^ 16 → ldtGet s (z.extractLsb' 0 8) = some u → ldtGet s (z.extractLsb' 8 8) = some v → cpywOk u v y x = true → tagFine →
        joins (.cpyw h s1 d a b c e) tl (.tile u v y x) (tagOf s e)) ∧
      (n < 2 ^ 16 → ldtGet s (z.extractLsb' 0 8) = none → Traps (.cpyw h s1 d a b c e) s causeDescriptor 0)) ∧
    (Ready infoM h { xr := [a, b, c, p], xw := [d] } s →
      (n < 2 ^ 32 → checkRange s y n = none → w.toNat < 2 ^ 16 → peerOk s w.toNat = true →
        joins (.cpyp h d a b c p) 6 (.peer w.toNat x.toNat y.toNat n) none) ∧
      (1 ≤ n → n ≤ 65536 → x.toNat % (ty.width / 8) = 0 → checkRange s y (n * (ty.width / 8)) = none → w.toNat < 2 ^ 20 →
        peerOk s (w.toNat % 2 ^ 16) = true →
        joins (.collp h ty d a b c p) 6 (.coll ty (w.toNat % 2 ^ 16) x.toNat y.toNat n (w.toNat / 2 ^ 16)) none) ∧
      (n = 0 ∨ 65536 < n → Traps (.collp h ty d a b c p) s causeMemOperand 0)) ∧
    (Ready infoM h { xr := optReg st, xw := [d] } s →
      (∀ t, ldtGet s id = some t → checkStatus s st = none →
        joins (.cfill h cls s1 d st id) tl (.fill cls t (statusOf s st)) none) ∧
      (ldtGet s id = none → Traps (.cfill h cls s1 d st id) s causeDescriptor 0)) ∧
    (Ready infoM h { xr := a :: optReg st, xw := [d] } s →
      (x.toNat % 65536 = 0 → checkStatus s st = none →
        joins (.cpin h s1 d a st) tl (.pin x.toNat (statusOf s st)) none ∧
        joins (.cunpin h s1 d a st) tl (.unpin x.toNat (statusOf s st)) none) ∧
      (x.toNat % 65536 ≠ 0 → Traps (.cpin h s1 d a st) s causeMemOperand x ∧ Traps (.cunpin h s1 d a st) s causeMemOperand x)) ∧
    (Ready infoM h { xr := a :: (cwinRegs op ++ optReg st), xw := [d] } s →
      cwinCheck op a st s = none → joins (.cwin h op s1 d a st) tl (cwinOp op a st s) none)

/-- R374 to R376, R380 to R383: WVOPEN, whose record is read and passes R149, joins tl5 and opens its walk with a visited map of zeros;
WVCLOSE joins tl5, and releases the walk when its WVOPEN has completed; WVQRY answers whether a declared tile is resident and WVDONE
the points done. LRPATCH writes a field of a record that is idle, LRARM arms one, LRQRY reads its state, and SEEDRD half of the seed. -/
def Obligations.WalkAndLaunchInstructions : Prop :=
  ∀ (h : Hdr) (d a b c : XReg) (wid : BitVec 4) (hi : Bool) (s : State),
    let clear : Prop := ∀ x ∈ accsOf s s.me false, x.op.writes = true → x.performed = true
    let asid := myAsid s
    let x := xget s a
    let y := xget s b
    let same (u : State) : Prop := u.core = s.core ∧ u.me = s.me ∧ u.onMt = s.onMt ∧ u.net = s.net
    let num := tlNext s.core 5
    let joined (r : State) (op : EOp) : Prop := ∃ o, o ∈ r.core.ops ∧ o.op = op ∧ o.tl = 5 ∧ o.num = num ∧
      (tlGet (tlsNow r.core) 5).i = num ∧ (d ≠ 0 → xget r d = BitVec.ofNat 64 num) ∧ ∀ q, q ≠ d → xget r q = xget s q
    (∀ u bs, Ready infoM h { xr := [a, b], xw := [d] } s → x.toNat % 128 = 0 → checkRange s x 128 = none →
      walkOf s asid wid.toNat = none → clear → opsOn s.core 5 < 8 →
      engineRead s s.me s.onMt (coreReq s s.me (thr s).priv 0) x.toNat 128 = (u, .bytes bs) → same u →
      walkOk u asid (newWalk u ((List.range 16).map (recWord bs)) y num 0 none) = true →
      ∃ r w, Completes 1 (.wvopen h d a b wid) s r ∧ joined r (.walkOpen wid.toNat) ∧ walkOf r asid wid.toNat = some w ∧
        w.record = (List.range 16).map (recWord bs) ∧ w.rect = y ∧ w.core = s.me ∧ w.num = num ∧ w.cursor = 0 ∧ w.pts = [] ∧
        w.serial = u.dev.serial + 1 ∧ r.mem = eraseRange u.mem (visitedKey u asid w 0) ((w.points + 7) / 8)) ∧
    (Ready infoM h { xr := [a, b], xw := [d] } s →
      (checkRange s x 128 = none → x.toNat % 128 ≠ 0 ∨ (walkOf s asid wid.toNat).isSome = true →
        Traps (.wvopen h d a b wid) s causeWalk 0) ∧
      ∀ c v, checkRange s x 128 = some (c, v) → Traps (.wvopen h d a b wid) s c v) ∧
    (Ready infoM h { xw := [d] } s → ∀ w, walkOf s asid wid.toNat = some w → clear → opsOn s.core 5 < 8 → w.doneOp = false →
      ∃ r, Completes 1 (.wvclose h d wid) s r ∧ joined r (.walkClose wid.toNat) ∧ r.mem = s.mem ∧
        walkOf r asid wid.toNat = some { w with closing := w.closing ++ [s.me] }) ∧
    (Ready infoM h { xw := [d] } s → ∀ w k, ctxOf s asid = some k → mapSorted k.walks = true → mapGet k.walks wid.toNat = some w → clear →
      opsOn s.core 5 < 8 → w.doneOp = true →
      ∃ r, Completes 1 (.wvclose h d wid) s r ∧ r.mem = s.mem ∧ walkOf r asid wid.toNat = none ∧
        (d ≠ 0 → xget r d = BitVec.ofNat 64 num) ∧ ∀ q, q ≠ d → xget r q = xget s q) ∧
    (Ready infoM h { xw := [d] } s → walkOf s asid wid.toNat = none → Traps (.wvclose h d wid) s causeWalk 0) ∧
    (Ready infoCM h { xr := [a, b], xw := [d] } s → ∀ w, walkOf s asid wid.toNat = some w →
      (x.toNat < w.points → y.toNat < w.ntile →
        Completes 1 (.wvqry h d a b wid) s (xset s d (if tileResident s (weevilReq asid s.me (thr s).priv 0) w y.toNat x.toNat then 1 else 0))) ∧
      (w.points ≤ x.toNat ∨ w.ntile ≤ y.toNat → Traps (.wvqry h d a b wid) s causeWalk 0)) ∧
    (Ready infoCM h { xw := [d] } s → ∀ w, walkOf s asid wid.toNat = some w →
      ∃ v : Word, Completes 1 (.wvdone h d wid) s (xset s d v) ∧ v.getLsbD 63 = w.doneOp ∧ v.extractLsb' 48 15 = 0 ∧
        (v.extractLsb' 0 48).toNat = (w.pts.filter (fun p => p.2 == .done)).length % 2 ^ 48) ∧
    (Ready infoC h { xr := [a, b, c], xw := [d] } s → x.toNat < 4096 → y.toNat < 4 →
      ((lrState s asid x.toNat).st ≠ 0 → Completes 1 (.lrpatch h d a b c) s (xset s d 1)) ∧
      (∀ u bs, (lrState s asid x.toNat).st = 0 →
        hiveWrite s asid (lrAddr s asid x.toNat + (if y.toNat = 0 then 0 else 8 + 8 * y.toNat)) (leBytes 8 (xget s c).toNat) none = (u, .bytes bs) →
        same u → Completes 1 (.lrpatch h d a b c) s (xset u d 0))) ∧
    (Ready infoC h { xr := [a, b, c], xw := [d] } s → 4096 ≤ x.toNat ∨ 4 ≤ y.toNat → Traps (.lrpatch h d a b c) s causeMemOperand 0) ∧
    (Ready infoC h { xr := [a], xw := [d] } s → x.toNat < 4096 → releaseDone s s.me s.onMt deviceScope (thr s).seq = true →
      ((lrState s asid x.toNat).st ≠ 0 → Completes 1 (.lrarm h d a) s (xset s d 1)) ∧
      (∀ u bs, (lrState s asid x.toNat).st = 0 → hiveRead s asid (lrAddr s asid x.toNat) 64 none = (u, .bytes bs) → same u →
        ((recWord bs 5).getLsbD 63 = false → Completes 1 (.lrarm h d a) s (xset u d 2)) ∧
        ((recWord bs 5).getLsbD 63 = true → same (armRecord s asid x.toNat none none).1 →
          ∃ r w, Completes 1 (.lrarm h d a) s (xset r d 0) ∧ r = (armRecord s asid x.toNat none none).1 ∧ r.dev.waiting.getLast? = some w ∧
            w.asid = asid ∧ w.index = x.toNat ∧ w.q = none ∧ Ev.placement ∈ r.pending))) ∧
    (Ready infoC h { xr := [a], xw := [d] } s → x.toNat < 4096 → ∀ v : LrState, lrState s asid x.toNat = v →
      (v.st ≠ 0 → Completes 1 (.lrqry h d a) s (xset s d (BitVec.ofNat 64 (v.st + v.done % 2 ^ 32 * 2 ^ 32)))) ∧
      (∀ u bs, v.st = 0 → hiveRead s asid (lrAddr s asid x.toNat) 64 none = (u, .bytes bs) → same u →
        Completes 1 (.lrqry h d a) s
          (xset u d (BitVec.ofNat 64 ((if (recWord bs 5).getLsbD 63 then 0 else 3) + v.done % 2 ^ 32 * 2 ^ 32))))) ∧
    (Ready infoC h { xr := [a], xw := [d] } s → 4096 ≤ x.toNat →
      Traps (.lrarm h d a) s causeMemOperand 0 ∧ Traps (.lrqry h d a) s causeMemOperand 0) ∧
    (Ready infoC h { xw := [d] } s → Completes 1 (.seedrd h hi d) s (xset s d (s.core.seed.extractLsb' (if hi then 64 else 0) 64)))

/-! ## What the engines and the Weevils do (spec 08, 17, 26) -/

/-- R62, R90, R118, R363, R365, R372, R373, R453: a step of a copy within the core's scratchpad binds the bytes of one 4-byte unit of its
source, or writes one unit of its destination, once the source bytes of the destination's sector are bound, and where the destination
begins within the source out of step with its units also every source byte that the write would change; a step that may do either does
either (log 23). It moves the cursor; the last unit of a sector counts the sector's bytes on the sequencer that its tag names, and at the end the operation has done its work and its
completion is due. A pin charges its window, a window
change replaces the window of its base. A fault that is held stops the operation with one event, and any other ends it. -/
def Obligations.EngineSteps : Prop :=
  ∀ (core op : Nat) (o : EngOp) (s : State),
    let k := coreOf s core
    let ended (t : State) : Prop := opFind t core op = some { o with phase := 255 } ∧ Ev.timelineComplete core o.tl o.num ∈ t.pending
    opFind s core op = some o → enginesRun k = true → o.phase ≠ 255 →
    (∀ src dst n, o.op = .copy (15 * 2 ^ 52 + dst) (15 * 2 ^ 52 + src) n → core < 2 ^ 20 → o.stopped = false →
      k.dbg.ctl.getLsbD 33 = false → k.dbg.halted = false → src + n ≤ padSize k → dst + n ≤ padSize k →
      let d := 15 * 2 ^ 52 + dst + o.cursor
      let room := n - o.cursor
      let m := min (48 - d % 48) room
      let u := min (4 - d % 4) m
      let need := max m (if src < dst ∧ dst < src + n ∧ (dst - src) % 4 ≠ 0 then min room (dst - src + min (4 - d % 4) room) else 0)
      let from_ := o.cursor + o.buf.length
      let r := min (4 - (src + from_) % 4) (n - from_)
      let same (t : State) : Prop := exec (.copySectorPerformed core op) s = .next t ∧ (∀ q, q ≠ core → coreOf t q = coreOf s q) ∧
        (coreOf t core).ct = k.ct ∧ (coreOf t core).mt = k.mt
      let bound (t : State) : Prop := same t ∧ t.mem = s.mem ∧ t.blocks = s.blocks ∧
        opFind t core op = some { o with buf := o.buf ++ readBytes s.mem (localKey core (src + from_)) r }
      let wrote (t : State) : Prop := same t ∧
        opFind t core op = some { o with
          buf := o.buf.drop u, cursor := o.cursor + u, phase := if n ≤ o.cursor + u then 255 else o.phase } ∧
        (n ≤ o.cursor + u → Ev.timelineComplete core o.tl o.num ∈ t.pending) ∧
        (o.tag = none ∨ u < m → t.blocks = s.blocks ∧ t.ctxs = s.ctxs ∧
          t.mem = writeBytes s.mem (localKey core (dst + o.cursor)) (o.buf.take u)) ∧
        (∀ b q g, o.tag = some (b, q, g) → u = m → savedSeqAt s b q = none →
          seqAt t b q = ((seqAt s b q).count g (d + u - max (15 * 2 ^ 52 + dst) (d / 48 * 48))).1)
      (n ≤ o.cursor → ∃ t, exec (.copySectorPerformed core op) s = .next t ∧ ended t ∧ t.mem = s.mem) ∧
      (o.cursor < n →
        (o.buf.length < need → poisonedIn s (localKey core (src + from_)) r = false → ∃ t, bound t) ∧
        (o.buf.length = room → ∃ t, wrote t) ∧
        (need ≤ o.buf.length → o.buf.length < room → poisonedIn s (localKey core (src + from_)) r = false → ∃ t, bound t ∨ wrote t))) ∧
    (∀ base c w, o.op = .pin base none → o.stopped = false → o.phase ≠ 1 → ctxOf s o.asid = some c →
      c.windows.find? (fun x => x.base == base) = some w → w.pin = true → w.pinned = false →
      c.pinUsed + pinCharge w.size ≤ c.tab.pinlim →
      (∀ b ∈ w.blocks, 2 * (pinnedIn s b + windowShare w b) ≤ cacheLines (blockAt s b)) →
      ∃ t c', exec (.copySectorPerformed core op) s = .next t ∧ ended t ∧ ctxOf t o.asid = some c' ∧
        c'.pinUsed = c.pinUsed + 342 * (w.size / 65536) ∧
        c'.windows.find? (fun x => x.base == base) = some { w with pinned := true } ∧ t.mem = s.mem) ∧
    (∀ base size blocks pin c, o.op = .winSet base size blocks pin none → o.phase ≠ 1 → base < 2 ^ 56 → ctxOf s o.asid = some c →
      (liveCores s).findSome? (fun c => if enginesRun (coreOf s c) then ((coreOf s c).ops.find? (isWindowOp o.asid base)).map (fun x => (c, x)) else none)
        = some (core, o) →
      let w := windowFrom base size blocks pin
      winSetStatus s c w = 0 → (∀ b ∈ w.blocks, (blockAt s b).gated = false) → changeWaits s o.asid base (some w) = false →
      ∃ t c', exec (.windowChangeComplete o.asid (BitVec.ofNat 64 base)) s = .next t ∧ ended t ∧ ctxOf t o.asid = some c' ∧
        c'.windows = c.windows.filter (fun x => x.base != base) ++ [w]) ∧
    (∀ (cause : BitVec 16) (va : Word),
      (engineRetries cause = true → o.raised = false → engineQuiet cause = false →
        ∃ t, exec (.engineFault core op cause va) s = .next t ∧ opFind t core op = some { o with raised := true } ∧
          (coreOf t core).ct = k.ct) ∧
      (engineRetries cause = true → o.raised = true ∨ engineQuiet cause = true → exec (.engineFault core op cause va) s = .next s) ∧
      (engineRetries cause = false →
        ∃ t, exec (.engineFault core op cause va) s = .next t ∧ opFind t core op = some { o with stopped := false, phase := 255 } ∧
          Ev.timelineComplete core o.tl o.num ∈ t.pending ∧ (coreOf t core).ct = k.ct))

/-- R36, R37, R150 to R159, R466: a block's Weevil takes the next points of a walk, at most 16, into its window and prefetches their tiles,
with at most 16 prefetches in flight. An idle attached core gets the point that a replayed trace names for it; with no such record left the
first idle core of its block gets the lowest forced candidate, or else the lowest whose tiles are all resident, which leaves the window, and
lower candidates are skipped once more. A bound point's missing lines are filled with a lease, or retried each 1,000 ticks, or given up after
A ticks; leases end 10,000 ticks after their grant. At the end of work the epilogues start. The window's order, the ticks of the retries and
the waiting of a fill at its home are the model's choices (logs 46, 48, 80). -/
def Obligations.WeevilSteps : Prop :=
  ∀ (blk core asid wid p : Nat) (w : Walk) (s : State), walkOf s asid wid = some w →
    let k := coreOf s core
    let win := windowOf s blk asid wid
    let query := weevilReq asid w.core w.priv 0
    let trace := traceOf s asid w
    let left := traceLeft s asid wid w trace.1
    (mayTake s blk asid wid = true →
      ∃ t w', exec (.weevilBatchTake blk asid wid) s = .next t ∧ walkOf t asid wid = some w' ∧ t.mem = s.mem ∧
        w'.cursor = w.cursor + min 16 (w.points - w.cursor) ∧ (windowOf t blk asid wid).length ≤ 64 ∧
        (prefetches t blk).length ≤ max 16 (prefetches s blk).length ∧
        ∀ q, w.cursor ≤ q → q < w'.cursor → mapGet w.pts q = none →
          mapGet w'.pts q = some .cand ∧ ∃ c ∈ windowOf t blk asid wid, c.p = q ∧ c.skip = 0 ∧ c.entered = s.dev.time) ∧
    (∀ j < 4,
      let q := { query with who := some (.tile blk asid wid p j) }
      (weevilFills q ((w.tileLines j p).filter (fun l => !lineThere s q l)) s false).2 = false →
      ∃ t, exec (.prefetchComplete blk asid wid p j) s = .next t ∧
        ∀ c ∈ windowOf t blk asid wid, c.p = p → c.known.getLsbD j = true) ∧
    (∀ a c, idleAttached s core = some (a, w) → a.asid = asid → a.wid = wid → trace.2 = [] → left = [] → hasTurn s core a = true →
      w.mode ≠ 1 → blk = blockOf core → candHome s asid wid c.p = some (blk, c) →
      (win.find? (fun x => x.isForced s w) = some c ∨
        (win.find? (fun x => x.isForced s w) = none ∧ (win.filter (fun x => x.allKnown w)).head? = some c ∧
          ∀ j < w.ntile, tileResident s query w j c.p = true)) →
      ∃ t w', exec (.pointIssue core) s = .next t ∧ walkOf t asid wid = some w' ∧ mapGet w'.pts c.p = some (.bound core) ∧
        (coreOf t core).walkAtt = some { a with bound := some c.p } ∧ (coreOf t core).ct = k.ct ∧
        (∀ x ∈ windowOf t blk asid wid, x.p ≠ c.p) ∧
        ∀ x ∈ win, x.p < c.p →
          { x with skip := x.skip + 1, forced := x.forced || decide (w.skipBound ≤ x.skip + 1) } ∈ windowOf t blk asid wid) ∧
    (∀ a r, idleAttached s core = some (a, w) → a.asid = asid → a.wid = wid → trace.2 = [] → left.find? (fun r => r.2 == core) = some r →
      ∃ t w', exec (.pointIssue core) s = .next t ∧ walkOf t asid wid = some w' ∧ mapGet w'.pts r.1 = some (.bound core) ∧
        (coreOf t core).walkAtt = some { a with bound := some r.1 } ∧ (coreOf t core).ct = k.ct) ∧
    (∀ c, win.find? (fun c => c.p == p) = some c →
      ∃ t, exec (.ageBoundExpiry blk asid wid p) s = .next t ∧ c.entered + w.ageBound < t.dev.time ∧ s.dev.time ≤ t.dev.time ∧
        ∀ x ∈ windowOf t blk asid wid, x.p = p → x.forced = true) ∧
    (∀ ls line, waitingPoint s core = some (asid, wid, w, p, ls) →
      let fill := weevilReq asid w.core w.priv 1
      let ask := { fill with who := some (.line core line) }
      let again := retryLines s core ls
      (∀ u, line ∈ ls → weevilFill s ask line = (u, .gone) →
        exec (.forcedFillComplete core line) s = .next (post u (.forcedFillRetry core line))) ∧
      (∀ u, line ∈ ls → weevilFill s ask line = (u, .wait) →
        exec (.forcedFillComplete core line) s = .next (post u (.forcedFillComplete core line))) ∧
      (∀ u, line ∈ ls → weevilFill s ask line = (u, .here) → (ctxOf u asid).isSome = true →
        ∃ t, exec (.forcedFillComplete core line) s = .next t ∧ t.mem = u.mem ∧
          walkOf t asid wid = some { w with awaiting := mapSet w.awaiting p (ls.filter (· != line)) } ∧
          ∀ b pa ln, linePlace u fill line = some (b, pa) → mapGet (blockAt u b).lines pa = some ln →
            ∃ ln' l, mapGet (blockAt t b).lines pa = some ln' ∧ l ∈ ln'.leases ∧ l.core = core ∧ l.p = p ∧ l.until_ = u.dev.time + 10000) ∧
      (∀ st l, exec (.forcedFillComplete core l) st = .next (forcedFill st core l)) ∧
      (∀ t0, mapGet w.boundAt p = some t0 → t0 ≤ s.dev.time → line ∈ again →
        ∃ u, exec (.forcedFillRetry core line) s = .next (again.foldl (fun st l => forcedFill st core l) u) ∧
          u = { s with dev := u.dev, pending := u.pending } ∧ s.dev.time < u.dev.time ∧ u.dev.time ≤ s.dev.time + 1000 ∧
          (u.dev.time - t0) % 1000 = 0 ∧ ∀ l ∈ again, Ev.forcedFillRetry core l ∉ u.pending) ∧
      (∀ t0, ls ≠ [] → mapGet w.boundAt p = some t0 →
        ∃ t w', exec (.walkStall core) s = .next t ∧ t0 + w.ageBound ≤ t.dev.time ∧ walkOf t asid wid = some w' ∧
          w'.awaiting = mapErase w.awaiting p ∧ p ∈ w'.given ∧ (ctxOf t asid).map (·.es) = (ctxOf s asid).map (fun c => c.es + 1))) ∧
    (∀ pa ln, mapGet (blockAt s blk).lines pa = some ln → ∀ l ∈ ln.leases, l.core = core →
      (∀ x ∈ ln.leases, x.core = core → l.until_ ≤ x.until_) →
      ∃ t ln', exec (.leaseExpiry blk pa core) s = .next t ∧ l.until_ ≤ t.dev.time ∧ s.dev.time ≤ t.dev.time ∧
        mapGet (blockAt t blk).lines pa = some ln' ∧ ln'.leases = ln.leases.filter (fun x => decide (t.dev.time < x.until_))) ∧
    (workEnded w = true → ∃ t, exec (.endOfWork asid wid) s = .next t ∧ walkOf t asid wid = some { w with epilogue := true }) ∧
    (workEnded w = false → exec (.endOfWork asid wid) s = .next s) ∧
    (∀ a r, k.walkAtt = some a → a.asid = asid → a.wid = wid → k.taskRec = some r →
      (epilogueReady s core = true →
        ∃ t, exec (.epilogueStart core) s = .next t ∧ t.mem = s.mem ∧
          let n := coreOf t core
          n.task = .epilogue ∧ n.walkAtt = some { a with epiBegun := true } ∧ n.ct.active = true ∧ n.ct.pc = w.word 2 ∧
          n.ct.entry = .header ∧ n.ct.xget 2 = r.rect ∧ n.ct.xget 3 = r.arg0 ∧ n.ct.xget 4 = r.arg1 ∧ n.ct.xget 5 = r.arg2 ∧
          n.ct.xget 6 = 0xFFFF_FFFF_FFFF_FFFF ∧ ∀ q : XReg, 6 < q.toNat → n.ct.xget q = 0) ∧
      (∀ q, pointReady s core = some (a, w, q) →
        ∃ t w', exec (.taskStart core) s = .next t ∧ t.mem = s.mem ∧ walkOf t asid wid = some w' ∧
          mapGet w'.pts q = some (.running core) ∧
          let n := coreOf t core
          n.task = .point q ∧ n.walkAtt = some { a with bound := none } ∧ n.ct.active = true ∧ n.ct.pc = w.word 1 ∧
          n.ct.entry = .header ∧ n.ct.xget 1 = w.coord q ∧ n.ct.xget 2 = r.rect ∧ n.ct.xget 3 = r.arg0 ∧ n.ct.xget 4 = r.arg1 ∧
          n.ct.xget 5 = r.arg2 ∧ n.ct.xget 6 = BitVec.ofNat 64 q ∧ ∀ q : XReg, 6 < q.toNat → n.ct.xget q = 0))

/-! ## Queues and packets (spec 18) -/

/-- R385 to R389, R401, R405: a notify write moves the tail, or stops a queue that it would overfill. A packet that is next starts: head
and expected sequence number move on, LAUNCH arms its record and stays open, TLWAIT and FENCE hold the queue's lock until they are satisfied,
seeds are pushed, popped and forked, COPY and WINDOW stay open until their work is done, TLSIGNAL and MARKER complete at once. A completion
record lies at its slot of the ring. The quantum maps 64 of more than 64 queues with work. What a controller denies the Hive (R409) is set
apart by a premise. The units and pieces of a COPY (logs 23, 42), the order of the Hive's steps (log 51) and its requests (log 53) are the
model's readings. -/
def Obligations.QueuesAndPackets : Prop :=
  ∀ (k : Pkt) (s : State),
    let q := k.q
    let next (e : Ev) : Prop := qFetch s q = (s, true) ∧ nextPacket s q = some e
    let u := noteMapped s
    let passed := passPacket u q
    let asid := qAsid s q
    let free (a n : Nat) : Prop := ∀ x, a ≤ x → x < a + n → hiveMay s.dev x true = true ∧ hiveMay s.dev x false = true
    let mine : Prop := free (qAddr s q) 64 ∧ free (qMirror s q) 64
    let opens (i : Instr) (p : PkState) (lock : Bool) : Prop := ∃ t, exec i s = .next t ∧
      (⟨k.seq, k.cmp, p⟩ : OpenPk) ∈ (qState t q).open_ ∧ (lock = true → (qState t q).locked = true)
    let closed (t : State) : Prop := ∀ p ∈ (qState t q).open_, p.seq ≠ k.seq
    (mine → qHead passed q = (qHead s q + 1) % 2 ^ 32 ∧ qEseq passed q = (qEseq s q + 1) % 2 ^ 32 ∧ qTail passed q = qTail s q ∧
      qCseq passed q = qCseq s q ∧ qAsid passed q = asid ∧ qSt passed q = qSt s q ∧ passed.ctxs = s.ctxs ∧ passed.cores = s.cores ∧
      passed.core = s.core ∧ passed.blocks = s.blocks) ∧
    (∀ kind status, status < 2 ^ 16 → kind < 256 → mine → poisonedIn s (qAddr s q) 64 = false →
      let a := qCbase s q + 16 * (qCseq s q % 2 ^ qClog s q)
      free a 16 →
      a + 16 ≤ qAddr s q ∨ (qAddr s q + 64 ≤ a ∧ a + 16 ≤ qMirror s q) ∨ qMirror s q + 64 ≤ a →
      let t := complete s q k.seq kind status true
      readW t.mem a = BitVec.ofNat 64 (k.seq.toNat + status * 2 ^ 32 + kind * 2 ^ 48) ∧ readW t.mem (a + 8) = BitVec.ofNat 64 s.dev.time ∧
        qCseq t q = (qCseq s q + 1) % 2 ^ 32 ∧ complete s q k.seq kind 0 false = s) ∧
    (∀ value : Word,
      let v := ((mapGet s.dev.notify q).getD value).toNat
      poisonedIn s (qAddr s q) 64 = false → mine →
      (2 ^ qRlog s q < (v + 2 ^ 32 - qHead s q) % 2 ^ 32 → ∃ t, exec (.notifyWrite q value) s = .next t ∧ qSt t q = 2 ∧ t.ctxs = s.ctxs) ∧
      ((v + 2 ^ 32 - qHead s q) % 2 ^ 32 ≤ 2 ^ qRlog s q →
        ∃ t r, exec (.notifyWrite q value) s = .next t ∧ t = settle1 r q ∧ qTail r q = v % 2 ^ 32 ∧ qHead r q = qHead s q ∧ r.ctxs = s.ctxs)) ∧
    (∀ ix, next (.launch k ix) → (armRecord u asid ix.toNat (some (q, k.seq, k.cmp)) (some (.step (.launch k ix)))).2 = .armed → opens (.launch k ix) .launch false) ∧
    (∀ va n r w, next (.tlwait k va n) → readTimelineWord u asid va (.step (.tlwaitSatisfied k va n)) = (r, w) → w ≠ .bad →
      opens (.tlwait k va n) (.tlwait va.toNat n) true) ∧
    (∀ va n r w, openOf s k = some (.tlwait va.toNat n) → readTimelineWord s asid va (.step (.tlwaitSatisfied k va n)) = (r, .got w) →
      (n.toNat ≤ w.toNat → ∃ t, exec (.tlwaitSatisfied k va n) s = .next t ∧ (qState t q).locked = false ∧ closed t) ∧
      (w.toNat < n.toNat → exec (.tlwaitSatisfied k va n) s = .next r)) ∧
    (∀ va n r bs, next (.tlsignal k va n) → va.toNat % 8 = 0 → va.toNat < 2 ^ 56 → isAperture va.toNat = false →
      homeDo u hiveAgent false { packetReq asid with w := true, who := some (.step (.tlsignal k va n)) } va.toNat (.write (leBytes 8 n.toNat)) 8 = (r, .bytes bs) →
      exec (.tlsignal k va n) s = .next (settle1 (passPacket (complete r q k.seq 3 0 k.cmp) q) q)) ∧
    (∀ lo hi, next (.seedpush k lo hi) → (seedsOf s asid).length < 16 →
      ∃ t, exec (.seedpush k lo hi) s = .next t ∧ seedsOf t asid = seedsOf s asid ++ [hi ++ lo]) ∧
    (next (.seedpop k) → seedsOf s asid ≠ [] → ∃ t, exec (.seedpop k) s = .next t ∧ seedsOf t asid = (seedsOf s asid).dropLast) ∧
    (∀ n p, next (.seedfork k n) → (seedsOf s asid).getLast? = some p → (seedsOf s asid).length < 16 →
      ∃ t, exec (.seedfork k n) s = .next t ∧ seedsOf t asid = seedsOf s asid ++ [seedChild p n]) ∧
    (∀ lo hi, next (.seedpush k lo hi) → 16 ≤ (seedsOf s asid).length →
      ∃ t, exec (.seedpush k lo hi) s = .next t ∧ seedsOf t asid = seedsOf s asid) ∧
    (∀ dst src n dir, next (.copy k dst src n dir) → dir ≠ 3 → (dir ≠ 2 → badCopyRange u asid dst n.toNat = false) →
      (dir ≠ 1 → badCopyRange u asid src n.toNat = false) →
      opens (.copy k dst src n dir) (.copy asid dst.toNat src.toNat n.toNat dir.toNat (copyPieces dir.toNat n.toNat)) false) ∧
    (∀ id dst src n dir, openOf s k = some (.copy id dst src n dir []) →
      ∃ t, exec (.copyPacketComplete k 0) s = .next t ∧ closed t) ∧
    (∀ id dst src n p, openOf s k = some (.copy id dst src n 2 [p]) → p.why = none → p.cursor < p.len →
      let off := p.at_ + p.cursor
      let room := p.len - p.cursor
      let m := sectorRun (src + off) room
      let from_ := src + off + p.buf.length
      (∀ r bs, p.buf.length < m → copyRead s k id from_ (unitRun from_ (room - p.buf.length)) = (r, .bytes bs) → r.dev = s.dev →
        ∃ t, exec (.copyPacketComplete k 0) s = .next t ∧ t.out = r.out ∧ t.mem = r.mem ∧
          openOf t k = some (.copy id dst src n 2 [{ p with buf := p.buf ++ bs }])) ∧
      (p.buf.length = room → ∃ t, exec (.copyPacketComplete k 0) s = .next t ∧ t.mem = s.mem ∧
        t.out = s.out ++ [.hostWrite (some (writePort s p.port)) (BitVec.ofNat 64 (dst + off)) (p.buf.take m)] ∧
        openOf t k = some (.copy id dst src n 2
          (if p.len ≤ p.cursor + m then [] else [{ p with cursor := p.cursor + m, buf := p.buf.drop m }])))) ∧
    (∀ id dst src n p r bs, openOf s k = some (.copy id dst src n 0 [p]) → p.why = none → p.cursor < p.len →
      p.len = n → p.buf.length = p.len - p.cursor →
      let off := dst + p.at_ + p.cursor
      let u := unitRun off (sectorRun off (p.len - p.cursor))
      engineWriteFor s hiveAgent false { packetReq id with who := some (.pkt q) } (some (.pkt q)) off (p.buf.take u) = (r, .bytes bs) → r.dev = s.dev →
      ∃ t, exec (.copyPacketComplete k 0) s = .next t ∧ t.mem = r.mem ∧ t.out = r.out ∧
        openOf t k = some (.copy id dst src n 0 (if p.len ≤ p.cursor + u then [] else [{ p with cursor := p.cursor + u, buf := p.buf.drop u }]))) ∧
    (∀ base size blocks pin clear, next (.window k base size blocks pin clear) → badWindow base size blocks = false →
      clear = true ∨ windowOut base size = false →
      opens (.window k base size blocks pin clear) (.window base.toNat size.toNat (blocks.setWidth 64) pin clear) false) ∧
    (next (.fencePacket k) → openOf s k ≠ some .fence → opens (.fencePacket k) .fence true) ∧
    (openOf s k = some .fence → (qState s q).open_.length ≤ 1 →
      ∃ t, exec (.fencePacket k) s = .next t ∧ (qState t q).locked = false ∧ closed t) ∧
    (openOf s k = some .fence → 1 < (qState s q).open_.length → exec (.fencePacket k) s = .next s) ∧
    (∀ value, next (.marker k value) →
      exec (.marker k value) s = .next (settle1 (passPacket (complete
        (traceAdd u 0 3 (traceWord0 3 false (((ctxOf s asid).map (·.slot)).getD 0) 0 0) value (BitVec.ofNat 64 q)) q k.seq 10 0 k.cmp) q) q)) ∧
    (∃ t, exec .queueQuantum s = .next t ∧ t.dev.time % 2000000 = 0 ∧ s.dev.time < t.dev.time ∧ t.dev.time ≤ s.dev.time + 2000000 ∧
      (64 < (workQueues s).length → t.dev.mapped = nextQueues s ∧ t.dev.mapped.length = 64 ∧ ∀ r ∈ t.dev.mapped, hasWork s r = true) ∧
      ((workQueues s).length ≤ 64 → t.dev.mapped = [] ∧ t.mem = s.mem))

/-! ## Launches (spec 18) -/

/-- R52, R392 to R395, R151, R468: the placer places the first launch that it can act on: it takes the next serial number, its record is in the
inbox of every core of the rectangle, each group's sequencer runs its program, and it leaves the waiting list; one that fails the checks is
refused; with none, the records of a walk are delivered. A launch reserves, W ticks after its arming, a candidate with the fewest busy cores, and
after 2W the starvation event is raised once. A launch ends when its cores have retired and no walk that one of them opened is placed: its
sequencers idle, its timelines gone. How the placer's steps follow each other, its choice of a sequencer and the words that it writes late are
the model's (logs 23, 42, 43, 50, 53). -/
def Obligations.LaunchPlacement : Prop :=
  ∀ (asid index : Nat) (s : State),
    let d := lrDrain s
    (s.dev.lrWrites = [] → d = s) ∧
    (∀ w x gs plan, nextLaunch d = some w → placeAct d w = .place x gs →
      let r := (lrState d w.asid w.index).copy
      let gs1 := gs.map (fun g => { g with rect := shiftRect g.rect (rectOf (recAt r 0)) (rectOf x) })
      planSeqs d gs1 [] = some plan →
      ∃ u, exec .placement s = .next (setLr u w.asid w.index { lrState u w.asid w.index with st := 2 }) ∧
        lrState u w.asid w.index = lrState d w.asid w.index ∧ u.dev.serial = d.dev.serial + 1 ∧
        (∀ v ∈ u.dev.waiting, ¬ (v.asid = w.asid ∧ v.index = w.index)) ∧
        (∃ p, u.dev.placed = d.dev.placed ++ [p] ∧ p.serial = d.dev.serial + 1 ∧ p.rect = x ∧ p.asid = w.asid ∧ p.index = some w.index ∧
          p.q = w.q ∧ p.ended = []) ∧
        (∀ c ∈ rectCores (rectOf x), ∃ k ∈ (coreOf u c).inbox, k.kind = 0 ∧ k.asid = w.asid ∧ k.serial = d.dev.serial + 1 ∧ k.rect = x ∧
          k.task = recAt r 1 &&& 0x00FF_FFFF_FFFF_FFFF ∧ k.arg0 = recAt r 2 ∧ k.arg1 = recAt r 3 ∧ k.arg2 = recAt r 4 ∧
          k.win = 8 * field (recAt r 5) 2 0 ∧ k.l1 = 12 * field (recAt r 5) 4 3 ∧ k.mqw = field (recAt r 5) 8 5 ∧
          k.seed = ((ctxOf d w.asid).bind (fun c => c.seeds.getLast?)).getD 0) ∧
        (∀ c, c ∉ rectCores (rectOf x) → coreOf u c = coreOf d c) ∧
        ∀ g b q, (g, b, q) ∈ gs1.zip plan → (seqAt u b q).st = .run ∧ (seqAt u b q).base = g.prog ∧ (seqAt u b q).pcnt = g.count ∧
          (seqAt u b q).pc = 0 ∧ (seqAt u b q).asid = w.asid ∧ (seqAt u b q).gsz = rectCount (rectOf g.rect)) ∧
    (∀ w e, nextLaunch d = some w → placeAct d w = .refuse e →
      ∃ u, exec .placement s = .next (closeLaunch (setLr u w.asid w.index { lrState u w.asid w.index with st := 0 }) w.q e) ∧
        (∀ v ∈ u.dev.waiting, ¬ (v.asid = w.asid ∧ v.index = w.index)) ∧ u.mem = d.mem ∧ u.cores = d.cores ∧ u.core = d.core) ∧
    (nextLaunch d = none → (allWalks d).find? (fun w => walkReady d w.2.2) = none → exec .placement s = .next d) ∧
    (∀ id wid w r, nextLaunch d = none → (allWalks d).find? (fun w => walkReady d w.2.2) = some (id, wid, w) → w.attach = some r →
      (ctxOf d id).isSome = true →
      ∃ t, exec .placement s = .next t ∧ walkOf t id wid = some { w with attach := none } ∧ t.mem = d.mem ∧
        ∀ c ∈ rectCores (rectOf w.rect), r ∈ (coreOf t c).inbox) ∧
    (∀ xs x, fewestBusy s xs = some x → x ∈ xs ∧ ∀ y ∈ xs, busyCores s x ≤ busyCores s y) ∧
    ((asid, index) ∉ nextReservers s → exec (.reservation asid index) s = .next s) ∧
    (∀ w, index < 4096 → waitingOf s asid index = some w → w.resv = none → (asid, index) ∈ nextReservers s →
      ∃ t, exec (.reservation asid index) s = .next t ∧ w.armed + waitTime s asid ≤ t.dev.time ∧ s.dev.time ≤ t.dev.time ∧
        waitingOf t asid index = some { w with resv := reservable s w } ∧ t.mem = s.mem) ∧
    (∀ w, index < 4096 → waitingOf s asid index = some w → w.starved = false →
      ∃ t, exec (.placementStarved asid index) s = .next t ∧ w.armed + 2 * waitTime s asid ≤ t.dev.time ∧
        waitingOf t asid index = some { w with starved := true } ∧ (ctxOf t asid).map (·.es) = (ctxOf s asid).map (fun c => c.es + 1)) ∧
    (∀ w, index < 4096 → waitingOf s asid index = some w → w.starved = true → exec (.placementStarved asid index) s = .next s) ∧
    (∀ n p, s.dev.placed.find? (fun p => p.serial == n) = some p →
      (launchOver s p = false → exec (.launchEnd n) s = .next s) ∧
      (∀ x ∈ s.dev.placed, x.parent = some p.serial → launchOver s p = false) ∧
      (launchOver s p = true →
        ∃ u, (∀ x ∈ u.dev.placed, x.serial ≠ n) ∧ (∀ x ∈ p.seqs, seqAt u x.1 x.2.1 = Sequencer.reset) ∧ u.mem = s.mem ∧
          (∀ c, c ∉ rectCores (rectOf p.rect) → coreOf u c = coreOf s c) ∧
          (∀ c ∈ rectCores (rectOf p.rect),
            (coreOf u c).tls = (coreOf s c).tls.filter (fun t => t.serial != p.serial) ∧
            (coreOf u c).tlsPrev = (coreOf s c).tlsPrev.filter (fun t => t.serial != p.serial) ∧
            (coreOf u c).ct = (coreOf s c).ct ∧ (coreOf u c).mt = (coreOf s c).mt ∧ (coreOf u c).inbox = (coreOf s c).inbox) ∧
          (p.index = none → exec (.launchEnd n) s = .next (post (closeLaunch u p.q (if p.contained then 9 else 0)) .placement)) ∧
          ∀ i, p.index = some i →
            exec (.launchEnd n) s = .next (post (closeLaunch
              (setLr u p.asid i { lrState s p.asid i with st := 0, done := (lrState s p.asid i).done + 1 }) p.q
              (if p.contained then 9 else 0)) .placement)))

/-! ## Stop and restore (spec 02, R48 to R50) -/

/-- R48 to R50, Table 2.6: a core that was asked to stop and stands at its boundary is saved: its position is free, and the saved core keeps its
registers. What the image of a core holds, loading the image gives back: registers of every kind, and each byte of local memory. A saved
rectangle restored at its own position runs there again with the registers of its image. The layout of the image is the model's (log 34), and
so is that a core outside a block enters it before it stops (log 25). -/
def Obligations.StopAndRestore : Prop :=
  ∀ (core : Nat) (s : State),
    let k := coreOf s core
    (k.stopReq = false ∨ canStop s core = false → exec (.coreStop core) s = .next s) ∧
    (∀ u, k.stopReq = true → canStop s core = true → enterFirst s core = some u → exec (.coreStop core) s = .next u) ∧
    (∀ asid c, core < 2 ^ 20 → k.stopReq = true → canStop s core = true → enterFirst s core = none → k.ctx = some asid → ctxOf s asid = some c →
      (∃ r ∈ c.saved, coreIn core r.rect = true) → k.walkAtt = none → k.cnt = [] →
      ∃ t x, exec (.coreStop core) s = .next t ∧ (coreOf t core).stopped = true ∧ (coreOf t core).stopReq = false ∧
        (coreOf t core).ct.active = false ∧ (coreOf t core).inbox = [] ∧ x ∈ savedOf t asid ∧ x.pos % 2 ^ 20 = core ∧
        x.slot = c.tab.save + 131072 * grantRank core c.tab.grants ∧ x.core.ct.x = k.ct.x ∧ x.core.ct.p = k.ct.p ∧ x.core.ct.pc = k.ct.pc ∧
        x.core.mt.x = k.mt.x ∧ x.core.v = k.v ∧ x.core.k = k.k ∧ x.core.t = k.t ∧ x.core.a = k.a ∧ x.core.h = k.h ∧ x.core.tls = k.tls ∧
        x.core.inbox = k.inbox ∧ ∀ q, q ≠ core → q < 2 ^ 20 → (coreOf t q).ct.x = (coreOf s q).ct.x) ∧
    (∀ base, memWf s.mem = true → base + 131072 ≤ 2 ^ 60 → (∀ a ∈ [k.ct.pc, k.mt.pc, k.ct.blk], wordAddr a = a) →
      (∀ w ∈ k.tshape.toList, shapeStore w = w) →
      let t := loadImage (saveImage s core base) core base
      let n := coreOf t core
      n.v = k.v ∧ n.t = k.t ∧ n.a = k.a ∧ n.k = k.k ∧ n.ct.x = k.ct.x ∧ n.mt.x = k.mt.x ∧ n.ct.p = k.ct.p ∧ n.mt.p = k.mt.p ∧
        n.ct.pc = k.ct.pc ∧ n.mt.pc = k.mt.pc ∧ n.ct.blk = k.ct.blk ∧ n.ct.trapAddr = k.ct.trapAddr ∧ n.ct.trapCause = k.ct.trapCause ∧
        n.ct.trapPp = k.ct.trapPp ∧ n.timerCmp = k.timerCmp ∧ n.tshape = k.tshape ∧ n.wake = k.wake ∧ n.gang = k.gang ∧
        n.ct.fuseKept = k.ct.fuseKept ∧ n.l1 = [] ∧ n.ibuf = [] ∧
        ∀ o < localBytes k, readByte t.mem (localKey core o) = readByte s.mem (localKey core o)) ∧
    (∀ asid i r x c, (allSaved s).find? (fun x => x.1 == asid && x.2.2.rect == r.rect && (restoreSpot s x.1 x.2.1 x.2.2).isSome) = some (asid, i, r) →
      restoreSpot s asid i r = some r.rect → gatedIn s r.rect = [] → r.cores = [x] → x.pos % 2 ^ 20 = core → 2 ^ 20 ≤ x.pos →
      coreIn core r.rect = true → x.core.ct.wait = .none → barOf (readW s.mem (x.slot + 0x1_EE10)) = none → memWf s.mem = true → x.slot + 131072 ≤ 2 ^ 60 → mapSorted s.cores = true →
      s.net = [] → (∀ b ∈ s.blocks, b.2.results = []) → ctxOf s asid = some c → (∀ w ∈ c.walks, w.2.traceHeld = []) →
      ∃ t, exec (.restore asid r.rect) s = .next t ∧
        let n := coreOf t core
        n.stopped = false ∧ n.stopReq = false ∧ n.ctx = some asid ∧ n.ct.looped = false ∧ n.ct.active = x.core.ct.active ∧ n.task = x.core.task ∧
        (∀ q : XReg, n.ct.xget q = if q = 0 then 0 else readW s.mem (x.slot + 0x1_E410 + 8 * q.toNat)) ∧
        ∀ v : VReg, n.v[v.toNat]'v.isLt = BitVec.ofNat 4096 (readLe s.mem (x.slot + 0x1_8000 + 512 * v.toNat) 512))

/-! ## The supervisor (spec 05, 19, 20) -/

/-- R48, R52, R80, R81, R402 to R407, R411, R412, R459, R476, R477: what each supervisor command does and the status that it ends with, and what reading the
status clears. A refused command changes nothing else. What a controller denies the Hive is set apart by a premise. The checks of a table, what an
eviction stops, the lines that a move of the split drops, the signed record and the states of a reset are read so by the model (logs 56 to 60). -/
def Obligations.SupervisorCommands : Prop :=
  ∀ (a b : Word) (s : State),
    let ended (t : State) (st : Nat) : Prop := t.dev.svcBusy = false ∧ t.dev.svcDone = true ∧ t.dev.svcStatus = BitVec.ofNat 16 st
    let only (i : Instr) (st : Nat) : Prop := ∃ t, exec i s = .next t ∧ ended t st ∧ t = { s with dev := t.dev }
    let pa := a.toNat
    let free (a n : Nat) : Prop := ∀ x, a ≤ x → x < a + n → hiveMay s.dev x true = true ∧ hiveMay s.dev x false = true
    (pa % 256 ≠ 0 ∨ 2 ^ 41 ≤ pa → only (.ctxload a) 3) ∧
    (let tab := readTab s pa
     pa % 256 = 0 → pa < 2 ^ 41 → tabReservedOk s pa = true → tabFieldsOk tab tab.shres = true → partitionOk s tab = true →
      partitionApart s tab = true → grantsOk s tab.asid tab.grants = true → poolChanged s tab = false →
      ((ctxOf s tab.asid).any (·.resident) = true → only (.ctxload a) 4) ∧
      (∀ n, (ctxOf s tab.asid).any (·.resident) = false → freeSlot s = some n → grantsGated s tab.grants = [] →
        ∃ t c, exec (.ctxload a) s = .next t ∧ ended t 0 ∧ ctxOf t tab.asid = some c ∧ c.tab = tab ∧ c.resident = true ∧ c.slot = n ∧
          Ev.placement ∈ t.pending ∧ (ctxOf s tab.asid = none → c.levels = [] ∧ c.ldt = [] ∧ c.seeds = [] ∧ c.shUsed = 0 ∧ c.walks = []))) ∧
    (residentCtx s a = none → only (.ctxupd a) 2 ∧ only (.ctxevict a) 2 ∧ only (.preempt a b) 2) ∧
    (∀ asid c, residentCtx s a = some (asid, c) →
      let tab := readTab s c.tab.pa
      (tab.shlim < c.shUsed → only (.ctxupd a) 3) ∧
      (c.shUsed ≤ tab.shlim → tab.shlim ≤ c.tab.shres → grantsOk s asid tab.grants = true → grantsGated s tab.grants = [] →
        ∃ u c', exec (.ctxupd a) s = .next (post (svcEnd (retryPushes u) 0) .placement) ∧ ctxOf u asid = some c' ∧
          u.mem = s.mem ∧ u.core = s.core ∧ u.cores = s.cores ∧ c'.tab.grants = tab.grants ∧ c'.tab.shlim = tab.shlim ∧
          c'.tab.pinlim = tab.pinlim ∧ c'.tab.wait = tab.wait ∧ c'.tab.tvec = tab.tvec ∧ c'.tab.ptroot = c.tab.ptroot ∧ c'.tab.eng = c.tab.eng) ∧
      (∃ t, exec (.ctxevict a) s = .next t ∧ ∀ g ∈ grantRects c.tab.grants, ∀ core ∈ rectCores (rectOf g), (coreOf s core).stopped = false →
        (coreOf t core).stopReq = true ∧ (coreOf t core).ctx = some asid ∧ (coreOf t core).ct = (coreOf s core).ct) ∧
      (malformedRect b = true ∨ octetAligned (rectOf b) = false ∨ rectGranted s asid b = false → only (.preempt a b) 3) ∧
      (malformedRect b = false → octetAligned (rectOf b) = true → rectGranted s asid b = true →
        ∃ t, exec (.preempt a b) s = .next t ∧ t.mem = s.mem ∧ ∀ core ∈ rectCores (rectOf b), (coreOf s core).stopped = false →
          (coreOf t core).stopReq = true ∧ (coreOf t core).ctx = some asid ∧ (coreOf t core).ct = (coreOf s core).ct)) ∧
    (4096 ≤ pa → only (.qresync a b) 3) ∧
    (pa < 4096 → free (qAddr s pa) 64 → free (qMirror s pa) 64 → ∃ u, exec (.qresync a b) s = .next (settle1 u pa) ∧ ended u 0 ∧ qHead u pa = b.toNat % 2 ^ 32 ∧ qTail u pa = b.toNat % 2 ^ 32 ∧
      qEseq u pa = b.toNat / 2 ^ 32 ∧ qSt u pa = 1) ∧
    (256 ≤ pa ∨ b.toNat < 1 ∨ 7 < b.toNat → only (.bssplit a b) 3) ∧
    (pa < 256 → 1 ≤ b.toNat → b.toNat ≤ 7 →
      ((∃ c ∈ s.ctxs, c.2.resident = true ∧ 64 * b.toNat < c.2.tab.bsbase + c.2.tab.bssize) → only (.bssplit a b) 4) ∧
      ((∀ c ∈ s.ctxs, c.2.resident = true → c.2.tab.bsbase + c.2.tab.bssize ≤ 64 * b.toNat) → (blockAt s pa).gated = false →
        ∃ t, exec (.bssplit a b) s = .next t ∧ ended t 0 ∧ (blockAt t pa).bsz = b.toNat ∧
          ∀ o, min b.toNat (blockAt s pa).bsz * 2 ^ 22 ≤ o → o < 2 ^ 25 → readByte t.mem (bsKey pa o) = 0)) ∧
    (let body (nonce : List Byte) : List Byte := leBytes 8 s.dev.runN ++ s.dev.runH ++ leBytes 8 s.dev.time ++ nonce
     let signed (i : Instr) (nonce : List Byte) : Prop := ∃ t, exec i s = .next t ∧ ended t 0 ∧
       readBytes t.mem pa 208 = body nonce ++ ecdsaSign (sha384 (body nonce))
     s.dev.runH.length = 48 →
      (pa + 255 < 2 ^ 41 → hiveMay s.dev pa true = true → signed (.signrun a) (List.replicate 48 0) ∧
        (b.toNat + 47 < 2 ^ 41 → sealedSeeds s b.toNat 48 = false → hiveMay s.dev b.toNat false = true →
          signed (.attest a b) (readBytes s.mem b.toNat 48))) ∧
      (sealedSeeds s b.toNat 48 = true → only (.attest a b) 3) ∧
      (2 ^ 41 ≤ pa + 255 → only (.signrun a) 3 ∧ only (.attest a b) 3)) ∧
    (s.dev.imageSvn < pa → only (.svnadv a) 4) ∧ (pa ≤ s.dev.imageSvn → pa < s.dev.svn → only (.svnadv a) 3) ∧
    (pa ≤ s.dev.imageSvn → s.dev.svn ≤ pa → ∃ t, exec (.svnadv a) s = .next t ∧ ended t 0 ∧ t.dev.svn = pa ∧ t.mem = s.mem) ∧
    (let blk := pa % 256
     let q := pa / 256 % 128
     let x := seqAt s blk q
     (seqOwner s blk q = none → only (.seqreset a b) 2) ∧
     (∀ p, seqOwner s blk q = some p → (ctxOf s p.asid).any (·.resident) = true →
       (x.st = .idle → only (.seqreset a b) 4) ∧
       (x.st ≠ .idle → b = 0xFFFF_FFFF_FFFF_FFFF → ∃ t, exec (.seqreset a b) s = .next t ∧ ended t 0 ∧ (seqAt t blk q).st = .idle ∧
         (seqAt t blk q).buf = [] ∧ (seqAt t blk q).credits = Vector.replicate 16 0) ∧
       (x.st ≠ .idle → b.toNat < x.pcnt → x.pcnt ≤ 65536 → ∃ t, exec (.seqreset a b) s = .next t ∧ ended t 0 ∧ t.mem = s.mem ∧
         (seqAt t blk q).st = .run ∧ (seqAt t blk q).pc = b.toNat ∧ (seqAt t blk q).loops = [] ∧ (seqAt t blk q).buf = [] ∧
         (seqAt t blk q).credits = Vector.replicate 16 0 ∧ (seqAt t blk q).base = x.base ∧ (seqAt t blk q).pcnt = x.pcnt))) ∧
    (malformedRect a = true ∨ octetAligned (rectOf a) = false → only (.contain a) 3) ∧
    (malformedRect a = false → octetAligned (rectOf a) = true →
      (s.dev.contained.any (fun c => rectsMeet (rectOf c) (rectOf a)) = true → only (.contain a) 4) ∧
      (s.dev.contained.any (fun c => rectsMeet (rectOf c) (rectOf a)) = false → exec (.contain a) s = .next (svcEnd (containRect s a) 0))) ∧
    (∀ core, (coreOf (containCore s core) core).contained = true ∧ (coreOf (containCore s core) core).ct.active = false ∧
      (coreOf (containCore s core) core).mq = [] ∧ (coreOf (containCore s core) core).inbox = [] ∧
      ∀ o < 98304, readByte (containCore s core).mem (localKey core o) = 0) ∧
    (a ∉ s.dev.contained → only (.uncontain a) 4) ∧
    (a ∈ s.dev.contained → ∃ t, exec (.uncontain a) s = .next t ∧ ended t 0 ∧ a ∉ t.dev.contained ∧ Ev.placement ∈ t.pending ∧ t.mem = s.mem ∧
      (∀ c ∈ rectCores (rectOf a), (coreOf t c).contained = false) ∧ ∀ c, c ∉ rectCores (rectOf a) → coreOf t c = coreOf s c) ∧
    (∀ code, only (.unknownCommand code) 1) ∧
    ∃ t, exec .svcStatusRead s = .next t ∧ t = { s with dev := t.dev } ∧ t.dev.svcDone = false ∧ t.dev.svcOvr = false ∧
      t.dev.svcStatus = s.dev.svcStatus ∧ t.dev.svcBusy = s.dev.svcBusy

/-- R105 to R108: the go write of a shoot-down reaches all 256 slices. Each drops the translations of what it names, once no request waits under
one of them, and acknowledges; with the last acknowledgement the shoot-down is done. It names a translation of its context, or of any with allc,
whose page meets the page of its size at va, or any of its context's with alla. Reading the status clears done. -/
def Obligations.Shootdowns : Prop :=
  ∀ (go : Word) (blk : Nat) (s : State),
    let acks := (List.range 256).map Ev.shootdownSliceAck
    (∀ asid, sdNames go asid = true ↔ go.getLsbD 20 = true ∨ (go.extractLsb' 0 16).toNat = asid) ∧
    (∀ (va : Word) (e : TEntry) (n : Nat),
      n = (match (go.extractLsb' 16 2).toNat with
        | 0 => 65536
        | 1 => 2 ^ 21
        | 2 => 2 ^ 26
        | _ => 2 ^ 32) →
      0 < e.size →
      (sdMatches va go e = true ↔ sdNames go e.asid = true ∧
        (go.getLsbD 19 = true ∨ ∃ x, va.toNat / n = x / n ∧ e.vpage ≤ x ∧ x < e.vpage + e.size))) ∧
    (s.dev.sdBusy = true → exec (.shootdown go) s = .next { s with pending := s.pending ++ acks } ∧
      exec (.shootdownFlush go) s = .next { s with pending := s.pending ++ acks }) ∧
    (s.dev.sdBusy = false → exec (.shootdown go) s = .next s ∧ exec (.shootdownSliceAck blk) s = .next s) ∧
    (s.dev.sdBusy = true → serves s blk = true → sdWaits s blk = true →
      exec (.shootdownSliceAck blk) s = .next (post s (.shootdownSliceAck blk))) ∧
    (s.dev.sdBusy = true → serves s blk = false ∨ sdWaits s blk = false →
      ∃ u, exec (.shootdownSliceAck blk) s = .next (if 255 ≤ s.dev.sdAcks then sdFinish u else u) ∧ u.dev.sdAcks = s.dev.sdAcks + 1 ∧
        (∀ n, n ≠ blk → blockAt u n = blockAt s n) ∧ u.core = s.core ∧ u.cores = s.cores ∧ u.ctxs = s.ctxs ∧
        (serves s blk = true →
          (∀ e ∈ (blockAt u blk).tcache, sdMatches s.dev.sdReq.1 s.dev.sdReq.2.2 e = false) ∧
          (∀ e ∈ (blockAt s blk).tcache, sdMatches s.dev.sdReq.1 s.dev.sdReq.2.2 e = false → e ∈ (blockAt u blk).tcache) ∧
          (∀ e ∈ (blockAt u blk).wcache, sdNames s.dev.sdReq.2.2 e.1 = false) ∧
          (s.dev.sdReq.2.2.getLsbD 21 = false → u.mem = s.mem ∧ (blockAt u blk).lines = (blockAt s blk).lines))) ∧
    ∃ t, exec .shootdownStatusRead s = .next t ∧ t = { s with dev := t.dev } ∧ t.dev.sdDone = false ∧ t.dev.sdBusy = s.dev.sdBusy ∧
      t.dev.sdAcks = s.dev.sdAcks

/-! ## Debug, trace, host and peers (spec 19, 21, 27) -/

/-- R69, R425 to R434, R458: a core that is asked to halt does so at its boundary, with its image saved; a resume, or a step, goes on from the
image. A message to a halted core is held. A trace record drains into its ring, and one that a program writes joins the buffer of its
block. A long wait raises its event once, at the threshold. A read of the debug control word clears cdrop, and one of a sequencer latches
its image. The layout of the image, how a gang halts and where a lost record comes are the model's (logs 34, 64, 89). -/
def Obligations.DebugAndTrace : Prop :=
  ∀ (core blk : Nat) (mt : Bool) (s : State),
    let k := coreOf s core
    let b := blockAt s blk
    let runs : Prop := k.dbg.halted = false ∧ k.dbg.pendHalt = none ∧ k.contained = false ∧ k.stopped = false ∧ gangOf s core = [core] ∧ k.cnt = []
    let halts (i : Instr) (why : BitVec 3) : Prop :=
      (canStop (askGang s core why) core = false → ∃ t, exec i s = .next t ∧ (coreOf t core).dbg.pendHalt = some why ∧
        (coreOf t core).ct = k.ct ∧ t.mem = s.mem) ∧
      (canStop (askGang s core why) core = true → enterFirst (askGang s core why) core = none → ∃ t, exec i s = .next t ∧
        (coreOf t core).dbg.halted = true ∧ (coreOf t core).dbg.why = why ∧ (coreOf t core).dbg.pendHalt = none ∧
        (coreOf t core).ct.x = k.ct.x ∧ (coreOf t core).ct.pc = k.ct.pc ∧ (coreOf t core).v = k.v)
    let resumes (i : Instr) (step : Bool) : Prop := ∃ t, exec i s = .next t ∧
      let n := coreOf t core
      n.dbg.halted = false ∧ n.dbg.why = 0 ∧ n.dbg.step = step ∧ n.ct.bkptSkip = some n.ct.nextWord ∧
      ∀ q : XReg, n.ct.xget q = if q = 0 then 0 else readW s.mem (k.dbg.save.toNat + 0x1_E410 + 8 * q.toNat)
    (runs → halts (.hreq core) 1) ∧
    (k.dbg.halted = true → exec (.hreq core) s = .next s) ∧
    (runs → k.powered = true → atBreakpoint k (threadOf s core mt) = true → halts (.breakpointMatch core mt) 3) ∧
    (atBreakpoint k (threadOf s core mt) = false → exec (.breakpointMatch core mt) s = .next s) ∧
    (k.dbg.halted = true → k.stopped = false → k.ct.looped = false → k.mt.looped = false → k.ct.wait = .none →
      barOf (readW s.mem (k.dbg.save.toNat + 0x1_EE10)) = none → (∀ h ∈ (blockAt s (blockOf core)).held, h.core ≠ core) → memWf s.mem = true →
      (∀ c ∈ s.ctxs, ∀ w ∈ c.2.walks, w.2.traceHeld = []) → k.dbg.save.toNat + 131072 ≤ 2 ^ 60 → resumes (.rreq core) false ∧ resumes (.sreq core) true) ∧
    (k.dbg.halted = false ∨ k.ct.looped = true ∨ k.mt.looped = true → exec (.rreq core) s = .next s ∧ exec (.sreq core) s = .next s) ∧
    (∃ t, exec (.debugStatusRead core) s = .next t ∧ (coreOf t core).dbg.ctl.getLsbD 39 = false ∧
      (∀ i, i ≠ 39 → (coreOf t core).dbg.ctl.getLsbD i = k.dbg.ctl.getLsbD i) ∧ (coreOf t core).ct = k.ct ∧ t.mem = s.mem) ∧
    (∀ off bytes, k.contained = false → k.dbg.halted = false →
      ∃ t, exec (.heldMessage core (.store off bytes)) s = .next t ∧ t.mem = writeBytes s.mem (localKey core off) bytes ∧ t.core = s.core) ∧
    (∀ m, k.contained = false → k.dbg.halted = true → heldAccepts (blockAt s (blockOf core)) core m = true →
      ∃ t x, exec (.heldMessage core m) s = .next t ∧ (blockAt t (blockOf core)).held = (blockAt s (blockOf core)).held ++ [x] ∧
        x.core = core ∧ x.msg = m ∧ t.mem = s.mem) ∧
    (∀ m, k.contained = false → k.dbg.halted = true → heldAccepts (blockAt s (blockOf core)) core m = false →
      exec (.heldMessage core m) s = .next (post s (.heldMessage core m))) ∧
    (∀ x y rest, b.trace = x :: y :: rest → ringFull b = false →
      let a := field b.rbase 47 0 + 32 * (b.twr % 2 ^ field b.rbase 52 48)
      ∃ t, exec (.traceRecordDrain blk) s = .next t ∧ (blockAt t blk).twr = (b.twr + 1) % 2 ^ 32 ∧
        (b.tlost = 0 ∨ b.trace.length < 4096 → (blockAt t blk).trace = rest ∧ (blockAt t blk).tlost = b.tlost) ∧
        (b.tlost ≠ 0 → b.trace.length = 4096 → ringFull (blockAt t blk) = false →
          (blockAt t blk).trace = rest ++ [⟨0x7F, BitVec.ofNat 64 s.dev.time⟩, ⟨BitVec.ofNat 64 b.tlost, 0⟩] ∧ (blockAt t blk).tlost = 0) ∧
        readW t.mem a = x.lo ∧ readW t.mem (a + 8) = x.hi ∧ readW t.mem (a + 16) = y.lo ∧ readW t.mem (a + 24) = y.hi) ∧
    (ringFull b = true → exec (.traceRecordDrain blk) s = .next s) ∧
    (∀ (n : BitVec 7) (slot : BitVec 6) (c : BitVec 20) (lo hi : Word),
      ∃ t, exec (.tracePortWrite blk n slot c mt lo hi) s = .next t ∧ t.mem = s.mem ∧
        (traceEnabled b (0x80 + n.toNat) = false → blockAt t blk = b) ∧
        (traceEnabled b (0x80 + n.toNat) = true → b.trace.length < 4096 → ringFull b = false → b.tlost = 0 →
          ∃ w : Word, (blockAt t blk).trace = b.trace ++ [⟨w, BitVec.ofNat 64 s.dev.time⟩, ⟨lo, hi⟩] ∧
            w.extractLsb' 0 8 = 1#1 ++ n ∧ w.getLsbD 8 = mt ∧ w.extractLsb' 9 6 = slot ∧ w.extractLsb' 16 20 = c) ∧
        (traceEnabled b (0x80 + n.toNat) = true → 4096 ≤ b.trace.length ∨ ringFull b = true →
          (blockAt t blk).trace = b.trace ∧ (blockAt t blk).tlost = (b.tlost + 1) % 2 ^ 32)) ∧
    (∀ v : Word, ∃ t, exec (.waitcfgWrite v) s = .next t ∧ t = { s with dev := { s.dev with waitcfg := v &&& 0xFFFF_FFFF } }) ∧
    (longWaits s core mt = false → exec (.longWait core mt) s = .next s) ∧
    (longWaits s core mt = true →
      ∃ t, exec (.longWait core mt) s = .next t ∧ (threadOf t core mt).waitRaised = true ∧
        (threadOf s core mt).waitFrom + s.dev.waitcfg.toNat * 1000 ≤ t.dev.time ∧ (threadOf t core mt).x = (threadOf s core mt).x ∧
        (ctxOf t (k.ctx.getD 0)).map (·.es) = (ctxOf s (k.ctx.getD 0)).map (fun c => c.es + 1)) ∧
    ∀ q, ∃ t, exec (.seqSnapshotLatch blk q) s = .next t ∧ mapGet (blockAt t blk).seqLatch q = some (seqImage (seqAt s blk q)) ∧
      seqAt t blk q = seqAt s blk q ∧ t.mem = s.mem

/-- R3, R28, R368, R369, R398, R405, R409, R410: a write of a register stores its fields. The host reads and writes 8 bytes of register
space, and HBM past every slice; an access that is denied, or meets no register, or reaches a saved seed stack, gets an error and reads all
ones. An operation of a peer that no binding names is refused; a write is performed line part by line part at its homes and acknowledged,
or ends with its fault, or is held at its cursor where shadow exhaustion stops it. Each wakes the rim islands that
it passes. What the host and a peer are answered is read so by the model (logs 64, 65), and the numbers of the islands are its own (log 67). -/
def Obligations.HostAndPeers : Prop :=
  ∀ (port : BitVec 1) (off : Nat) (v : Word) (bytes : List Byte) (s : State),
    let gives (u : State) (i : Instr) (m : OutMsg) : Prop := ∃ t, exec i s = .next t ∧ t = { u with out := u.out ++ [m] }
    let n := bytes.length
    (∀ ns, let u := wakeRim s ns
      (∀ i, i ∈ u.dev.islands ↔ i ∈ s.dev.islands ∧ i ∉ ns) ∧ u = { s with dev := { s.dev with islands := u.dev.islands } }) ∧
    (∃ t, exec (.registerWrite 0x2000 v) s = .next t ∧ t = { s with dev := { s.dev with sdVa := v &&& 0x00FF_FFFF_FFFF_0000 } }) ∧
    (∃ t, exec (.registerWrite 0x4048 v) s = .next t ∧ t = { s with dev := { s.dev with sevring := v &&& 0x001F_FFFF_FFFF_FFE0 } }) ∧
    (∀ core < 2 ^ 20, ∃ t, exec (.registerWrite (0x400_0008 + 0x80 * core) v) s = .next t ∧
      (coreOf t core).dbg.save = v &&& 0x0000_FFFF_FFFE_0000 ∧ (coreOf t core).ct = (coreOf s core).ct ∧ t.mem = s.mem) ∧
    (∀ u, u = wakeRim s [phyIsland port.toNat] →
      let may (write : Bool) : Prop := portUp u port.toNat = true ∧ granted u.dev (regTarget off) (1 + port.toNat) write = true
      (regValue u off = none ∨ ¬may true → gives u (.hostRegAccess port true off v) (.hostError port)) ∧
      (regValue u off = none ∨ ¬may false →
        gives u (.hostRegAccess port false off v) (.hostRead port false (List.replicate 8 0xFF))) ∧
      (∀ w, off % 8 = 0 → regValue u off = some w →
        (may false → ∃ t, exec (.hostRegAccess port false off v) s = .next t ∧
          t.out = s.out ++ [.hostRead port true (leBytes 8 w.toNat)] ∧ t.mem = s.mem) ∧
        (may true → exec (.hostRegAccess port true off v) s = .next (regWrite u off 0 false (leBytes 8 v.toNat))))) ∧
    (∀ u, u = wakeRim s (phyIsland port.toNat :: stackIslands off) →
      let may (write : Bool) (a : Nat) : Prop := portUp u port.toNat = true ∧ granted u.dev (256 + a / 2 ^ 36) (1 + port.toNat) write = true
      (portUp u port.toNat = false ∨ 2 ^ 41 < off + n ∨ sealedSeeds u off n = true → gives u (.hostMemAccess port true off bytes) (.hostError port) ∧
        gives u (.hostMemAccess port false off bytes) (.hostRead port false (List.replicate n 0xFF))) ∧
      (off + n ≤ 2 ^ 41 → sealedSeeds u off n = false →
        (may true off → may true (off + n - 1) → ∃ t, exec (.hostMemAccess port true off bytes) s = .next t ∧
          t.mem = writeBytes s.mem off bytes ∧ t.blocks = s.blocks ∧ t.out = s.out) ∧
        (may false off → may false (off + n - 1) → poisonedIn s off n = false →
          gives u (.hostMemAccess port false off bytes) (.hostRead port true (readBytes s.mem off n))))) ∧
    ∀ dev pasid asid u, u = wakeRim s [phyIsland (2 + peerPort s dev)] →
      let op (red : Option (BitVec 4 × Ty)) : Instr := .peerOperationReceive dev pasid asid v red bytes
      let again (m : Nat) : Ev := .peerOperationReceive dev pasid asid (v + BitVec.ofNat 64 m) none (bytes.drop m)
      let parts := peerParts u pasid dev again bytes
      (∀ p ps w r bs, homeDo w hiveAgent false (peerReq u pasid dev (again p.2.2)) p.1 (.write ((bytes.drop p.2.2).take p.2.1)) p.2.1 =
        (r, .bytes bs) → parts (p :: ps) w = parts ps r) ∧
      (∀ red, bound u pasid dev asid = false → gives u (op red) (.peerAnswer dev false 0)) ∧
      (bound u pasid dev asid = true → portMay u pasid dev v.toNat n = true →
        (∀ red, isAperture v.toNat = true → gives u (op red) (.peerAnswer dev false 1)) ∧
        (isAperture v.toNat = false → v.toNat + n ≤ 15 * 2 ^ 52 →
          (∀ r bs m, parts (splitLines v.toNat n) u = (r, .bytes bs, m) → gives r (op none) (.peerAnswer dev true 0)) ∧
          (∀ r c m, parts (splitLines v.toNat n) u = (r, .fault c, m) →
            (c ≠ causeShadow → gives r (op none) (.peerAnswer dev false 1)) ∧
            (c = causeShadow → exec (op none) s = .next { r with dev := { r.dev with peerWaits := r.dev.peerWaits ++ [again m] } })) ∧
          (∀ sid ty, sessOf u pasid sid = none → gives u (op (some (sid, ty))) (.peerAnswer dev false 2))))

/-! ## Power, errors and boot (spec 19, 20, 28) -/

/-- R416 to R423, R481: a power window ends with its average, and in governed mode a window above the cap, or the sixteenth in a row below 90 % of
it, schedules a change of the operating point, whose tick is the next boundary but one; a supply that it needs is raised at once. At that tick
the clocks change; with a lower point the supply is lowered, and the status shows the change, only a tick later. The tick of that last step and
the stretch of fixed mode are the model's (log 66), and so are the watch of idle blocks and the numbers of the islands (log 67). A monitor trip lengthens the time
of its block. An idle block counts its time, drains its trace and is gated; it wakes on request. -/
def Obligations.PowerAndGating : Prop :=
  ∀ (blk : Nat) (s : State),
    let b := blockAt s blk
    (∀ watts : BitVec 32,
      let d := s.dev
      let low := 10 * watts.toNat < 9 * capWatts d
      ∃ t, exec (.powerWindow watts) s = .next t ∧ t.dev.time = (d.time / 65536 + 1) * 65536 ∧ t.dev.pwrWin = d.time / 65536 ∧ t.dev.watts = watts ∧
        t.mem = s.mem ∧ t.core = s.core ∧ t.dev.copp = d.copp ∧
        (d.pwrcfg.getLsbD 16 = false → d.pend = false → capWatts d < watts.toNat → d.copp ≠ 0 →
          t.dev.nopp = d.copp - 1 ∧ t.dev.pend = true ∧ t.dev.ctick * 65536 = t.dev.time + 65536) ∧
        (d.pwrcfg.getLsbD 16 = false → d.pend = false → low → 15 ≤ d.streak → d.copp ≠ 3 →
          t.dev.nopp = d.copp + 1 ∧ t.dev.pend = true ∧ t.dev.ctick * 65536 = t.dev.time + 65536) ∧
        (d.pwrcfg.getLsbD 16 = false → low → d.streak < 15 → t.dev.streak = d.streak + 1 ∧ t.dev.pend = d.pend)) ∧
    (s.dev.pend = false → exec .oppChange s = .next s) ∧
    (∀ d p, (scheduleOpp d p).supply = max d.supply p.toNat ∧ (scheduleOpp d p).nopp = p ∧ (scheduleOpp d p).pend = true) ∧
    (s.dev.pend = true → s.dev.freq ≠ s.dev.nopp → ∃ t, exec .oppChange s = .next t ∧ t.dev.freq = s.dev.nopp ∧
      s.dev.ctick * 65536 ≤ t.dev.time ∧ s.dev.time ≤ t.dev.time ∧ t.dev.cyc % 5 = 0 ∧ t.mem = s.mem ∧ t.core = s.core ∧
      (s.dev.nopp.toNat < s.dev.copp.toNat → t.dev.supply = s.dev.supply ∧ t.dev.copp = s.dev.copp ∧ t.dev.pend = true) ∧
      (s.dev.copp.toNat ≤ s.dev.nopp.toNat → t.dev.supply = s.dev.nopp.toNat ∧ t.dev.copp = s.dev.nopp ∧ t.dev.pend = false)) ∧
    (s.dev.pend = true → s.dev.freq = s.dev.nopp → ∃ t, exec .oppChange s = .next t ∧ s.dev.ctick * 65536 < t.dev.time ∧
      t.dev.supply = s.dev.nopp.toNat ∧ t.dev.copp = s.dev.nopp ∧ t.dev.pend = false ∧ t.dev.freq = s.dev.freq ∧ t.blocks = s.blocks ∧
      t.mem = s.mem ∧ t.core = s.core) ∧
    (∀ factor cycles, ∃ t, exec (.monitorTrip blk factor cycles) s = .next t ∧
      (blockAt t blk).lag = b.lag + (min factor 200 - 100) * min cycles 256 / 100 ∧ s.dev.time ≤ t.dev.time ∧ t.core = s.core ∧
      t.mem = s.mem ∧ ∀ n, n ≠ blk → blockAt t n = blockAt s n) ∧
    (gateable s blk = false → ∃ t, exec (.gateBlock blk) s = .next t ∧ (blockAt t blk).idleSince = none ∧ (blockAt t blk).gated = b.gated ∧
      t.mem = s.mem) ∧
    (gateable s blk = true → b.idleSince = none → ∃ t, exec (.gateBlock blk) s = .next t ∧ (blockAt t blk).idleSince = some s.dev.time ∧
      (blockAt t blk).gated = false ∧ t.mem = s.mem) ∧
    (∀ t0, gateable s blk = true → b.idleSince = some t0 →
      (b.trace = [] → ∃ t, exec (.gateBlock blk) s = .next t ∧ (blockAt t blk).gated = true ∧ (blockAt t blk).lines = [] ∧
        (blockAt t blk).seqs = [] ∧ ∀ c o, c < 2 ^ 20 → blockOf c = blk → o < 2 ^ 17 → readByte t.mem (localKey c o) = 0) ∧
      (b.trace ≠ [] → b.drainTo = none → ∃ t, exec (.gateBlock blk) s = .next t ∧ (blockAt t blk).drainTo = some (t.dev.time + 50000) ∧
        t0 + field s.dev.pwrcfg 47 32 * 1000 ≤ t.dev.time ∧ (blockAt t blk).gated = false)) ∧
    (∀ u, b.drainTo = some u → b.trace ≠ [] →
      ∃ t, exec (.traceDrainTimeout blk) s = .next t ∧ u ≤ t.dev.time ∧ (blockAt t blk).trace = [] ∧ (blockAt t blk).tlost = 0 ∧
        (blockAt t blk).twr = (b.twr + 1) % 2 ^ 32 ∧
        readW t.mem (field b.rbase 47 0 + 32 * (b.twr % 2 ^ field b.rbase 52 48) + 16) =
          BitVec.ofNat 64 ((b.trace.length / 2 + b.tlost) % 2 ^ 32)) ∧
    (∀ req, b.gated = false → exec (.wakeBlock blk req) s = .next s ∧ exec (.blockWakeComplete blk) s = .next s) ∧
    (∀ req, b.gated = true → ∃ t, exec (.wakeBlock blk (some req)) s = .next t ∧ (blockAt t blk).waking = true ∧
      (blockAt t blk).gated = true ∧ Latch.acc req ∈ (blockAt t blk).latched ∧ (b.waking = false → Ev.blockWakeComplete blk ∈ t.pending)) ∧
    (b.gated = true → b.latched = [] → (∀ c ∈ s.ctxs, ∀ w ∈ c.2.walks, w.2.traceHeld = []) → ∃ t, exec (.blockWakeComplete blk) s = .next t ∧ (blockAt t blk).gated = false ∧
      (blockAt t blk).waking = false ∧ (blockAt t blk).bsSaved = [] ∧ Ev.placement ∈ t.pending) ∧
    ∀ island, ∃ t, exec (.rimIslandGating island) s = .next t ∧ island ∈ t.dev.islands ∧ t = { s with dev := t.dev }

/-- R411, R469 to R483: errors are counted in counters that hold at 0xFFFF; an uncorrectable one marks the register or the bytes that it hits. A
first mismatch of the checker repeats the instruction, a second retires the core's column, or, where no spare is left, withdraws the
block. A port that fails 16 replays in a row retrains: it goes down, or comes back with at least one lane, and with fewer than it had where it
had several; the number is the model's free value (log 69), and the errors' places are its reading (log 68). Boot starts the Hive where the image passes every check, and else leaves ready clear. -/
def Obligations.ReliabilityAndBoot : Prop :=
  ∀ (core blk : Nat) (s : State),
    let b := blockAt s blk
    let home := blockOf core
    (∃ t, exec (.correctedError (blk % 256)) s = .next t ∧
      blockAt t (blk % 256) = { blockAt s (blk % 256) with ce := min 0xFFFF ((blockAt s (blk % 256)).ce + 1) } ∧ t.mem = s.mem ∧ t.core = s.core) ∧
    (∃ t, exec (.correctedError 256) s = .next t ∧ field t.dev.ras256 63 48 = min 0xFFFF (field s.dev.ras256 63 48 + 1) ∧
      field t.dev.ras256 47 0 = field s.dev.ras256 47 0) ∧
    (∀ (mt : Bool) (r : XReg), r ≠ 0 → ∃ t, exec (.uncorrectableError (.xReg core mt r)) s = .next t ∧
      readsPoison (coreOf t core) mt { xr := [r] } = true ∧ (coreOf t core).ct = (coreOf s core).ct ∧ t.mem = s.mem) ∧
    (∀ off, off < localBytes (coreOf s core) → ∃ t, exec (.uncorrectableError (.localMem core off)) s = .next t ∧
      unitOf (localKey core off) ∈ t.poisoned ∧ (blockAt t home).ue = min 0xFFFF ((blockAt s home).ue + 1) ∧ t.mem = s.mem) ∧
    (∀ off, ∃ t, exec (.uncorrectableError (.blockStore blk off)) s = .next t ∧ unitOf (bsKey blk off) ∈ t.poisoned ∧
      (blockAt t blk).ue = min 0xFFFF (b.ue + 1) ∧ t.mem = s.mem) ∧
    (∃ t, exec (.checkerMismatch core false false) s = .next t ∧ cycleNow s home + 16 ≤ cycleNow t home ∧
      (blockAt t home).chk = min 0xFFFF ((blockAt s home).chk + 1) ∧ t.mem = s.mem ∧ t.core = s.core ∧ t.cores = s.cores) ∧
    (∃ t, exec (.checkerMismatch core false true) s = .next t ∧ Ev.columnRetirement core ∈ t.pending ∧
      (coreOf t core).blocked = true ∧ (∀ mt, threadReady t core mt = false) ∧
      (blockAt t home).chk = min 0xFFFF ((blockAt s home).chk + 1)) ∧
    (s.dev.retiring.find? (fun r => r.1 == home) = none → (blockAt s home).wdn = true → exec (.columnRetirement core) s = .next s) ∧
    (s.dev.retiring.find? (fun r => r.1 == home) = none → (blockAt s home).wdn = false → 2 ≤ (blockAt s home).ret.length →
      exec (.columnRetirement core) s = .next (post s (.blockWithdrawal home))) ∧
    (s.dev.retiring.find? (fun r => r.1 == home) = some (home, some core, []) →
      ∃ t, exec (.columnRetirement core) s = .next t ∧
        (blockAt t home).ret = addColumn (blockAt s home).ret (physCol (blockAt s home).ret (colOf core % 64)) ∧
        (∀ r ∈ t.dev.retiring, r.1 ≠ home) ∧ Ev.placement ∈ t.pending ∧ (coreOf t core).blocked = false) ∧
    (b.wdn = true → exec (.blockWithdrawal blk) s = .next s) ∧
    (b.wdn = false → s.dev.retiring.find? (fun r => r.1 == blk) = some (blk, none, []) →
      ∃ t, exec (.blockWithdrawal blk) s = .next t ∧ (blockAt t blk).wdn = true ∧ t.dev.nblocks = s.dev.nblocks - 1 ∧
        t.dev.gen = s.dev.gen + 1 ∧ Ev.placement ∈ t.pending) ∧
    (∀ event, ∃ t, exec (.hiveMemoryError event) s = .next t ∧ field t.dev.ras256 47 32 = min 0xFFFF (field s.dev.ras256 47 32 + 1) ∧
      (event % 2 = 1 → event / 2 < 12 → event / 2 ∈ t.dev.hiveOut) ∧ (event % 2 = 0 → t.dev.hiveOut = s.dev.hiveOut) ∧
      t = { s with dev := t.dev }) ∧
    (∀ port replays down, replays < 16 → exec (.flitCrcFail port replays down) s = .next s) ∧
    (∀ port replays, 16 ≤ replays → ∃ t, exec (.flitCrcFail port replays true) s = .next t ∧
      mapGet t.dev.ports port = some { down := true, lanes := 0 }) ∧
    (∀ port replays, 16 ≤ replays → ∃ u p, mapGet u.dev.ports port = some p ∧ p.down = false ∧ 1 ≤ p.lanes ∧
      (2 ≤ (portOf s port).lanes → p.lanes < (portOf s port).lanes) ∧ u = { s with dev := u.dev, free := u.free } ∧
      exec (.flitCrcFail port replays false) s =
        .next (superEvent u 19 (BitVec.ofNat 64 (portMaster port)) (BitVec.ofNat 64 (p.lanes % 256)))) ∧
    (∀ stack row, ∃ t l, exec (.hbmScrub stack row) s = .next t ∧ mapGet t.dev.spared stack = some l ∧ row ∈ l ∧ t = { s with dev := t.dev }) ∧
    ∃ t, exec .boot s = .next t ∧ t.mem = s.mem ∧ t.core = s.core ∧ t.dev.bootstat.getLsbD 0 = imageOk s ∧
      (imageOk s = true → t.dev.hiveUp = true ∧ t.dev.bootstat = 1 ∧ t.dev.runN = s.dev.runN + 1 + Config.furtherImages.length ∧
        ∀ c < 12, ∃ m, mapGet t.dev.hiveMem c = some m ∧ m.imem0 = m.imem1) ∧
      (imageOk s = false → t.dev.hiveUp = s.dev.hiveUp)

/-! ## Every step -/

/-- The canonical form of memory is kept by every step of every state, whatever the thread or the unit that acts (log entry 1). -/
def Obligations.StepsKeepMemoryForm : Prop :=
  (∀ (i : Instr) (s t : State), memWf s.mem = true → exec i s = .next t → memWf t.mem = true) ∧
  ∀ s t : State, memWf s.mem = true → step s = .next t → memWf t.mem = true
end

