-- ==== Sys2Proof/Laws/Codec.lean ====
section
/-!
SUPPORT. The codes of operands and modifiers: each decoder of a field reads what the encoder writes.
-/

namespace Sys2Proof

/-- The fields of the word of fields are those fields (R189). -/
theorem Fields.ofWord_toWord (f : Fields) : Fields.ofWord f.toWord = f := by
  obtain ⟨op, ty, d, a, b, c, e, g0, g1, ch, sd, y, md⟩ := f
  simp only [Fields.ofWord, Fields.toWord, Fields.mk.injEq]
  refine ⟨?_, ?_, ?_, ?_, ?_, ?_, ?_, ?_, ?_, ?_, ?_, ?_, ?_⟩ <;>
    (apply BitVec.eq_of_getLsbD_eq; intro i hi; simp only [BitVec.getLsbD_extractLsb', BitVec.getLsbD_append, hi, decide_true, Bool.true_and];
     (repeat rw [if_neg (by omega)]); (try rw [if_pos (by omega)]); congr 1; omega)

/-- The immediate of fields that hold an immediate. -/
@[simp] theorem imm_mkI (op : BitVec 10) (h : Hdr) (md : BitVec 4) (d a : BitVec 6) (imm : BitVec 18) :
    (mkI op h md d a imm).imm = imm := by
  simp only [Fields.imm, mkI]
  apply BitVec.eq_of_getLsbD_eq
  intro i hi
  simp only [BitVec.getLsbD_append, BitVec.getLsbD_extractLsb']
  by_cases h1 : i < 6
  · rw [if_pos h1]
    simp [h1]
  · rw [if_neg h1]
    by_cases h2 : i - 6 < 6
    · have e : 6 + (i - 6) = i := by omega
      rw [if_pos h2]
      simp [h2, e]
    · have e : 12 + (i - 6 - 6) = i := by omega
      have h3 : i - 6 - 6 < 6 := by omega
      rw [if_neg h2]
      simp [h3, e]

/-- The header of fields that carry it (R190, R194). -/
theorem hdrOf_lit (op : BitVec 10) (ty md : BitVec 4) (d a b c e : BitVec 6) (h : Hdr) (hw : h.wf = true) :
    hdrOf { op := op, ty := ty, d := d, a := a, b := b, c := c, e := e, g0 := h.g0, g1 := h.g1, ch := h.ch, sd := h.sd
            y := h.y, md := md } = .ok h := by
  simp only [Hdr.wf, Bool.and_eq_true, bne_iff_ne] at hw
  exact if_neg (fun e => e.elim hw.1 hw.2)

/-- The header of fields whose hint acts (R195). -/
theorem hdrChOf_lit (op : BitVec 10) (ty md : BitVec 4) (d a b c e : BitVec 6) (h : Hdr) (hw : h.wfCh = true) :
    hdrChOf { op := op, ty := ty, d := d, a := a, b := b, c := c, e := e, g0 := h.g0, g1 := h.g1, ch := h.ch, sd := h.sd
              y := h.y, md := md } = .ok h := by
  simp only [Hdr.wfCh, Bool.and_eq_true, bne_iff_ne] at hw
  rw [hdrChOf, if_neg hw.2, hdrOf_lit _ _ _ _ _ _ _ _ h hw.1]

/-- The immediate of fields that spread it over b, c and e (R191). -/
theorem imm_lit (op : BitVec 10) (ty md g0 g1 sd : BitVec 4) (d a : BitVec 6) (ch : BitVec 3) (y : BitVec 1) (imm : BitVec 18) :
    Fields.imm { op := op, ty := ty, d := d, a := a, b := imm.extractLsb' 12 6, c := imm.extractLsb' 6 6
                 e := imm.extractLsb' 0 6, g0 := g0, g1 := g1, ch := ch, sd := sd, y := y, md := md } = imm :=
  imm_mkI op ⟨g0, g1, ch, sd, y⟩ md d a imm

/-! ## Operands -/

@[simp] theorem xOf_xc (r : XReg) : xOf (xc r) = .ok r := by
  have k : ∀ r : XReg, (xc r).toNat < 32 ∧ (xc r).setWidth 5 = r := by decide
  simp [xOf, k r]
@[simp] theorem vOf_vc (r : VReg) : vOf (vc r) = .ok r := by
  have k : ∀ r : VReg, 32 ≤ (vc r).toNat ∧ (vc r).toNat < 48 ∧ (vc r).setWidth 4 = r := by decide
  simp [vOf, k r]
@[simp] theorem hOf_hc (r : HReg) : hOf (hc r) = .ok r := by
  have k : ∀ r : HReg, 48 ≤ (hc r).toNat ∧ (hc r).toNat < 56 ∧ (hc r).setWidth 3 = r := by decide
  simp [hOf, k r]
@[simp] theorem kOf_kc (r : KReg) : kOf (kc r) = .ok r := by
  have k : ∀ r : KReg, 56 ≤ (kc r).toNat ∧ (kc r).setWidth 3 = r := by decide
  simp [kOf, k r]
@[simp] theorem tOf_tc (r : TReg) : tOf (tc r) = .ok r := by
  have k : ∀ r : TReg, (tc r).toNat < 4 ∧ (tc r).setWidth 2 = r := by decide
  simp [tOf, k r]
@[simp] theorem aOf_ac (r : AReg) : aOf (ac r) = .ok r := by
  have k : ∀ r : AReg, r = 0 ∨ r = 1 := by decide
  rcases k r with rfl | rfl <;> rfl
@[simp] theorem pOf_pc (r : PReg) : pOf (pc r) = .ok r := by
  have k : ∀ r : PReg, (pc r).toNat < 8 ∧ (pc r).setWidth 3 = r := by decide
  simp [pOf, k r]
@[simp] theorem pc_small (r : PReg) : decide ((pc r).toNat < 8) = true := by revert r; decide
@[simp] theorem pc_back (r : PReg) : (pc r).setWidth 3 = r := by revert r; decide
@[simp] theorem rawOf_setWidth (n : BitVec 4) : rawOf (n.setWidth 6) = .ok n := by
  have k : ∀ n : BitVec 4, (n.setWidth 6).toNat < 16 ∧ (n.setWidth 6 : BitVec 6).setWidth 4 = n := by decide
  rw [rawOf, if_pos (k n).1, (k n).2]

@[simp] theorem vxOf_vxc (b : VX) : vxOf (vxc b) = .ok b := by
  cases b with
  | v r =>
    have k : ∀ r : VReg, ¬ (vc r).toNat < 32 ∧ (vc r).toNat < 48 ∧ (vc r).setWidth 4 = r := by decide
    simp only [vxOf, vxc, if_neg (k r).1, if_pos (k r).2.1, (k r).2.2]
  | x r =>
    have k : ∀ r : XReg, (xc r).toNat < 32 ∧ (xc r).setWidth 5 = r := by decide
    simp only [vxOf, vxc, if_pos (k r).1, (k r).2]

@[simp] theorem k0Of_k0c (e : Option KReg) : k0Of (k0c e) = .ok e := by
  cases e with
  | none => rfl
  | some r =>
    have k : ∀ r : KReg, kc r ≠ 0 ∧ 56 ≤ (kc r).toNat ∧ (kc r).setWidth 3 = r := by decide
    simp only [k0Of, k0c, if_neg (k r).1, if_pos (k r).2.1, (k r).2.2]

@[simp] theorem v0Of_v0c (e : Option VReg) : v0Of (v0c e) = .ok e := by
  cases e with
  | none => rfl
  | some r =>
    have k : ∀ r : VReg, vc r ≠ 0 ∧ (32 ≤ (vc r).toNat ∧ (vc r).toNat < 48) ∧ (vc r).setWidth 4 = r := by decide
    simp only [v0Of, v0c, if_neg (k r).1, if_pos (k r).2.1, (k r).2.2]

/-- An X/0 operand is read back where it does not name x0 (R327). -/
theorem x0Of_x0c (e : Option XReg) (h : regNZ e = true) : x0Of (x0c e) = .ok e := by
  cases e with
  | none => rfl
  | some r =>
    have k : ∀ r : XReg, regNZ (some r) = true → xc r ≠ 0 ∧ (xc r).toNat < 32 ∧ (xc r).setWidth 5 = r := by decide
    simp only [x0Of, x0c, if_neg (k r h).1, if_pos (k r h).2.1, (k r h).2.2]

/-- An X operand that is not x0 is read back (R327). -/
theorem x1Of_xc (r : XReg) (h : (r != 0) = true) : x1Of (xc r) = .ok r := by
  have k : ∀ r : XReg, (r != 0) = true → xc r ≠ 0 ∧ (xc r).toNat < 32 ∧ (xc r).setWidth 5 = r := by decide
  simp only [x1Of, if_neg (k r h).1, if_pos (k r h).2.1, (k r h).2.2]

/-! ## Types, modifiers and numbers -/

@[simp] theorem ofCode_code (t : Ty) : Ty.ofCode t.code = some t := by cases t <;> rfl
@[simp] theorem typeField_code (t : Ty) : typeField (t.code.setWidth 6) = .ok t := by cases t <;> rfl

@[simp] theorem rndOf_rndCode (r : Rnd) : rndOf (rndCode r) = .ok r := by
  obtain ⟨m, s⟩ := r
  cases m <;> cases s <;> rfl

@[simp] theorem flagOf_flagc (b : Bool) : flagOf (flagc b) = .ok b := by cases b <;> rfl
@[simp] theorem fnOf_code (f : Fn) : fnOf f.code = .ok f := by cases f <;> rfl

@[simp] theorem sysRegOf_code (r : SysReg) : sysRegOf r.code = some r := by
  cases r with
  | tshape n => revert n; decide
  | _ => rfl

@[simp] theorem atomOpOf_code (o : AtomOp) : atomOpOf o.code = .ok o := by cases o <;> rfl
@[simp] theorem condOf_code (c : Cond) : condOf c.code = .ok c := by cases c <;> rfl

/-- The rounding form of arithmetic is read back where the type allows it (R282). -/
theorem rndArith_rndCode (t : Ty) (r : Rnd) (h : rndArithOk t r = true) : rndArith t (rndCode r) = .ok r := by
  obtain ⟨m, s⟩ := r
  cases t <;> cases m <;> cases s <;> first | rfl | (exact absurd h (by decide))

end Sys2Proof
end

