-- ==== Sys2Proof/Laws/State.lean ====
section
/-!
SUPPORT. The small lemmas of the state's updates: one for each field that an update keeps, and one for the field that it
changes; reads after writes of registers.
-/

namespace Sys2Proof.Machine

/-! ### post -/

@[simp] theorem post_me (s : State) (e : Ev) : (post s e).me = s.me := rfl
@[simp] theorem post_onMt (s : State) (e : Ev) : (post s e).onMt = s.onMt := rfl
@[simp] theorem post_core (s : State) (e : Ev) : (post s e).core = s.core := rfl
@[simp] theorem post_cores (s : State) (e : Ev) : (post s e).cores = s.cores := rfl
@[simp] theorem post_ctxs (s : State) (e : Ev) : (post s e).ctxs = s.ctxs := rfl
@[simp] theorem post_blocks (s : State) (e : Ev) : (post s e).blocks = s.blocks := rfl
@[simp] theorem post_mem (s : State) (e : Ev) : (post s e).mem = s.mem := rfl
@[simp] theorem post_poisoned (s : State) (e : Ev) : (post s e).poisoned = s.poisoned := rfl
@[simp] theorem post_dev (s : State) (e : Ev) : (post s e).dev = s.dev := rfl
@[simp] theorem post_net (s : State) (e : Ev) : (post s e).net = s.net := rfl
@[simp] theorem post_netId (s : State) (e : Ev) : (post s e).netId = s.netId := rfl
@[simp] theorem post_pending (s : State) (e : Ev) : (post s e).pending = s.pending ++ [e] := rfl
@[simp] theorem post_out (s : State) (e : Ev) : (post s e).out = s.out := rfl
@[simp] theorem post_free (s : State) (e : Ev) : (post s e).free = s.free := rfl

/-! ### setDev -/

@[simp] theorem setDev_me (s : State) (d : Device) : (setDev s d).me = s.me := rfl
@[simp] theorem setDev_onMt (s : State) (d : Device) : (setDev s d).onMt = s.onMt := rfl
@[simp] theorem setDev_core (s : State) (d : Device) : (setDev s d).core = s.core := rfl
@[simp] theorem setDev_cores (s : State) (d : Device) : (setDev s d).cores = s.cores := rfl
@[simp] theorem setDev_ctxs (s : State) (d : Device) : (setDev s d).ctxs = s.ctxs := rfl
@[simp] theorem setDev_blocks (s : State) (d : Device) : (setDev s d).blocks = s.blocks := rfl
@[simp] theorem setDev_mem (s : State) (d : Device) : (setDev s d).mem = s.mem := rfl
@[simp] theorem setDev_poisoned (s : State) (d : Device) : (setDev s d).poisoned = s.poisoned := rfl
@[simp] theorem setDev_dev (s : State) (d : Device) : (setDev s d).dev = d := rfl
@[simp] theorem setDev_net (s : State) (d : Device) : (setDev s d).net = s.net := rfl
@[simp] theorem setDev_netId (s : State) (d : Device) : (setDev s d).netId = s.netId := rfl
@[simp] theorem setDev_pending (s : State) (d : Device) : (setDev s d).pending = s.pending := rfl
@[simp] theorem setDev_out (s : State) (d : Device) : (setDev s d).out = s.out := rfl
@[simp] theorem setDev_free (s : State) (d : Device) : (setDev s d).free = s.free := rfl

/-! ### setBlock -/

@[simp] theorem setBlock_me (s : State) (b : Nat) (k : Block) : (setBlock s b k).me = s.me := rfl
@[simp] theorem setBlock_onMt (s : State) (b : Nat) (k : Block) : (setBlock s b k).onMt = s.onMt := rfl
@[simp] theorem setBlock_core (s : State) (b : Nat) (k : Block) : (setBlock s b k).core = s.core := rfl
@[simp] theorem setBlock_cores (s : State) (b : Nat) (k : Block) : (setBlock s b k).cores = s.cores := rfl
@[simp] theorem setBlock_ctxs (s : State) (b : Nat) (k : Block) : (setBlock s b k).ctxs = s.ctxs := rfl
@[simp] theorem setBlock_blocks (s : State) (b : Nat) (k : Block) : (setBlock s b k).blocks = mapSet s.blocks b k := rfl
@[simp] theorem setBlock_mem (s : State) (b : Nat) (k : Block) : (setBlock s b k).mem = s.mem := rfl
@[simp] theorem setBlock_poisoned (s : State) (b : Nat) (k : Block) : (setBlock s b k).poisoned = s.poisoned := rfl
@[simp] theorem setBlock_dev (s : State) (b : Nat) (k : Block) : (setBlock s b k).dev = s.dev := rfl
@[simp] theorem setBlock_net (s : State) (b : Nat) (k : Block) : (setBlock s b k).net = s.net := rfl
@[simp] theorem setBlock_netId (s : State) (b : Nat) (k : Block) : (setBlock s b k).netId = s.netId := rfl
@[simp] theorem setBlock_pending (s : State) (b : Nat) (k : Block) : (setBlock s b k).pending = s.pending := rfl
@[simp] theorem setBlock_out (s : State) (b : Nat) (k : Block) : (setBlock s b k).out = s.out := rfl
@[simp] theorem setBlock_free (s : State) (b : Nat) (k : Block) : (setBlock s b k).free = s.free := rfl

/-! ### setCtx -/

@[simp] theorem setCtx_me (s : State) (a : Nat) (c : Context) : (setCtx s a c).me = s.me := rfl
@[simp] theorem setCtx_onMt (s : State) (a : Nat) (c : Context) : (setCtx s a c).onMt = s.onMt := rfl
@[simp] theorem setCtx_core (s : State) (a : Nat) (c : Context) : (setCtx s a c).core = s.core := rfl
@[simp] theorem setCtx_cores (s : State) (a : Nat) (c : Context) : (setCtx s a c).cores = s.cores := rfl
@[simp] theorem setCtx_ctxs (s : State) (a : Nat) (c : Context) : (setCtx s a c).ctxs = mapSet s.ctxs a c := rfl
@[simp] theorem setCtx_blocks (s : State) (a : Nat) (c : Context) : (setCtx s a c).blocks = s.blocks := rfl
@[simp] theorem setCtx_mem (s : State) (a : Nat) (c : Context) : (setCtx s a c).mem = s.mem := rfl
@[simp] theorem setCtx_poisoned (s : State) (a : Nat) (c : Context) : (setCtx s a c).poisoned = s.poisoned := rfl
@[simp] theorem setCtx_dev (s : State) (a : Nat) (c : Context) : (setCtx s a c).dev = s.dev := rfl
@[simp] theorem setCtx_net (s : State) (a : Nat) (c : Context) : (setCtx s a c).net = s.net := rfl
@[simp] theorem setCtx_netId (s : State) (a : Nat) (c : Context) : (setCtx s a c).netId = s.netId := rfl
@[simp] theorem setCtx_pending (s : State) (a : Nat) (c : Context) : (setCtx s a c).pending = s.pending := rfl
@[simp] theorem setCtx_out (s : State) (a : Nat) (c : Context) : (setCtx s a c).out = s.out := rfl
@[simp] theorem setCtx_free (s : State) (a : Nat) (c : Context) : (setCtx s a c).free = s.free := rfl

/-! ### vset -/

@[simp] theorem vset_me (s : State) (r : VReg) (x : VecVal) : (vset s r x).me = s.me := rfl
@[simp] theorem vset_onMt (s : State) (r : VReg) (x : VecVal) : (vset s r x).onMt = s.onMt := rfl
@[simp] theorem vset_cores (s : State) (r : VReg) (x : VecVal) : (vset s r x).cores = s.cores := rfl
@[simp] theorem vset_ctxs (s : State) (r : VReg) (x : VecVal) : (vset s r x).ctxs = s.ctxs := rfl
@[simp] theorem vset_blocks (s : State) (r : VReg) (x : VecVal) : (vset s r x).blocks = s.blocks := rfl
@[simp] theorem vset_mem (s : State) (r : VReg) (x : VecVal) : (vset s r x).mem = s.mem := rfl
@[simp] theorem vset_poisoned (s : State) (r : VReg) (x : VecVal) : (vset s r x).poisoned = s.poisoned := rfl
@[simp] theorem vset_dev (s : State) (r : VReg) (x : VecVal) : (vset s r x).dev = s.dev := rfl
@[simp] theorem vset_net (s : State) (r : VReg) (x : VecVal) : (vset s r x).net = s.net := rfl
@[simp] theorem vset_netId (s : State) (r : VReg) (x : VecVal) : (vset s r x).netId = s.netId := rfl
@[simp] theorem vset_pending (s : State) (r : VReg) (x : VecVal) : (vset s r x).pending = s.pending := rfl
@[simp] theorem vset_out (s : State) (r : VReg) (x : VecVal) : (vset s r x).out = s.out := rfl
@[simp] theorem vset_free (s : State) (r : VReg) (x : VecVal) : (vset s r x).free = s.free := rfl

/-! ### kset -/

@[simp] theorem kset_me (s : State) (r : KReg) (x : MaskVal) : (kset s r x).me = s.me := rfl
@[simp] theorem kset_onMt (s : State) (r : KReg) (x : MaskVal) : (kset s r x).onMt = s.onMt := rfl
@[simp] theorem kset_cores (s : State) (r : KReg) (x : MaskVal) : (kset s r x).cores = s.cores := rfl
@[simp] theorem kset_ctxs (s : State) (r : KReg) (x : MaskVal) : (kset s r x).ctxs = s.ctxs := rfl
@[simp] theorem kset_blocks (s : State) (r : KReg) (x : MaskVal) : (kset s r x).blocks = s.blocks := rfl
@[simp] theorem kset_mem (s : State) (r : KReg) (x : MaskVal) : (kset s r x).mem = s.mem := rfl
@[simp] theorem kset_poisoned (s : State) (r : KReg) (x : MaskVal) : (kset s r x).poisoned = s.poisoned := rfl
@[simp] theorem kset_dev (s : State) (r : KReg) (x : MaskVal) : (kset s r x).dev = s.dev := rfl
@[simp] theorem kset_net (s : State) (r : KReg) (x : MaskVal) : (kset s r x).net = s.net := rfl
@[simp] theorem kset_netId (s : State) (r : KReg) (x : MaskVal) : (kset s r x).netId = s.netId := rfl
@[simp] theorem kset_pending (s : State) (r : KReg) (x : MaskVal) : (kset s r x).pending = s.pending := rfl
@[simp] theorem kset_out (s : State) (r : KReg) (x : MaskVal) : (kset s r x).out = s.out := rfl
@[simp] theorem kset_free (s : State) (r : KReg) (x : MaskVal) : (kset s r x).free = s.free := rfl

/-! ### setThr -/

@[simp] theorem setThr_me (s : State) (t : Thread) : (setThr s t).me = s.me := by unfold setThr; split <;> rfl
@[simp] theorem setThr_onMt (s : State) (t : Thread) : (setThr s t).onMt = s.onMt := by unfold setThr; split <;> rfl
@[simp] theorem setThr_cores (s : State) (t : Thread) : (setThr s t).cores = s.cores := by unfold setThr; split <;> rfl
@[simp] theorem setThr_ctxs (s : State) (t : Thread) : (setThr s t).ctxs = s.ctxs := by unfold setThr; split <;> rfl
@[simp] theorem setThr_blocks (s : State) (t : Thread) : (setThr s t).blocks = s.blocks := by unfold setThr; split <;> rfl
@[simp] theorem setThr_mem (s : State) (t : Thread) : (setThr s t).mem = s.mem := by unfold setThr; split <;> rfl
@[simp] theorem setThr_poisoned (s : State) (t : Thread) : (setThr s t).poisoned = s.poisoned := by unfold setThr; split <;> rfl
@[simp] theorem setThr_dev (s : State) (t : Thread) : (setThr s t).dev = s.dev := by unfold setThr; split <;> rfl
@[simp] theorem setThr_net (s : State) (t : Thread) : (setThr s t).net = s.net := by unfold setThr; split <;> rfl
@[simp] theorem setThr_netId (s : State) (t : Thread) : (setThr s t).netId = s.netId := by unfold setThr; split <;> rfl
@[simp] theorem setThr_pending (s : State) (t : Thread) : (setThr s t).pending = s.pending := by unfold setThr; split <;> rfl
@[simp] theorem setThr_out (s : State) (t : Thread) : (setThr s t).out = s.out := by unfold setThr; split <;> rfl
@[simp] theorem setThr_free (s : State) (t : Thread) : (setThr s t).free = s.free := by unfold setThr; split <;> rfl

/-! ### xset -/

@[simp] theorem xset_me (s : State) (r : XReg) (w : Word) : (xset s r w).me = s.me := by unfold xset setThr; split <;> rfl
@[simp] theorem xset_onMt (s : State) (r : XReg) (w : Word) : (xset s r w).onMt = s.onMt := by unfold xset setThr; split <;> rfl
@[simp] theorem xset_cores (s : State) (r : XReg) (w : Word) : (xset s r w).cores = s.cores := by unfold xset setThr; split <;> rfl
@[simp] theorem xset_ctxs (s : State) (r : XReg) (w : Word) : (xset s r w).ctxs = s.ctxs := by unfold xset setThr; split <;> rfl
@[simp] theorem xset_blocks (s : State) (r : XReg) (w : Word) : (xset s r w).blocks = s.blocks := by unfold xset setThr; split <;> rfl
@[simp] theorem xset_mem (s : State) (r : XReg) (w : Word) : (xset s r w).mem = s.mem := by unfold xset setThr; split <;> rfl
@[simp] theorem xset_poisoned (s : State) (r : XReg) (w : Word) : (xset s r w).poisoned = s.poisoned := by unfold xset setThr; split <;> rfl
@[simp] theorem xset_dev (s : State) (r : XReg) (w : Word) : (xset s r w).dev = s.dev := by unfold xset setThr; split <;> rfl
@[simp] theorem xset_net (s : State) (r : XReg) (w : Word) : (xset s r w).net = s.net := by unfold xset setThr; split <;> rfl
@[simp] theorem xset_netId (s : State) (r : XReg) (w : Word) : (xset s r w).netId = s.netId := by unfold xset setThr; split <;> rfl
@[simp] theorem xset_pending (s : State) (r : XReg) (w : Word) : (xset s r w).pending = s.pending := by unfold xset setThr; split <;> rfl
@[simp] theorem xset_out (s : State) (r : XReg) (w : Word) : (xset s r w).out = s.out := by unfold xset setThr; split <;> rfl
@[simp] theorem xset_free (s : State) (r : XReg) (w : Word) : (xset s r w).free = s.free := by unfold xset setThr; split <;> rfl

/-! ### pset -/

@[simp] theorem pset_me (s : State) (n : PReg) (b : Bool) : (pset s n b).me = s.me := by unfold pset setThr; split <;> rfl
@[simp] theorem pset_onMt (s : State) (n : PReg) (b : Bool) : (pset s n b).onMt = s.onMt := by unfold pset setThr; split <;> rfl
@[simp] theorem pset_cores (s : State) (n : PReg) (b : Bool) : (pset s n b).cores = s.cores := by unfold pset setThr; split <;> rfl
@[simp] theorem pset_ctxs (s : State) (n : PReg) (b : Bool) : (pset s n b).ctxs = s.ctxs := by unfold pset setThr; split <;> rfl
@[simp] theorem pset_blocks (s : State) (n : PReg) (b : Bool) : (pset s n b).blocks = s.blocks := by unfold pset setThr; split <;> rfl
@[simp] theorem pset_mem (s : State) (n : PReg) (b : Bool) : (pset s n b).mem = s.mem := by unfold pset setThr; split <;> rfl
@[simp] theorem pset_poisoned (s : State) (n : PReg) (b : Bool) : (pset s n b).poisoned = s.poisoned := by unfold pset setThr; split <;> rfl
@[simp] theorem pset_dev (s : State) (n : PReg) (b : Bool) : (pset s n b).dev = s.dev := by unfold pset setThr; split <;> rfl
@[simp] theorem pset_net (s : State) (n : PReg) (b : Bool) : (pset s n b).net = s.net := by unfold pset setThr; split <;> rfl
@[simp] theorem pset_netId (s : State) (n : PReg) (b : Bool) : (pset s n b).netId = s.netId := by unfold pset setThr; split <;> rfl
@[simp] theorem pset_pending (s : State) (n : PReg) (b : Bool) : (pset s n b).pending = s.pending := by unfold pset setThr; split <;> rfl
@[simp] theorem pset_out (s : State) (n : PReg) (b : Bool) : (pset s n b).out = s.out := by unfold pset setThr; split <;> rfl
@[simp] theorem pset_free (s : State) (n : PReg) (b : Bool) : (pset s n b).free = s.free := by unfold pset setThr; split <;> rfl

/-! ### setCore -/

@[simp] theorem setCore_me (s : State) (c : Nat) (k : Core) : (setCore s c k).me = s.me := by unfold setCore; split <;> rfl
@[simp] theorem setCore_onMt (s : State) (c : Nat) (k : Core) : (setCore s c k).onMt = s.onMt := by unfold setCore; split <;> rfl
@[simp] theorem setCore_ctxs (s : State) (c : Nat) (k : Core) : (setCore s c k).ctxs = s.ctxs := by unfold setCore; split <;> rfl
@[simp] theorem setCore_blocks (s : State) (c : Nat) (k : Core) : (setCore s c k).blocks = s.blocks := by unfold setCore; split <;> rfl
@[simp] theorem setCore_mem (s : State) (c : Nat) (k : Core) : (setCore s c k).mem = s.mem := by unfold setCore; split <;> rfl
@[simp] theorem setCore_poisoned (s : State) (c : Nat) (k : Core) : (setCore s c k).poisoned = s.poisoned := by unfold setCore; split <;> rfl
@[simp] theorem setCore_dev (s : State) (c : Nat) (k : Core) : (setCore s c k).dev = s.dev := by unfold setCore; split <;> rfl
@[simp] theorem setCore_net (s : State) (c : Nat) (k : Core) : (setCore s c k).net = s.net := by unfold setCore; split <;> rfl
@[simp] theorem setCore_netId (s : State) (c : Nat) (k : Core) : (setCore s c k).netId = s.netId := by unfold setCore; split <;> rfl
@[simp] theorem setCore_pending (s : State) (c : Nat) (k : Core) : (setCore s c k).pending = s.pending := by unfold setCore; split <;> rfl
@[simp] theorem setCore_out (s : State) (c : Nat) (k : Core) : (setCore s c k).out = s.out := by unfold setCore; split <;> rfl
@[simp] theorem setCore_free (s : State) (c : Nat) (k : Core) : (setCore s c k).free = s.free := by unfold setCore; split <;> rfl

/-! ### advance -/

@[simp] theorem advance_me (s : State) (n : Nat) : (advance s n).me = s.me := rfl
@[simp] theorem advance_onMt (s : State) (n : Nat) : (advance s n).onMt = s.onMt := rfl
@[simp] theorem advance_core (s : State) (n : Nat) : (advance s n).core = s.core := rfl
@[simp] theorem advance_cores (s : State) (n : Nat) : (advance s n).cores = s.cores := rfl
@[simp] theorem advance_ctxs (s : State) (n : Nat) : (advance s n).ctxs = s.ctxs := rfl
@[simp] theorem advance_blocks (s : State) (n : Nat) : (advance s n).blocks = s.blocks := rfl
@[simp] theorem advance_mem (s : State) (n : Nat) : (advance s n).mem = s.mem := rfl
@[simp] theorem advance_poisoned (s : State) (n : Nat) : (advance s n).poisoned = s.poisoned := rfl
@[simp] theorem advance_net (s : State) (n : Nat) : (advance s n).net = s.net := rfl
@[simp] theorem advance_netId (s : State) (n : Nat) : (advance s n).netId = s.netId := rfl
@[simp] theorem advance_pending (s : State) (n : Nat) : (advance s n).pending = s.pending := rfl
@[simp] theorem advance_out (s : State) (n : Nat) : (advance s n).out = s.out := rfl
@[simp] theorem advance_free (s : State) (n : Nat) : (advance s n).free = s.free := rfl

/-! ### advanceToTick -/

@[simp] theorem advanceToTick_me (s : State) (t : Nat) : (advanceToTick s t).me = s.me := by unfold advanceToTick; split <;> rfl
@[simp] theorem advanceToTick_onMt (s : State) (t : Nat) : (advanceToTick s t).onMt = s.onMt := by unfold advanceToTick; split <;> rfl
@[simp] theorem advanceToTick_core (s : State) (t : Nat) : (advanceToTick s t).core = s.core := by unfold advanceToTick; split <;> rfl
@[simp] theorem advanceToTick_cores (s : State) (t : Nat) : (advanceToTick s t).cores = s.cores := by unfold advanceToTick; split <;> rfl
@[simp] theorem advanceToTick_ctxs (s : State) (t : Nat) : (advanceToTick s t).ctxs = s.ctxs := by unfold advanceToTick; split <;> rfl
@[simp] theorem advanceToTick_blocks (s : State) (t : Nat) : (advanceToTick s t).blocks = s.blocks := by unfold advanceToTick; split <;> rfl
@[simp] theorem advanceToTick_mem (s : State) (t : Nat) : (advanceToTick s t).mem = s.mem := by unfold advanceToTick; split <;> rfl
@[simp] theorem advanceToTick_poisoned (s : State) (t : Nat) : (advanceToTick s t).poisoned = s.poisoned := by unfold advanceToTick; split <;> rfl
@[simp] theorem advanceToTick_net (s : State) (t : Nat) : (advanceToTick s t).net = s.net := by unfold advanceToTick; split <;> rfl
@[simp] theorem advanceToTick_netId (s : State) (t : Nat) : (advanceToTick s t).netId = s.netId := by unfold advanceToTick; split <;> rfl
@[simp] theorem advanceToTick_pending (s : State) (t : Nat) : (advanceToTick s t).pending = s.pending := by unfold advanceToTick; split <;> rfl
@[simp] theorem advanceToTick_out (s : State) (t : Nat) : (advanceToTick s t).out = s.out := by unfold advanceToTick; split <;> rfl
@[simp] theorem advanceToTick_free (s : State) (t : Nat) : (advanceToTick s t).free = s.free := by unfold advanceToTick; split <;> rfl

/-! ### advanceToCycle -/

@[simp] theorem advanceToCycle_me (s : State) (b c : Nat) : (advanceToCycle s b c).me = s.me := by unfold advanceToCycle; dsimp only; split <;> rfl
@[simp] theorem advanceToCycle_onMt (s : State) (b c : Nat) : (advanceToCycle s b c).onMt = s.onMt := by unfold advanceToCycle; dsimp only; split <;> rfl
@[simp] theorem advanceToCycle_core (s : State) (b c : Nat) : (advanceToCycle s b c).core = s.core := by unfold advanceToCycle; dsimp only; split <;> rfl
@[simp] theorem advanceToCycle_cores (s : State) (b c : Nat) : (advanceToCycle s b c).cores = s.cores := by unfold advanceToCycle; dsimp only; split <;> rfl
@[simp] theorem advanceToCycle_ctxs (s : State) (b c : Nat) : (advanceToCycle s b c).ctxs = s.ctxs := by unfold advanceToCycle; dsimp only; split <;> rfl
@[simp] theorem advanceToCycle_blocks (s : State) (b c : Nat) : (advanceToCycle s b c).blocks = s.blocks := by unfold advanceToCycle; dsimp only; split <;> rfl
@[simp] theorem advanceToCycle_mem (s : State) (b c : Nat) : (advanceToCycle s b c).mem = s.mem := by unfold advanceToCycle; dsimp only; split <;> rfl
@[simp] theorem advanceToCycle_poisoned (s : State) (b c : Nat) : (advanceToCycle s b c).poisoned = s.poisoned := by unfold advanceToCycle; dsimp only; split <;> rfl
@[simp] theorem advanceToCycle_net (s : State) (b c : Nat) : (advanceToCycle s b c).net = s.net := by unfold advanceToCycle; dsimp only; split <;> rfl
@[simp] theorem advanceToCycle_netId (s : State) (b c : Nat) : (advanceToCycle s b c).netId = s.netId := by unfold advanceToCycle; dsimp only; split <;> rfl
@[simp] theorem advanceToCycle_pending (s : State) (b c : Nat) : (advanceToCycle s b c).pending = s.pending := by unfold advanceToCycle; dsimp only; split <;> rfl
@[simp] theorem advanceToCycle_out (s : State) (b c : Nat) : (advanceToCycle s b c).out = s.out := by unfold advanceToCycle; dsimp only; split <;> rfl
@[simp] theorem advanceToCycle_free (s : State) (b c : Nat) : (advanceToCycle s b c).free = s.free := by unfold advanceToCycle; dsimp only; split <;> rfl

/-! ### idle -/

@[simp] theorem idle_me (s : State) : (idle s).me = s.me := rfl
@[simp] theorem idle_onMt (s : State) : (idle s).onMt = s.onMt := rfl
@[simp] theorem idle_core (s : State) : (idle s).core = s.core := rfl
@[simp] theorem idle_cores (s : State) : (idle s).cores = s.cores := rfl
@[simp] theorem idle_ctxs (s : State) : (idle s).ctxs = s.ctxs := rfl
@[simp] theorem idle_blocks (s : State) : (idle s).blocks = s.blocks := rfl
@[simp] theorem idle_mem (s : State) : (idle s).mem = s.mem := rfl
@[simp] theorem idle_poisoned (s : State) : (idle s).poisoned = s.poisoned := rfl
@[simp] theorem idle_net (s : State) : (idle s).net = s.net := rfl
@[simp] theorem idle_netId (s : State) : (idle s).netId = s.netId := rfl
@[simp] theorem idle_pending (s : State) : (idle s).pending = s.pending := rfl
@[simp] theorem idle_out (s : State) : (idle s).out = s.out := rfl
@[simp] theorem idle_free (s : State) : (idle s).free = s.free + 1 := rfl

/-! ### tick -/

@[simp] theorem tick_me (s : State) : (tick s).me = s.me := by unfold tick; dsimp only; split <;> rfl
@[simp] theorem tick_onMt (s : State) : (tick s).onMt = s.onMt := by unfold tick; dsimp only; split <;> rfl
@[simp] theorem tick_core (s : State) : (tick s).core = s.core := by unfold tick; dsimp only; split <;> rfl
@[simp] theorem tick_cores (s : State) : (tick s).cores = s.cores := by unfold tick; dsimp only; split <;> rfl
@[simp] theorem tick_ctxs (s : State) : (tick s).ctxs = s.ctxs := by unfold tick; dsimp only; split <;> rfl
@[simp] theorem tick_blocks (s : State) : (tick s).blocks = s.blocks := by unfold tick; dsimp only; split <;> rfl
@[simp] theorem tick_mem (s : State) : (tick s).mem = s.mem := by unfold tick; dsimp only; split <;> rfl
@[simp] theorem tick_poisoned (s : State) : (tick s).poisoned = s.poisoned := by unfold tick; dsimp only; split <;> rfl
@[simp] theorem tick_net (s : State) : (tick s).net = s.net := by unfold tick; dsimp only; split <;> rfl
@[simp] theorem tick_netId (s : State) : (tick s).netId = s.netId := by unfold tick; dsimp only; split <;> rfl
@[simp] theorem tick_pending (s : State) : (tick s).pending = s.pending := by unfold tick; dsimp only; split <;> rfl
@[simp] theorem tick_out (s : State) : (tick s).out = s.out := by unfold tick; dsimp only; split <;> rfl
@[simp] theorem tick_free (s : State) : (tick s).free = s.free + 1 := by unfold tick; dsimp only; split <;> rfl

/-! ### Threads and registers -/

@[simp] theorem thr_setThr (s : State) (t : Thread) : thr (setThr s t) = t := by
  unfold thr setThr
  split <;> simp_all

@[simp] theorem thr_xset (s : State) (r : XReg) (w : Word) : thr (xset s r w) = (thr s).xset r w := thr_setThr s _
@[simp] theorem thr_pset (s : State) (n : PReg) (b : Bool) : thr (pset s n b) = (thr s).pset n b := thr_setThr s _
@[simp] theorem thr_vset (s : State) (r : VReg) (x : VecVal) : thr (vset s r x) = thr s := rfl
@[simp] theorem thr_kset (s : State) (r : KReg) (x : MaskVal) : thr (kset s r x) = thr s := rfl
@[simp] theorem thr_post (s : State) (e : Ev) : thr (post s e) = thr s := rfl
@[simp] theorem thr_setCtx (s : State) (a : Nat) (c : Context) : thr (setCtx s a c) = thr s := rfl
@[simp] theorem thr_setBlock (s : State) (b : Nat) (k : Block) : thr (setBlock s b k) = thr s := rfl
@[simp] theorem thr_setDev (s : State) (d : Device) : thr (setDev s d) = thr s := rfl

@[simp] theorem Thread.xset_pc (t : Thread) (r : XReg) (w : Word) : (t.xset r w).pc = t.pc := by
  unfold Thread.xset; split <;> rfl
@[simp] theorem Thread.pset_pc (t : Thread) (n : PReg) (b : Bool) : (t.pset n b).pc = t.pc := by
  unfold Thread.pset; split <;> rfl
@[simp] theorem Thread.xset_notBefore (t : Thread) (r : XReg) (w : Word) : (t.xset r w).notBefore = t.notBefore := by
  unfold Thread.xset; split <;> rfl
@[simp] theorem Thread.pset_notBefore (t : Thread) (n : PReg) (b : Bool) : (t.pset n b).notBefore = t.notBefore := by
  unfold Thread.pset; split <;> rfl
@[simp] theorem Thread.xset_prompt (t : Thread) (r : XReg) (w : Word) : (t.xset r w).prompt = t.prompt := by
  unfold Thread.xset; split <;> rfl
@[simp] theorem Thread.pset_prompt (t : Thread) (n : PReg) (b : Bool) : (t.pset n b).prompt = t.prompt := by
  unfold Thread.pset; split <;> rfl
@[simp] theorem Thread.xset_parkEnds (t : Thread) (r : XReg) (w : Word) : (t.xset r w).parkEnds = t.parkEnds := by
  unfold Thread.xset; split <;> rfl
@[simp] theorem Thread.pset_parkEnds (t : Thread) (n : PReg) (b : Bool) : (t.pset n b).parkEnds = t.parkEnds := by
  unfold Thread.pset; split <;> rfl
@[simp] theorem Thread.xset_fuseKept (t : Thread) (r : XReg) (w : Word) : (t.xset r w).fuseKept = t.fuseKept := by
  unfold Thread.xset; split <;> rfl
@[simp] theorem Thread.pset_fuseKept (t : Thread) (n : PReg) (b : Bool) : (t.pset n b).fuseKept = t.fuseKept := by
  unfold Thread.pset; split <;> rfl
@[simp] theorem Thread.xset_wait (t : Thread) (r : XReg) (w : Word) : (t.xset r w).wait = t.wait := by
  unfold Thread.xset; split <;> rfl
@[simp] theorem Thread.pset_wait (t : Thread) (n : PReg) (b : Bool) : (t.pset n b).wait = t.wait := by
  unfold Thread.pset; split <;> rfl
@[simp] theorem Thread.xset_lastIssue (t : Thread) (r : XReg) (w : Word) : (t.xset r w).lastIssue = t.lastIssue := by
  unfold Thread.xset; split <;> rfl
@[simp] theorem Thread.pset_lastIssue (t : Thread) (n : PReg) (b : Bool) : (t.pset n b).lastIssue = t.lastIssue := by
  unfold Thread.pset; split <;> rfl

/-- A write to a register other than x0 is what a read finds. -/
theorem Thread.xget_xset_same (t : Thread) (r : XReg) (w : Word) (h : r ≠ 0) : (t.xset r w).xget r = w := by
  simp only [Thread.xget, Thread.xset, if_neg h, Vector.getElem_set_self]

/-- A write leaves every other register. -/
theorem Thread.xget_xset_ne (t : Thread) (r q : XReg) (w : Word) (h : q ≠ r) : (t.xset r w).xget q = t.xget q := by
  unfold Thread.xget Thread.xset
  by_cases hr : r = 0
  · rw [if_pos hr]
  · have hn : r.toNat ≠ q.toNat := fun e => h (BitVec.eq_of_toNat_eq e.symm)
    simp only [if_neg hr, Vector.getElem_set_ne _ _ hn]

/-- x0 reads zero whatever is written. -/
@[simp] theorem Thread.xget_zero (t : Thread) : t.xget 0 = 0 := by simp [Thread.xget]

/-- A write to x0 is discarded. -/
@[simp] theorem Thread.xset_zero (t : Thread) (w : Word) : t.xset 0 w = t := by simp [Thread.xset]

/-- p0 reads true. -/
@[simp] theorem Thread.pget_zero (t : Thread) : t.pget 0 = true := by simp [Thread.pget]

/-- A write to p0 is discarded. -/
@[simp] theorem Thread.pset_zero (t : Thread) (b : Bool) : t.pset 0 b = t := by simp [Thread.pset]

theorem xget_xset_same (s : State) (r : XReg) (w : Word) (h : r ≠ 0) : xget (xset s r w) r = w := by
  rw [xget, thr_xset, Thread.xget_xset_same _ _ _ h]

theorem xget_xset_ne (s : State) (r q : XReg) (w : Word) (h : q ≠ r) : xget (xset s r w) q = xget s q := by
  rw [xget, thr_xset, Thread.xget_xset_ne _ _ _ _ h, xget]

@[simp] theorem vget_vset_same (s : State) (r : VReg) (x : VecVal) : vget (vset s r x) r = x := by
  simp [vget, vset]

theorem vget_vset_ne (s : State) (r q : VReg) (x : VecVal) (h : q ≠ r) : vget (vset s r x) q = vget s q := by
  have hn : r.toNat ≠ q.toNat := fun e => h (BitVec.eq_of_toNat_eq e.symm)
  simp [vget, vset, Vector.getElem_set_ne _ _ hn]

@[simp] theorem kget_kset_same (s : State) (r : KReg) (x : MaskVal) : kget (kset s r x) r = x := by
  simp [kget, kset]

theorem kget_kset_ne (s : State) (r q : KReg) (x : MaskVal) (h : q ≠ r) : kget (kset s r x) q = kget s q := by
  have hn : r.toNat ≠ q.toNat := fun e => h (BitVec.eq_of_toNat_eq e.symm)
  simp [kget, kset, Vector.getElem_set_ne _ _ hn]

/-- The core that was set is the core that is found. -/
@[simp] theorem coreOf_setCore_same (s : State) (k : Core) : coreOf (setCore s s.me k) s.me = k := by
  simp [coreOf, setCore]

end Sys2Proof.Machine
end

