-- ==== Sys2Proof/Laws/Issue.lean ====
section
/-!
SUPPORT. What an issue does around an instruction's effect: one lemma for each way in which the effect can end.
-/

namespace Sys2Proof.Machine

/-- The record of an issue is hidden by `bare`. -/
theorem bare_noteIssue (s : State) (h : Hdr) : bare (noteIssue s h) = bare s := by
  obtain ⟨me, onMt, core, cores, ctxs, blocks, mem, poisoned, dev, net, netId, pending, out, free⟩ := s
  unfold noteIssue
  cases onMt <;> simp only [setThr, thr, Bool.false_eq_true, if_false, if_true] <;> split <;> rfl

/-- The record of an issue keeps the thread's place. -/
theorem pc_noteIssue (s : State) (h : Hdr) :
    (thr (noteIssue s h)).pc = (thr s).pc ∧ (thr (noteIssue s h)).entry = (thr s).entry := by
  obtain ⟨me, onMt, core, cores, ctxs, blocks, mem, poisoned, dev, net, netId, pending, out, free⟩ := s
  cases onMt <;> exact ⟨rfl, rfl⟩

/-- The record of an issue's cycle is hidden by `bare`, and changes three records of its thread alone. -/
theorem noteCycle_cases (s : State) (h : Hdr) :
    bare (noteCycle s h) = bare s ∧
      thr (noteCycle s h) =
        { thr s with lastIssue := (thr (noteCycle s h)).lastIssue, yielded := (thr (noteCycle s h)).yielded, bkptSkip := none } := by
  obtain ⟨me, onMt, core, cores, ctxs, blocks, mem, poisoned, dev, net, netId, pending, out, free⟩ := s
  cases onMt <;> exact ⟨rfl, rfl⟩

/-- The record of whether a waiting instruction ends its block is hidden by `bare`. -/
theorem bare_parkEnds (s : State) (b : Bool) : bare (setThr s { thr s with parkEnds := b }) = bare s := by
  obtain ⟨me, onMt, core, cores, ctxs, blocks, mem, poisoned, dev, net, netId, pending, out, free⟩ := s
  cases onMt <;> rfl

/-- The thread with that record. -/
theorem thr_parkEnds (s : State) (b : Bool) : thr (setThr s { thr s with parkEnds := b }) = { thr s with parkEnds := b } := by
  obtain ⟨me, onMt, core, cores, ctxs, blocks, mem, poisoned, dev, net, netId, pending, out, free⟩ := s
  cases onMt <;> rfl

/-- The step past an instruction is hidden by `bare`. -/
theorem bare_retire (s : State) (w : Nat) : bare (retire s w) = bare s := by
  obtain ⟨me, onMt, core, cores, ctxs, blocks, mem, poisoned, dev, net, netId, pending, out, free⟩ := s
  cases onMt <;> rfl

/-- A transfer is hidden by `bare`. -/
theorem bare_enterAt (s : State) (a : Word) : bare (enterAt s a) = bare s := by
  obtain ⟨me, onMt, core, cores, ctxs, blocks, mem, poisoned, dev, net, netId, pending, out, free⟩ := s
  cases onMt <;> rfl

/-- The clearing of error marks keeps the threads. -/
theorem clearPoison_threads (k : Core) (mt : Bool) (u : Uses) :
    (clearPoison k mt u).ct = k.ct ∧ (clearPoison k mt u).mt = k.mt := by
  unfold clearPoison
  split <;> exact ⟨rfl, rfl⟩

/-- The clearing of error marks is hidden by `bare`. -/
theorem bare_clear (s : State) (u : Uses) : bare { s with core := clearPoison s.core s.onMt u } = bare s := by
  obtain ⟨me, onMt, core, cores, ctxs, blocks, mem, poisoned, dev, net, netId, pending, out, free⟩ := s
  unfold clearPoison
  cases onMt <;> dsimp only <;> split <;> rfl

/-- The clearing of error marks keeps the thread. -/
theorem thr_clear (s : State) (u : Uses) : thr { s with core := clearPoison s.core s.onMt u } = thr s := by
  have h := clearPoison_threads s.core s.onMt u
  unfold thr
  simp [h.1, h.2]

/-- What a retirement, an issue's record and the clearing of error marks change is hidden by `bare`. -/
theorem bare_retired (s : State) (h : Hdr) (u : Uses) (w : Nat) :
    bare (noteIssue (retire { s with core := clearPoison s.core s.onMt u } w) h) = bare s := by
  rw [bare_noteIssue, bare_retire, bare_clear]

/-- The program counter after a retirement. -/
theorem pc_retired (s : State) (h : Hdr) (u : Uses) (w : Nat) :
    (thr (noteIssue (retire { s with core := clearPoison s.core s.onMt u } w) h)).pc =
      (thr s).pc + BitVec.ofNat 64 (8 * w) := by
  rw [(pc_noteIssue _ h).1, retire, thr_setThr, thr_clear, Thread.step]

/-- What a transfer, an issue's record and the clearing of error marks change is hidden by `bare`. -/
theorem bare_entered (s : State) (h : Hdr) (u : Uses) (a : Word) :
    bare (noteIssue (enterAt { s with core := clearPoison s.core s.onMt u } a) h) = bare s := by
  rw [bare_noteIssue, bare_enterAt, bare_clear]

/-- Where a transfer goes. -/
theorem pc_entered (s : State) (h : Hdr) (u : Uses) (a : Word) :
    (thr (noteIssue (enterAt { s with core := clearPoison s.core s.onMt u } a) h)).pc = a ∧
    (thr (noteIssue (enterAt { s with core := clearPoison s.core s.onMt u } a) h)).entry = .header := by
  rw [(pc_noteIssue _ h).1, (pc_noteIssue _ h).2, enterAt, thr_setThr]
  exact ⟨rfl, rfl⟩

/-- The end of a debugger's step is hidden by `bare` and touches no thread. -/
theorem bare_stepDone (s : State) : bare (stepDone s) = bare s ∧ thr (stepDone s) = thr s := by
  obtain ⟨me, onMt, core, cores, ctxs, blocks, mem, poisoned, dev, net, netId, pending, out, free⟩ := s
  unfold stepDone
  cases onMt <;> dsimp only <;> split <;> exact ⟨rfl, rfl⟩

/-- A core that issues alone issues for itself. -/
theorem issueSet_alone {s : State} (h : (issueSet s).length ≤ 1) : issueSet s = [s.me] := by
  unfold issueSet gangOf at *
  split
  · rfl
  · rename_i hm
    rw [if_neg hm] at h
    dsimp only at h ⊢
    split
    · rfl
    · rename_i hl
      rw [if_neg hl, List.length_map] at h
      exact absurd h hl

/-- The thread of the issuing core's number is the issuing thread. -/
theorem threadOf_me (s : State) : threadOf s s.me s.onMt = thr s := by
  unfold threadOf coreOf thr
  simp

/-- The mode check of a core that issues alone is that of its thread. -/
theorem privileged_alone {s : State} {p : Bool} (h3 : (issueSet s).length ≤ 1) (h2 : p = true → (thr s).priv = true) :
    (p && (issueSet s).any fun c => !(threadOf s c s.onMt).priv) = false := by
  rw [issueSet_alone h3, List.any_cons, List.any_nil, threadOf_me]
  cases p
  · rfl
  · simp [h2 rfl]

/-- An instruction that is ready comes to its effect. -/
theorem issueS_ready {inf : Info} {h : Hdr} {u : Uses} {s : State} (body : State → Res) (r : Ready inf h u s)
    (nj : ∀ s1 a, body s ≠ .jump s1 a) : issueS inf h u body s = conclude inf h u s (body s) := by
  obtain ⟨⟨h1, h2, h3, h4, h5, h6⟩, h7, h8⟩ := r
  have hp := privileged_alone h3 h2
  have hf : (if inf.transfer = true then none else badFall s inf.words) = none := by
    cases hq : inf.transfer <;> simp_all
  simp only [issueS, issueOne, h1, hp, h3, h4, h5, h6, h7, hf, Bool.not_true, Bool.false_eq_true, if_false, if_true]

/-- An instruction that is ready and transfers control comes to its effect. -/
theorem issueS_jump {inf : Info} {h : Hdr} {u : Uses} {s s1 : State} {a : Word} (body : State → Res) (r : Ready inf h u s)
    (hb : body s = .jump s1 a) (hh : headerAt s s.me (thr s) a ≠ some false) :
    issueS inf h u body s = conclude inf h u s (.jump s1 a) := by
  obtain ⟨⟨h1, h2, h3, h4, h5, h6⟩, h7, h8⟩ := r
  have hp := privileged_alone h3 h2
  have hf : (if inf.transfer = true then none else badFall s inf.words) = none := by
    cases hq : inf.transfer <;> simp_all
  simp only [issueS, issueOne, h1, hp, h3, h4, h5, h6, h7, hf, hb, Bool.not_true, Bool.false_eq_true, if_false, if_true]
  simp [hh]

/-- The effect completes: the instruction completes. -/
theorem completes_of_done {inf : Info} {h : Hdr} {u : Uses} {i : Instr} {s s1 : State} (body : State → Res)
    (hx : exec i s = issue inf h u body s) (r : Ready inf h u s) (hb : body s = .done s1) (hpc : (thr s1).pc = (thr s).pc) :
    Completes inf.words i s s1 := by
  refine ⟨_, hx, ?_, ?_⟩ <;> rw [issueS_ready body r (by simp [hb]), hb] <;> simp only [conclude]
  · exact bare_retired s1 h u _
  · rw [pc_retired, hpc]

/-- The effect transfers control: the instruction jumps. -/
theorem jumps_of_jump {inf : Info} {h : Hdr} {u : Uses} {i : Instr} {s s1 : State} {a : Word} (body : State → Res)
    (hx : exec i s = issue inf h u body s) (r : Ready inf h u s) (hb : body s = .jump s1 a)
    (hh : headerAt s s.me (thr s) a ≠ some false) : Jumps i s s1 a := by
  refine ⟨_, hx, ?_, ?_⟩ <;> rw [issueS_jump body r hb hh] <;> simp only [conclude]
  · exact bare_entered s1 h u a
  · exact pc_entered s1 h u a

/-- The effect waits in a wait state: the instruction parks. -/
theorem parks_of_park {inf : Info} {h : Hdr} {u : Uses} {i : Instr} {s s1 : State} (body : State → Res)
    (hx : exec i s = issue inf h u body s) (r : Ready inf h u s) (hb : body s = .park s1) (hpc : (thr s1).pc = (thr s).pc)
    (hw : inf.words = 1) : Parks i s s1 := by
  refine ⟨_, hx, ?_, ?_, ?_⟩ <;> rw [issueS_ready body r (by simp [hb]), hb] <;> simp only [conclude, hw]
  · rw [(bare_stepDone _).1, (noteCycle_cases _ h).1, bare_parkEnds]
  · rw [(bare_stepDone _).2, (noteCycle_cases _ h).2, thr_parkEnds]
  · rw [(bare_stepDone _).2, (noteCycle_cases _ h).2, thr_parkEnds, ← hpc]

/-- The effect traps: the instruction takes the trap. -/
theorem traps_of_trap {inf : Info} {h : Hdr} {u : Uses} {i : Instr} {s : State} {c : BitVec 16} {a : Word} (body : State → Res)
    (hx : exec i s = issue inf h u body s) (r : Ready inf h u s) (hb : body s = .trap c a) : Traps i s c a := by
  refine ⟨_, hx, ?_, ?_⟩ <;> rw [issueS_ready body r (by simp [hb]), hb] <;> simp only [conclude]
  · exact (bare_stepDone _).1
  · exact (bare_stepDone _).2

/-- The effect waits: nothing changes. -/
theorem waits_of_wait {inf : Info} {h : Hdr} {u : Uses} {i : Instr} {s : State} (body : State → Res)
    (hx : exec i s = issue inf h u body s) (r : Ready inf h u s) (hb : body s = .wait) : exec i s = .next s := by
  rw [hx, issue, issueS_ready body r (by simp [hb]), hb]; rfl

end Sys2Proof.Machine
end

