-- ==== Sys2Proof/Laws/Lanes.lean ====
section
/-!
SUPPORT. Lanes of vector registers and bits of mask registers: what a register that is built lane by lane holds in each lane
(R164), and what a mask that is built bit by bit holds in each bit.
-/

namespace Sys2Proof.Machine

/-- The number of a list of lanes, lane 0 lowest. -/
theorem lanes_number_lt (z : Nat) (ls : List Nat) :
    ls.foldr (fun x acc => x % 2 ^ z + acc * 2 ^ z) 0 < 2 ^ (z * ls.length) := by
  induction ls with
  | nil => simp
  | cons x xs ih =>
    have h1 : x % 2 ^ z < 2 ^ z := Nat.mod_lt _ (Nat.two_pow_pos z)
    have h2 : 2 ^ (z * (xs.length + 1)) = 2 ^ (z * xs.length) * 2 ^ z := by rw [Nat.mul_add, Nat.mul_one, Nat.pow_add]
    simp only [List.foldr_cons, List.length_cons, h2]
    generalize xs.foldr (fun x acc => x % 2 ^ z + acc * 2 ^ z) 0 = n at *
    have h3 : (n + 1) * 2 ^ z ≤ 2 ^ (z * xs.length) * 2 ^ z := Nat.mul_le_mul_right _ ih
    rw [Nat.add_mul, Nat.one_mul] at h3
    omega

/-- Lane i of the number of a list of lanes. -/
theorem lanes_number_lane (z : Nat) (ls : List Nat) (i : Nat) :
    ls.foldr (fun x acc => x % 2 ^ z + acc * 2 ^ z) 0 / 2 ^ (z * i) % 2 ^ z = ls.getD i 0 % 2 ^ z := by
  induction ls generalizing i with
  | nil => simp
  | cons x xs ih =>
    simp only [List.foldr_cons]
    cases i with
    | zero => simp [Nat.add_mul_mod_self_right]
    | succ k =>
      have h2 : 2 ^ (z * (k + 1)) = 2 ^ z * 2 ^ (z * k) := by rw [Nat.mul_add, Nat.mul_one, Nat.pow_add, Nat.mul_comm]
      have h1 : x % 2 ^ z < 2 ^ z := Nat.mod_lt _ (Nat.two_pow_pos z)
      rw [h2, ← Nat.div_div_eq_div_mul, Nat.add_mul_div_right _ _ (Nat.two_pow_pos z), Nat.div_eq_of_lt h1, Nat.zero_add, ih]
      simp

/-- Lane i of a register built from its lanes. -/
theorem laneBits_ofLanes (z : Nat) (ls : List Nat) (h : z * ls.length ≤ 4096) (i : Nat) :
    laneBits (ofLanes z ls) z i = ls.getD i 0 % 2 ^ z := by
  have h1 := lanes_number_lt z ls
  have h2 : 2 ^ (z * ls.length) ≤ 2 ^ 4096 := Nat.pow_le_pow_right (by decide) h
  rw [laneBits, ofLanes, BitVec.toNat_ofNat, Nat.mod_eq_of_lt (Nat.lt_of_lt_of_le h1 h2), lanes_number_lane]

/-- The widths of the element types. -/
theorem Ty.width_cases (t : Ty) : t.width = 4 ∨ t.width = 8 ∨ t.width = 16 ∨ t.width = 32 := by
  cases t <;> decide

/-- The lanes of a register fill it. -/
theorem Ty.width_mul_lanes (t : Ty) : t.width * (4096 / t.width) = 4096 ∧ 4096 / t.width = t.lanes := by
  cases t <;> decide

/-- Lane i of a register built from the lanes of a type. -/
theorem lane_ofLanes (t : Ty) (ls : List Nat) (h : ls.length ≤ t.lanes) (i : Nat) :
    lane (ofLanes t.width ls) t i = ls.getD i 0 % 2 ^ t.width := by
  have h1 := Ty.width_mul_lanes t
  refine laneBits_ofLanes t.width ls ?_ i
  calc t.width * ls.length ≤ t.width * t.lanes := Nat.mul_le_mul_left _ h
    _ = 4096 := by rw [← h1.2, h1.1]

/-- A lane is a number of the type's width. -/
theorem lane_lt (v : VecVal) (t : Ty) (i : Nat) : lane v t i < 2 ^ t.width := Nat.mod_lt _ (Nat.two_pow_pos _)

/-- Lane i of a register rewritten lane by lane. -/
theorem lane_updLanes (v : VecVal) (t : Ty) (n : Nat) (new : Nat → Option Nat) (i : Nat) (hi : i < t.lanes) :
    lane (updLanes v t.width n new) t i =
      if i < n then (match new i with | some x => x % 2 ^ t.width | none => lane v t i) else lane v t i := by
  have h1 := Ty.width_mul_lanes t
  have hl := lane_lt v t i
  rw [updLanes, lane_ofLanes _ _ (by simp [h1.2]), h1.2]
  simp only [List.getD_eq_getElem?_getD, List.getElem?_map, List.getElem?_range hi, Option.map_some, Option.getD_some]
  by_cases hn : i < n
  · simp only [hn, if_true]
    cases new i with
    | none => exact Nat.mod_eq_of_lt hl
    | some x => rfl
  · simp only [hn, if_false]
    exact Nat.mod_eq_of_lt hl

/-- The number of a mask built bit by bit. -/
theorem mask_number (f : Nat → Bool) (n m i : Nat) :
    ((List.range n).foldr (fun j acc => (if f j then 2 ^ j else 0) + acc) (2 ^ n * m)).testBit i =
      if i < n then f i else m.testBit (i - n) := by
  induction n generalizing m with
  | zero => simp
  | succ k ih =>
    have e : (if f k then 2 ^ k else 0) + 2 ^ (k + 1) * m = 2 ^ k * ((f k).toNat + 2 * m) := by
      cases f k <;> simp [Nat.pow_succ, Nat.mul_add, Nat.mul_assoc]
    rw [List.range_succ, List.foldr_append, List.foldr_cons, List.foldr_nil, e, ih]
    by_cases h1 : i < k
    · simp [h1, Nat.lt_succ_of_lt h1]
    · by_cases h2 : i = k
      · subst h2
        cases f i <;> simp [Nat.testBit_zero, Nat.add_mod]
      · have h3 : ¬ i < k + 1 := by omega
        obtain ⟨d, rfl⟩ : ∃ d, i = k + 1 + d := ⟨i - (k + 1), by omega⟩
        have h4 : k + 1 + d - k = d + 1 := by omega
        have h5 : k + 1 + d - (k + 1) = d := by omega
        have h6 : ((f k).toNat + 2 * m) / 2 = m := by cases f k <;> simp <;> omega
        simp only [h1, h3, if_false, h4, h5, Nat.testBit_succ, h6]

/-- Bit i of a mask built bit by bit. -/
theorem getLsbD_maskOfBits (n : Nat) (hn : n ≤ 1024) (f : Nat → Bool) (i : Nat) :
    (maskOfBits n f).getLsbD i = (decide (i < n) && f i) := by
  have h := mask_number f n 0 i
  simp only [Nat.mul_zero, Nat.zero_testBit] at h
  rw [maskOfBits, BitVec.getLsbD_ofNat, h]
  by_cases h1 : i < n
  · simp [h1, Nat.lt_of_lt_of_le h1 hn]
  · simp [h1]

end Sys2Proof.Machine
end

