-- ==== Sys2Proof/Laws/Shapes.lean ====
section
/-!
SUPPORT. The shapes of instructions: each shared decoder reads what the encoder of its shape writes (Tables 13.1 to 17.1).
-/

set_option Elab.async false
namespace Sys2Proof

theorem hdrOf_mkO {op : BitVec 10} {h : Hdr} {d a b c e : BitVec 6} (hw : h.wf = true) : hdrOf (mkO op h d a b c e) = .ok h :=
  hdrOf_lit _ _ _ _ _ _ _ _ h hw
theorem hdrOf_mkT {op : BitVec 10} {h : Hdr} {ty md : BitVec 4} {d a b c e : BitVec 6} (hw : h.wf = true) :
    hdrOf (mkT op h ty md d a b c e) = .ok h := hdrOf_lit _ _ _ _ _ _ _ _ h hw
theorem hdrOf_mkI {op : BitVec 10} {h : Hdr} {md : BitVec 4} {d a : BitVec 6} {imm : BitVec 18} (hw : h.wf = true) :
    hdrOf (mkI op h md d a imm) = .ok h := hdrOf_lit _ _ _ _ _ _ _ _ h hw
theorem hdrOf_mk0 {op : BitVec 10} {h : Hdr} (hw : h.wf = true) : hdrOf (mk0 op h) = .ok h := hdrOf_lit _ _ _ _ _ _ _ _ h hw
theorem hdrChOf_mkO {op : BitVec 10} {h : Hdr} {d a b c e : BitVec 6} (hw : h.wfCh = true) :
    hdrChOf (mkO op h d a b c e) = .ok h := hdrChOf_lit _ _ _ _ _ _ _ _ h hw
theorem hdrChOf_mkT {op : BitVec 10} {h : Hdr} {ty md : BitVec 4} {d a b c e : BitVec 6} (hw : h.wfCh = true) :
    hdrChOf (mkT op h ty md d a b c e) = .ok h := hdrChOf_lit _ _ _ _ _ _ _ _ h hw
theorem hdrChOf_mkI {op : BitVec 10} {h : Hdr} {md : BitVec 4} {d a : BitVec 6} {imm : BitVec 18} (hw : h.wfCh = true) :
    hdrChOf (mkI op h md d a imm) = .ok h := hdrChOf_lit _ _ _ _ _ _ _ _ h hw

section
variable {op : BitVec 10} {h : Hdr}

theorem dXXX_enc {k} {d a b : XReg} (hw : h.wf = true) : dXXX (mkO op h (xc d) (xc a) (xc b) 0 0) k = .ok (k h d a b) := by
  simp only [dXXX, hdrOf_mkO hw]
  simp [mkO, mk0, need, bind, Except.bind, pure, Except.pure]

theorem dXX_enc {k} {d a : XReg} (hw : h.wf = true) : dXX (mkO op h (xc d) (xc a) 0 0 0) k = .ok (k h d a) := by
  simp only [dXX, hdrOf_mkO hw]
  simp [mkO, mk0, need, bind, Except.bind, pure, Except.pure]

theorem dX_enc {k} {d : XReg} (hw : h.wf = true) : dX (mkO op h (xc d) 0 0 0 0) k = .ok (k h d) := by
  simp only [dX, hdrOf_mkO hw]
  simp [mkO, mk0, need, bind, Except.bind, pure, Except.pure]

theorem dNone_enc {k} (hw : h.wf = true) : dNone (mk0 op h) k = .ok (k h) := by
  simp only [dNone, hdrOf_mk0 hw]
  simp [mk0, need, bind, Except.bind, pure, Except.pure]

theorem mkI_ty {md : BitVec 4} {d a : BitVec 6} {imm : BitVec 18} : (mkI op h md d a imm).ty = 0 := rfl
theorem mkI_md {md : BitVec 4} {d a : BitVec 6} {imm : BitVec 18} : (mkI op h md d a imm).md = md := rfl
theorem mkI_d {md : BitVec 4} {d a : BitVec 6} {imm : BitVec 18} : (mkI op h md d a imm).d = d := rfl
theorem mkI_a {md : BitVec 4} {d a : BitVec 6} {imm : BitVec 18} : (mkI op h md d a imm).a = a := rfl

theorem dXXI_enc {k} {d a : XReg} {imm : BitVec 18} (hw : h.wf = true) :
    dXXI (mkI op h 0 (xc d) (xc a) imm) k = .ok (k h d a imm) := by
  simp only [dXXI, hdrOf_mkI hw, mkI_ty, mkI_md, mkI_d, mkI_a]
  simp [need, bind, Except.bind, pure, Except.pure]

theorem dXXS_enc {k} {d a : XReg} {n : BitVec 6} (hw : h.wf = true) :
    dXXS (mkI op h 0 (xc d) (xc a) (n.setWidth 18)) k = .ok (k h d a n) := by
  simp only [dXXS, hdrOf_mkI hw, mkI_ty, mkI_md, mkI_d, mkI_a]
  have h1 : (n.setWidth 18).toNat < 64 := by simp; omega
  have h2 : (n.setWidth 18).setWidth 6 = n := by simp
  simp only [imm_mkI, h2, h1, need, bind, Except.bind, pure, Except.pure, xOf_xc, decide_true, Bool.and_true, beq_self_eq_true, if_true]

theorem dXI_enc {k} {d : XReg} {imm : BitVec 18} (hw : h.wf = true) : dXI (mkI op h 0 (xc d) 0 imm) k = .ok (k h d imm) := by
  simp only [dXI, hdrOf_mkI hw, mkI_ty, mkI_md, mkI_d, mkI_a]
  simp [need, bind, Except.bind, pure, Except.pure]

theorem dI_enc {k} {imm : BitVec 18} (hw : h.wf = true) : dI (mkI op h 0 0 0 imm) k = .ok (k h imm) := by
  simp only [dI, hdrOf_mkI hw, mkI_ty, mkI_md, mkI_d, mkI_a]
  simp [need, bind, Except.bind, pure, Except.pure]

theorem dVArith_enc {k} {t : Ty} {r : Rnd} {d a : VReg} {b : VX} {e : Option KReg}
    (hw : (h.wf && ((t.inFA || t.inIA) && rndArithOk t r)) = true) :
    dVArith (mkT op h t.code (rndCode r) (vc d) (vc a) (vxc b) 0 (k0c e)) k = .ok (k h t r d a b e) := by
  simp only [Bool.and_eq_true] at hw
  simp only [dVArith, hdrOf_mkT hw.1]
  simp [mkT, mkO, mk0, need, tyOf, accept, bind, Except.bind, pure, Except.pure, rndArith_rndCode t r hw.2.2, hw]

/-- A float type with arithmetic is no integer type. -/
theorem isInt_of_inFA (t : Ty) (h : t.inFA = true) : t.isInt = false := by cases t <;> simp_all [Ty.inFA, Ty.isInt]

/-- A type of VABS that is no float type is an integer type. -/
theorem isInt_of_inAbs (t : Ty) (h : t.inAbs = true) (g : t.inFA = false) : t.isInt = true := by
  cases t <;> simp_all [Ty.inAbs, Ty.inFA, Ty.isInt]

theorem dVFma_enc {k} {t : Ty} {r : Rnd} {d a c : VReg} {b : VX} {e : Option KReg} (hw : (h.wf && t.inFA) = true) :
    dVFma (mkT op h t.code (rndCode r) (vc d) (vc a) (vxc b) (vc c) (k0c e)) k = .ok (k h t r d a b c e) := by
  simp only [Bool.and_eq_true] at hw
  have hr := rndArith_rndCode t r (by simp [rndArithOk, isInt_of_inFA t hw.2])
  simp only [dVFma, hdrOf_mkT hw.1]
  simp [mkT, mkO, mk0, tyOf, accept, bind, Except.bind, pure, Except.pure, hr, hw]

theorem dVVX_enc {k} {t : Ty} {ok : Ty → Bool} {d a : VReg} {b : VX} {e : Option KReg} (hw : (h.wf && ok t) = true) :
    dVVX (mkT op h t.code 0 (vc d) (vc a) (vxc b) 0 (k0c e)) ok k = .ok (k h t d a b e) := by
  simp only [Bool.and_eq_true] at hw
  simp only [dVVX, hdrOf_mkT hw.1]
  simp [mkT, mkO, mk0, tyOf, need, accept, bind, Except.bind, pure, Except.pure, hw]

theorem dVV_enc {k} {t : Ty} {ok : Ty → Bool} {d a : VReg} {e : Option KReg} (hw : (h.wf && ok t) = true) :
    dVV (mkT op h t.code 0 (vc d) (vc a) 0 0 (k0c e)) ok k = .ok (k h t d a e) := by
  simp only [Bool.and_eq_true] at hw
  simp only [dVV, hdrOf_mkT hw.1]
  simp [mkT, mkO, mk0, tyOf, need, accept, bind, Except.bind, pure, Except.pure, hw]

theorem dVAbs_enc {k} {t : Ty} {sat : Bool} {d a : VReg} {e : Option KReg}
    (hw : (h.wf && (t.inAbs && !(sat && t.inFA))) = true) :
    dVAbs (mkT op h t.code (if sat then 8 else 0) (vc d) (vc a) 0 0 (k0c e)) k = .ok (k h t sat d a e) := by
  simp only [Bool.and_eq_true] at hw
  obtain ⟨h1, h2, h3⟩ := hw
  simp only [dVAbs, hdrOf_mkT h1]
  have hi := isInt_of_inAbs t h2
  cases sat <;> simp_all [mkT, mkO, mk0, tyOf, need, accept, bind, Except.bind, pure, Except.pure]

theorem dVWide_enc {k} {t : Ty} {q : Bool} {d a : VReg} {b : VX}
    (hw : (h.wf && ((t.widen q).isSome && decide (d.toNat % (if q then 4 else 2) = 0))) = true) :
    dVWide (mkT op h t.code (flagc q) (vc d) (vc a) (vxc b) 0 0) k = .ok (k h t q d a b) := by
  simp only [Bool.and_eq_true] at hw
  obtain ⟨h1, h2, h3⟩ := hw
  simp only [dVWide, hdrOf_mkT h1]
  simp [mkT, mkO, mk0, tyOf, need, accept, bind, Except.bind, pure, Except.pure, h2]
  cases q <;> simp_all

theorem dVVV_enc {k} {t : Ty} {d a b : VReg} (hw : (h.wf && t.inW8) = true) :
    dVVV (mkT op h t.code 0 (vc d) (vc a) (vc b) 0 0) k = .ok (k h t d a b) := by
  simp only [Bool.and_eq_true] at hw
  simp only [dVVV, hdrOf_mkT hw.1]
  simp [mkT, mkO, mk0, tyOf, need, accept, bind, Except.bind, pure, Except.pure, hw]

theorem dVVK_enc {k} {t : Ty} {d a : VReg} {b : KReg} (hw : (h.wf && t.inW8) = true) :
    dVVK (mkT op h t.code 0 (vc d) (vc a) (kc b) 0 0) k = .ok (k h t d a b) := by
  simp only [Bool.and_eq_true] at hw
  simp only [dVVK, hdrOf_mkT hw.1]
  simp [mkT, mkO, mk0, tyOf, need, accept, bind, Except.bind, pure, Except.pure, hw]

theorem dVX_enc {k} {t : Ty} {ok : Ty → Bool} {d : VReg} {a : XReg} {e : Option KReg} (hw : (h.wf && ok t) = true) :
    dVX (mkT op h t.code 0 (vc d) (xc a) 0 0 (k0c e)) ok k = .ok (k h t d a e) := by
  simp only [Bool.and_eq_true] at hw
  simp only [dVX, hdrOf_mkT hw.1]
  simp [mkT, mkO, mk0, tyOf, need, accept, bind, Except.bind, pure, Except.pure, hw]

theorem dXK_enc {k} {d : XReg} {a : KReg} (hw : h.wf = true) : dXK (mkO op h (xc d) (kc a) 0 0 0) k = .ok (k h d a) := by
  simp only [dXK, hdrOf_mkO hw]
  simp [mkO, mk0, need, bind, Except.bind, pure, Except.pure]

theorem imm8Of_mkI {md : BitVec 4} {d a : BitVec 6} {id : BitVec 8} :
    imm8Of (mkI op h md d a (id.setWidth 18)) = .ok id := by
  have h1 : (id.setWidth 18).toNat < 256 := by simp; omega
  rw [imm8Of, imm_mkI, if_pos h1]
  simp

theorem dId_enc {k} {id : BitVec 8} (hw : h.wf = true) : dId hdrOf (mkI op h 0 0 0 (id.setWidth 18)) k = .ok (k h id) := by
  simp only [dId, hdrOf_mkI hw, mkI_ty, mkI_md, mkI_d, mkI_a, imm8Of_mkI]
  simp [need, bind, Except.bind, pure, Except.pure]

theorem dIdCh_enc {k} {id : BitVec 8} (hw : h.wfCh = true) :
    dId hdrChOf (mkI op h 0 0 0 (id.setWidth 18)) k = .ok (k h id) := by
  simp only [dId, hdrChOf_mkI hw, mkI_ty, mkI_md, mkI_d, mkI_a, imm8Of_mkI]
  simp [need, bind, Except.bind, pure, Except.pure]

theorem dTile_enc {k} {d : TReg} {a : XReg} {id : BitVec 8} (hw : h.wfCh = true) :
    dTile (mkI op h 0 (tc d) (xc a) (id.setWidth 18)) k = .ok (k h d a id) := by
  simp only [dTile, hdrChOf_mkI hw, mkI_ty, mkI_md, mkI_d, mkI_a, imm8Of_mkI]
  simp [need, bind, Except.bind, pure, Except.pure]

theorem dRed_enc {k} {t : Ty} {a b : XReg} {sid : BitVec 4} (hw : (h.wfCh && t.inFA) = true) :
    dRed (mkT op h t.code 0 0 (xc a) (xc b) (sid.setWidth 6) 0) k = .ok (k h t a b sid) := by
  simp only [Bool.and_eq_true] at hw
  simp only [dRed, hdrChOf_mkT hw.1]
  simp [mkT, mkO, mk0, tyOf, need, accept, bind, Except.bind, pure, Except.pure, hw]

theorem dH_enc {k} {a : HReg} (hw : h.wf = true) : dH (mkO op h 0 (hc a) 0 0 0) k = .ok (k h a) := by
  simp only [dH, hdrOf_mkO hw]
  simp [mkO, mk0, need, bind, Except.bind, pure, Except.pure]

theorem dCpy_enc {k} {s1 : Bool} {d a b c : XReg} {e : Option XReg} (hw : (h.wfCh && regNZ e) = true) :
    dCpy (mkT op h 0 (flagc s1) (xc d) (xc a) (xc b) (xc c) (x0c e)) k = .ok (k h s1 d a b c e) := by
  simp only [Bool.and_eq_true] at hw
  simp only [dCpy, hdrChOf_mkT hw.1]
  simp [mkT, mkO, mk0, need, bind, Except.bind, pure, Except.pure, x0Of_x0c e hw.2]

theorem dPin_enc {k} {s1 : Bool} {d a : XReg} {b : Option XReg} (hw : (h.wfCh && regNZ b) = true) :
    dPin (mkT op h 0 (flagc s1) (xc d) (xc a) (x0c b) 0 0) k = .ok (k h s1 d a b) := by
  simp only [Bool.and_eq_true] at hw
  simp only [dPin, hdrChOf_mkT hw.1]
  simp [mkT, mkO, mk0, need, bind, Except.bind, pure, Except.pure, x0Of_x0c b hw.2]

theorem dXW_enc {k} {d : XReg} {wid : BitVec 4} (hw : h.wf = true) :
    dXW (mkO op h (xc d) 0 0 (wid.setWidth 6) 0) k = .ok (k h d wid) := by
  simp only [dXW, hdrOf_mkO hw]
  simp [mkO, mk0, need, bind, Except.bind, pure, Except.pure]

theorem dXXXW_enc {k} {d a b : XReg} {wid : BitVec 4} (hw : h.wf = true) :
    dXXXW (mkO op h (xc d) (xc a) (xc b) (wid.setWidth 6) 0) k = .ok (k h d a b wid) := by
  simp only [dXXXW, hdrOf_mkO hw]
  simp [mkO, mk0, need, bind, Except.bind, pure, Except.pure]

theorem mkI_op {md : BitVec 4} {d a : BitVec 6} {imm : BitVec 18} : (mkI op h md d a imm).op = op := rfl

theorem condFor_code {isInt : Bool} {c : Cond} (hc : (if isInt then c.forInt else c.forFloat) = true) :
    condFor isInt c.code = .ok c := by
  simp only [condFor, condOf_code, bind, Except.bind, need, pure, Except.pure, hc, if_true]

theorem srOf_mkI {md : BitVec 4} {d a : BitVec 6} {sr : SysReg} : srOf (mkI op h md d a sr.code) = .ok sr := by
  simp only [srOf, imm_mkI, sysRegOf_code]

theorem tt_join (tt : BitVec 8) : tt.extractLsb' 4 4 ++ tt.extractLsb' 0 4 = tt := by
  revert tt; decide

theorem tt_small (tt : BitVec 8) : ((tt.extractLsb' 4 4).setWidth 6).toNat < 16 := by
  revert tt; decide

theorem tt_back (tt : BitVec 8) : ((tt.extractLsb' 4 4).setWidth 6 : BitVec 6).setWidth 4 = tt.extractLsb' 4 4 := by
  revert tt; decide

theorem memSzOf_code {f : Fields} {sz : MemSz} (hw : sz.wf = true) (ht : f.ty = (memSzCode sz).1) (hm : f.md = (memSzCode sz).2) :
    memSzOf f = .ok sz := by
  simp only [memSzOf, tyOf, ht, hm]
  cases sz with
  | d => rfl
  | ty t => cases t <;> first | rfl | exact absurd hw (by decide)

theorem ordOf_code {f : Fields} {o : AtomOrd} (hw : o.wf = true) (he : f.e = (ordCode o).1) (hc : f.c = (ordCode o).2) :
    ordOf f = .ok o := by
  simp only [ordOf, he, hc]
  cases o with
  | none => rfl
  | acq s => simp only [ordCode, x1Of_xc s hw]; rfl
  | rel s => simp only [ordCode, x1Of_xc s hw]; rfl
  | ar s => simp only [ordCode, x1Of_xc s hw]; rfl

theorem rnd4Of_code {r : Rnd} (hm : (r.mode != .di) = true) (hs : (!r.sat) = true) : rnd4Of (rndCode r) = .ok r := by
  obtain ⟨m, s⟩ := r
  cases m <;> cases s <;> first | rfl | exact absurd hm (by decide) | exact absurd hs (by decide)

theorem pset_imm (vals en : BitVec 7) :
    ((0#2) ++ en ++ (0#1) ++ vals ++ (0#1)).extractLsb' 1 7 = vals ∧ ((0#2) ++ en ++ (0#1) ++ vals ++ (0#1)).extractLsb' 9 7 = en
      ∧ ((0#2) ++ en ++ (0#1) ++ vals ++ (0#1)).getLsbD 0 = false ∧ ((0#2) ++ en ++ (0#1) ++ vals ++ (0#1)).getLsbD 8 = false
      ∧ ((0#2) ++ en ++ (0#1) ++ vals ++ (0#1)).extractLsb' 16 2 = 0 := by
  refine ⟨?_, ?_, ?_, ?_, ?_⟩
  · apply BitVec.eq_of_getLsbD_eq
    intro i hi
    simp only [BitVec.getLsbD_extractLsb', BitVec.getLsbD_append, hi, decide_true, Bool.true_and]
    rw [if_neg (by omega), if_pos (by omega)]
    congr 1
    omega
  · apply BitVec.eq_of_getLsbD_eq
    intro i hi
    simp only [BitVec.getLsbD_extractLsb', BitVec.getLsbD_append, hi, decide_true, Bool.true_and]
    rw [if_neg (by omega), if_neg (by omega), if_neg (by omega), if_pos (by omega)]
    congr 1
    omega
  · simp only [BitVec.getLsbD_append]; rfl
  · simp only [BitVec.getLsbD_append]; rfl
  · apply BitVec.eq_of_getLsbD_eq
    intro i hi
    simp only [BitVec.getLsbD_extractLsb', BitVec.getLsbD_append, hi, decide_true, Bool.true_and]
    rw [if_neg (by omega), if_neg (by omega), if_neg (by omega), if_neg (by omega)]
    simp

end
end Sys2Proof
end

