-- ==== Sys2Proof/Laws/PerInstr.lean ====
section
/-!
SUPPORT. The statements made instruction by instruction: RoundTrip, that the decoder reads from the fields that the encoder
writes the instruction they were written for, whatever its operands are (R189 to R195, R198, R199).
-/

set_option Elab.async false
set_option linter.unusedSimpArgs false

namespace Sys2Proof.Laws.RoundTrip

open Sys2Proof

/-- The fields of a well-formed instruction decode to it; a device step has no fields. -/
def Statement (i : Instr) : Prop :=
  ∀ (f : Fields) (lit : Option Word), i.wf = true → encodeFields i = some (f, lit) → decodeFields f lit = .ok i

theorem add (h : Hdr) (d a b : XReg) : Statement (.add h d a b) := by
  intro f lit hw he
  cases he
  exact dXXX_enc hw

theorem sub (h : Hdr) (d a b : XReg) : Statement (.sub h d a b) := by
  intro f lit hw he
  cases he
  exact dXXX_enc hw

theorem mul (h : Hdr) (d a b : XReg) : Statement (.mul h d a b) := by
  intro f lit hw he
  cases he
  exact dXXX_enc hw

theorem mulh (h : Hdr) (d a b : XReg) : Statement (.mulh h d a b) := by
  intro f lit hw he
  cases he
  exact dXXX_enc hw

theorem mulhu (h : Hdr) (d a b : XReg) : Statement (.mulhu h d a b) := by
  intro f lit hw he
  cases he
  exact dXXX_enc hw

theorem div (h : Hdr) (d a b : XReg) : Statement (.div h d a b) := by
  intro f lit hw he
  cases he
  exact dXXX_enc hw

theorem divu (h : Hdr) (d a b : XReg) : Statement (.divu h d a b) := by
  intro f lit hw he
  cases he
  exact dXXX_enc hw

theorem rem (h : Hdr) (d a b : XReg) : Statement (.rem h d a b) := by
  intro f lit hw he
  cases he
  exact dXXX_enc hw

theorem remu (h : Hdr) (d a b : XReg) : Statement (.remu h d a b) := by
  intro f lit hw he
  cases he
  exact dXXX_enc hw

theorem and (h : Hdr) (d a b : XReg) : Statement (.and h d a b) := by
  intro f lit hw he
  cases he
  exact dXXX_enc hw

theorem or (h : Hdr) (d a b : XReg) : Statement (.or h d a b) := by
  intro f lit hw he
  cases he
  exact dXXX_enc hw

theorem xor (h : Hdr) (d a b : XReg) : Statement (.xor h d a b) := by
  intro f lit hw he
  cases he
  exact dXXX_enc hw

theorem andn (h : Hdr) (d a b : XReg) : Statement (.andn h d a b) := by
  intro f lit hw he
  cases he
  exact dXXX_enc hw

theorem shl (h : Hdr) (d a b : XReg) : Statement (.shl h d a b) := by
  intro f lit hw he
  cases he
  exact dXXX_enc hw

theorem shr (h : Hdr) (d a b : XReg) : Statement (.shr h d a b) := by
  intro f lit hw he
  cases he
  exact dXXX_enc hw

theorem sar (h : Hdr) (d a b : XReg) : Statement (.sar h d a b) := by
  intro f lit hw he
  cases he
  exact dXXX_enc hw

theorem rotr (h : Hdr) (d a b : XReg) : Statement (.rotr h d a b) := by
  intro f lit hw he
  cases he
  exact dXXX_enc hw

theorem min (h : Hdr) (d a b : XReg) : Statement (.min h d a b) := by
  intro f lit hw he
  cases he
  exact dXXX_enc hw

theorem max (h : Hdr) (d a b : XReg) : Statement (.max h d a b) := by
  intro f lit hw he
  cases he
  exact dXXX_enc hw

theorem minu (h : Hdr) (d a b : XReg) : Statement (.minu h d a b) := by
  intro f lit hw he
  cases he
  exact dXXX_enc hw

theorem maxu (h : Hdr) (d a b : XReg) : Statement (.maxu h d a b) := by
  intro f lit hw he
  cases he
  exact dXXX_enc hw

theorem clz (h : Hdr) (d a : XReg) : Statement (.clz h d a) := by
  intro f lit hw he
  cases he
  exact dXX_enc hw

theorem ctz (h : Hdr) (d a : XReg) : Statement (.ctz h d a) := by
  intro f lit hw he
  cases he
  exact dXX_enc hw

theorem popc (h : Hdr) (d a : XReg) : Statement (.popc h d a) := by
  intro f lit hw he
  cases he
  exact dXX_enc hw

theorem brev (h : Hdr) (d a : XReg) : Statement (.brev h d a) := by
  intro f lit hw he
  cases he
  exact dXX_enc hw

theorem bfx (h : Hdr) (signed : Bool) (d a b c : XReg) : Statement (.bfx h signed d a b c) := by
  intro f lit hw he
  simp only [Instr.wf, Bool.and_eq_true] at hw
  cases he
  simp [decodeFields, decScalar, mk0, mkO, mkT, mkI, hdrOf_lit, hdrChOf_lit, imm_lit, hw, need, accept, tyOf, bind, Except.bind,
    pure, Except.pure]

theorem bfi (h : Hdr) (d a b c e : XReg) : Statement (.bfi h d a b c e) := by
  intro f lit hw he
  simp only [Instr.wf, Bool.and_eq_true] at hw
  cases he
  simp [decodeFields, decScalar, mk0, mkO, mkT, mkI, hdrOf_lit, hdrChOf_lit, imm_lit, hw, need, accept, tyOf, bind, Except.bind,
    pure, Except.pure]

theorem sel (h : Hdr) (d a b : XReg) (c : PReg) : Statement (.sel h d a b c) := by
  intro f lit hw he
  simp only [Instr.wf, Bool.and_eq_true] at hw
  cases he
  simp [decodeFields, decScalar, mk0, mkO, mkT, mkI, hdrOf_lit, hdrChOf_lit, imm_lit, hw, need, accept, tyOf, bind, Except.bind,
    pure, Except.pure]

theorem lea (h : Hdr) (sc : BitVec 3) (d a b : XReg) : Statement (.lea h sc d a b) := by
  intro f lit hw he
  simp only [Instr.wf, Bool.and_eq_true] at hw
  cases he
  have hc : (sc.setWidth 4 : BitVec 4).getLsbD 3 = false ∧ (sc.setWidth 4 : BitVec 4).setWidth 3 = sc := by revert sc; decide
  simp [decodeFields, decScalar, mk0, mkO, mkT, mkI, hdrOf_lit, hdrChOf_lit, imm_lit, hw, hc.1, hc.2, need, accept, tyOf, bind, Except.bind, pure, Except.pure]

theorem cmp (h : Hdr) (cond : Cond) (d : PReg) (a b : XReg) : Statement (.cmp h cond d a b) := by
  intro f lit hw he
  simp only [Instr.wf, Bool.and_eq_true] at hw
  cases he
  simp [decodeFields, decScalar, mk0, mkO, mkT, mkI, hdrOf_lit, hdrChOf_lit, imm_lit, hw, condFor_code (isInt := true) hw.2, need, accept, tyOf, bind, Except.bind, pure, Except.pure]

theorem mov (h : Hdr) (d a : XReg) : Statement (.mov h d a) := by
  intro f lit hw he
  cases he
  exact dXX_enc hw

theorem addi (h : Hdr) (d a : XReg) (imm : BitVec 18) : Statement (.addi h d a imm) := by
  intro f lit hw he
  cases he
  exact dXXI_enc hw

theorem muli (h : Hdr) (d a : XReg) (imm : BitVec 18) : Statement (.muli h d a imm) := by
  intro f lit hw he
  cases he
  exact dXXI_enc hw

theorem andi (h : Hdr) (d a : XReg) (imm : BitVec 18) : Statement (.andi h d a imm) := by
  intro f lit hw he
  cases he
  exact dXXI_enc hw

theorem ori (h : Hdr) (d a : XReg) (imm : BitVec 18) : Statement (.ori h d a imm) := by
  intro f lit hw he
  cases he
  exact dXXI_enc hw

theorem xori (h : Hdr) (d a : XReg) (imm : BitVec 18) : Statement (.xori h d a imm) := by
  intro f lit hw he
  cases he
  exact dXXI_enc hw

theorem shli (h : Hdr) (d a : XReg) (n : BitVec 6) : Statement (.shli h d a n) := by
  intro f lit hw he
  cases he
  exact dXXS_enc hw

theorem shri (h : Hdr) (d a : XReg) (n : BitVec 6) : Statement (.shri h d a n) := by
  intro f lit hw he
  cases he
  exact dXXS_enc hw

theorem sari (h : Hdr) (d a : XReg) (n : BitVec 6) : Statement (.sari h d a n) := by
  intro f lit hw he
  cases he
  exact dXXS_enc hw

theorem rotri (h : Hdr) (d a : XReg) (n : BitVec 6) : Statement (.rotri h d a n) := by
  intro f lit hw he
  cases he
  exact dXXS_enc hw

theorem mini (h : Hdr) (d a : XReg) (imm : BitVec 18) : Statement (.mini h d a imm) := by
  intro f lit hw he
  cases he
  exact dXXI_enc hw

theorem maxi (h : Hdr) (d a : XReg) (imm : BitVec 18) : Statement (.maxi h d a imm) := by
  intro f lit hw he
  cases he
  exact dXXI_enc hw

theorem minui (h : Hdr) (d a : XReg) (imm : BitVec 18) : Statement (.minui h d a imm) := by
  intro f lit hw he
  cases he
  exact dXXI_enc hw

theorem maxui (h : Hdr) (d a : XReg) (imm : BitVec 18) : Statement (.maxui h d a imm) := by
  intro f lit hw he
  cases he
  exact dXXI_enc hw

theorem cmpi (h : Hdr) (cond : Cond) (d : PReg) (a : XReg) (imm : BitVec 18) : Statement (.cmpi h cond d a imm) := by
  intro f lit hw he
  simp only [Instr.wf, Bool.and_eq_true] at hw
  cases he
  simp [decodeFields, decScalar, mk0, mkO, mkT, mkI, hdrOf_lit, hdrChOf_lit, imm_lit, hw, condFor_code (isInt := true) hw.2, need, accept, tyOf, bind, Except.bind, pure, Except.pure]

theorem li (h : Hdr) (d : XReg) (imm : BitVec 18) : Statement (.li h d imm) := by
  intro f lit hw he
  cases he
  exact dXI_enc hw

theorem liw (h : Hdr) (d : XReg) (lit : Word) : Statement (.liw h d lit) := by
  intro f lit hw he
  simp only [Instr.wf, Bool.and_eq_true] at hw
  cases he
  simp [decodeFields, decScalar, mk0, mkO, mkT, mkI, hdrOf_lit, hdrChOf_lit, imm_lit, hw, need, accept, tyOf, bind, Except.bind,
    pure, Except.pure]

theorem plog (h : Hdr) (d a b c : PReg) (tt : BitVec 8) : Statement (.plog h d a b c tt) := by
  intro f lit hw he
  cases he
  show (do
    let h ← hdrOf (mkT _ h _ _ _ _ _ _ _)
    need (_ && decide ((pc d).toNat < 8) && decide ((pc a).toNat < 8) && decide ((pc b).toNat < 8) &&
      decide ((pc c).toNat < 8) && decide (((tt.extractLsb' 4 4).setWidth 6).toNat < 16))
    return Instr.plog h ((pc d).setWidth 3) ((pc a).setWidth 3) ((pc b).setWidth 3) ((pc c).setWidth 3)
      (((tt.extractLsb' 4 4).setWidth 6 : BitVec 6).setWidth 4 ++ tt.extractLsb' 0 4)) = _
  rw [hdrOf_mkT hw, tt_back, tt_join, decide_eq_true (tt_small tt)]
  simp only [pc_small, pc_back]
  rfl

theorem pset (h : Hdr) (vals en : BitVec 7) : Statement (.pset h vals en) := by
  intro f lit hw he
  cases he
  obtain ⟨h1, h2, h3, h4, h5⟩ := pset_imm vals en
  have hi : ∀ x : BitVec 18, (mkI 0x043 h 0 0 0 x).imm = x := fun _ => imm_mkI _ _ _ _ _ _
  show (do
    let h ← hdrOf (mkI 0x043 h _ _ _ _)
    need (_ && !(mkI 0x043 h 0 0 0 _).imm.getLsbD 0 && !(mkI 0x043 h 0 0 0 _).imm.getLsbD 8 &&
      (mkI 0x043 h 0 0 0 _).imm.extractLsb' 16 2 == 0)
    return Instr.pset h ((mkI 0x043 _ 0 0 0 _).imm.extractLsb' 1 7) ((mkI 0x043 _ 0 0 0 _).imm.extractLsb' 9 7)) = _
  rw [hdrOf_mkI hw]
  simp only [bind, Except.bind]
  rw [hi, h1, h2, h3, h4, h5]
  rfl

theorem br (h : Hdr) (imm : BitVec 18) : Statement (.br h imm) := by
  intro f lit hw he
  cases he
  exact dI_enc hw

theorem brx (h : Hdr) (a : XReg) : Statement (.brx h a) := by
  intro f lit hw he
  simp only [Instr.wf, Bool.and_eq_true] at hw
  cases he
  simp [decodeFields, decScalar, mk0, mkO, mkT, mkI, hdrOf_lit, hdrChOf_lit, imm_lit, hw, need, accept, tyOf, bind, Except.bind,
    pure, Except.pure]

theorem call (h : Hdr) (d : XReg) (imm : BitVec 18) : Statement (.call h d imm) := by
  intro f lit hw he
  cases he
  exact dXI_enc hw

theorem callx (h : Hdr) (d a : XReg) : Statement (.callx h d a) := by
  intro f lit hw he
  cases he
  exact dXX_enc hw

theorem ret (h : Hdr) (a : XReg) : Statement (.ret h a) := by
  intro f lit hw he
  simp only [Instr.wf, Bool.and_eq_true] at hw
  cases he
  simp [decodeFields, decScalar, mk0, mkO, mkT, mkI, hdrOf_lit, hdrChOf_lit, imm_lit, hw, need, accept, tyOf, bind, Except.bind,
    pure, Except.pure]

theorem loop (h : Hdr) (d : XReg) (imm : BitVec 18) : Statement (.loop h d imm) := by
  intro f lit hw he
  cases he
  exact dXI_enc hw

theorem endTask (h : Hdr) : Statement (.endTask h) := by
  intro f lit hw he
  cases he
  exact dNone_enc hw

theorem nop (h : Hdr) : Statement (.nop h) := by
  intro f lit hw he
  cases he
  exact dNone_enc hw

theorem fuse (h : Hdr) (mask : BitVec 8) : Statement (.fuse h mask) := by
  intro f lit hw he
  cases he
  exact dId_enc hw

theorem split (h : Hdr) : Statement (.split h) := by
  intro f lit hw he
  cases he
  exact dNone_enc hw

theorem sleep (h : Hdr) (d a : XReg) : Statement (.sleep h d a) := by
  intro f lit hw he
  cases he
  exact dXX_enc hw

theorem trap (h : Hdr) (imm : BitVec 18) : Statement (.trap h imm) := by
  intro f lit hw he
  cases he
  exact dI_enc hw

theorem tret (h : Hdr) : Statement (.tret h) := by
  intro f lit hw he
  cases he
  exact dNone_enc hw

theorem srd (h : Hdr) (d : XReg) (sr : SysReg) : Statement (.srd h d sr) := by
  intro f lit hw he
  simp only [Instr.wf, Bool.and_eq_true] at hw
  cases he
  simp [decodeFields, decScalar, mkI_op, mkI_ty, mkI_md, mkI_d, mkI_a, imm8Of_mkI, srOf_mkI, hdrOf_mkI, hw, need, accept, tyOf, bind, Except.bind, pure, Except.pure]

theorem swr (h : Hdr) (a : XReg) (sr : SysReg) : Statement (.swr h a sr) := by
  intro f lit hw he
  simp only [Instr.wf, Bool.and_eq_true] at hw
  cases he
  simp [decodeFields, decScalar, mkI_op, mkI_ty, mkI_md, mkI_d, mkI_a, imm8Of_mkI, srOf_mkI, hdrOf_mkI, hw, need, accept, tyOf, bind, Except.bind, pure, Except.pure]

theorem sxch (h : Hdr) (d a : XReg) (sr : SysReg) : Statement (.sxch h d a sr) := by
  intro f lit hw he
  simp only [Instr.wf, Bool.and_eq_true] at hw
  cases he
  simp [decodeFields, decScalar, mkI_op, mkI_ty, mkI_md, mkI_d, mkI_a, imm8Of_mkI, srOf_mkI, hdrOf_mkI, hw, need, accept, tyOf, bind, Except.bind, pure, Except.pure]

theorem bkpt (h : Hdr) (imm : BitVec 18) : Statement (.bkpt h imm) := by
  intro f lit hw he
  cases he
  exact dI_enc hw

theorem time (h : Hdr) (d : XReg) : Statement (.time h d) := by
  intro f lit hw he
  cases he
  exact dX_enc hw

theorem cyc (h : Hdr) (d : XReg) : Statement (.cyc h d) := by
  intro f lit hw he
  cases he
  exact dX_enc hw

theorem vadd (h : Hdr) (ty : Ty) (r : Rnd) (d a : VReg) (b : VX) (e : Option KReg) : Statement (.vadd h ty r d a b e) := by
  intro f lit hw he
  cases he
  exact dVArith_enc hw

theorem vsub (h : Hdr) (ty : Ty) (r : Rnd) (d a : VReg) (b : VX) (e : Option KReg) : Statement (.vsub h ty r d a b e) := by
  intro f lit hw he
  cases he
  exact dVArith_enc hw

theorem vmul (h : Hdr) (ty : Ty) (r : Rnd) (d a : VReg) (b : VX) (e : Option KReg) : Statement (.vmul h ty r d a b e) := by
  intro f lit hw he
  cases he
  exact dVArith_enc hw

theorem vfma (h : Hdr) (ty : Ty) (r : Rnd) (d a : VReg) (b : VX) (c : VReg) (e : Option KReg) : Statement (.vfma h ty r d a b c e) := by
  intro f lit hw he
  cases he
  exact dVFma_enc hw

theorem vfms (h : Hdr) (ty : Ty) (r : Rnd) (d a : VReg) (b : VX) (c : VReg) (e : Option KReg) : Statement (.vfms h ty r d a b c e) := by
  intro f lit hw he
  cases he
  exact dVFma_enc hw

theorem vfnma (h : Hdr) (ty : Ty) (r : Rnd) (d a : VReg) (b : VX) (c : VReg) (e : Option KReg) : Statement (.vfnma h ty r d a b c e) := by
  intro f lit hw he
  cases he
  exact dVFma_enc hw

theorem vmin (h : Hdr) (ty : Ty) (d a : VReg) (b : VX) (e : Option KReg) : Statement (.vmin h ty d a b e) := by
  intro f lit hw he
  cases he
  exact dVVX_enc (ok := (fun t => t.inFA || t.inIA)) hw

theorem vmax (h : Hdr) (ty : Ty) (d a : VReg) (b : VX) (e : Option KReg) : Statement (.vmax h ty d a b e) := by
  intro f lit hw he
  cases he
  exact dVVX_enc (ok := (fun t => t.inFA || t.inIA)) hw

theorem vabs (h : Hdr) (ty : Ty) (sat : Bool) (d a : VReg) (e : Option KReg) : Statement (.vabs h ty sat d a e) := by
  intro f lit hw he
  cases he
  exact dVAbs_enc hw

theorem vneg (h : Hdr) (ty : Ty) (sat : Bool) (d a : VReg) (e : Option KReg) : Statement (.vneg h ty sat d a e) := by
  intro f lit hw he
  cases he
  exact dVAbs_enc hw

theorem vcpys (h : Hdr) (ty : Ty) (d a : VReg) (b : VX) (e : Option KReg) : Statement (.vcpys h ty d a b e) := by
  intro f lit hw he
  cases he
  exact dVVX_enc (ok := Ty.inFA) hw

theorem vand (h : Hdr) (ty : Ty) (d a : VReg) (b : VX) (e : Option KReg) : Statement (.vand h ty d a b e) := by
  intro f lit hw he
  cases he
  exact dVVX_enc (ok := Ty.inLogic) hw

theorem vor (h : Hdr) (ty : Ty) (d a : VReg) (b : VX) (e : Option KReg) : Statement (.vor h ty d a b e) := by
  intro f lit hw he
  cases he
  exact dVVX_enc (ok := Ty.inLogic) hw

theorem vxor (h : Hdr) (ty : Ty) (d a : VReg) (b : VX) (e : Option KReg) : Statement (.vxor h ty d a b e) := by
  intro f lit hw he
  cases he
  exact dVVX_enc (ok := Ty.inLogic) hw

theorem vnot (h : Hdr) (ty : Ty) (d a : VReg) (e : Option KReg) : Statement (.vnot h ty d a e) := by
  intro f lit hw he
  cases he
  exact dVV_enc (ok := Ty.inLogic) hw

theorem vshl (h : Hdr) (ty : Ty) (d a : VReg) (b : VX) (e : Option KReg) : Statement (.vshl h ty d a b e) := by
  intro f lit hw he
  cases he
  exact dVVX_enc (ok := Ty.inIA) hw

theorem vshr (h : Hdr) (ty : Ty) (d a : VReg) (b : VX) (e : Option KReg) : Statement (.vshr h ty d a b e) := by
  intro f lit hw he
  cases he
  exact dVVX_enc (ok := Ty.inIA) hw

theorem vsar (h : Hdr) (ty : Ty) (d a : VReg) (b : VX) (e : Option KReg) : Statement (.vsar h ty d a b e) := by
  intro f lit hw he
  cases he
  exact dVVX_enc (ok := Ty.inIA) hw

theorem vcmp (h : Hdr) (ty : Ty) (cond : Cond) (d : KReg) (a : VReg) (b : VX) (e : Option KReg) : Statement (.vcmp h ty cond d a b e) := by
  intro f lit hw he
  simp only [Instr.wf, Bool.and_eq_true] at hw
  cases he
  have hc : (if ty.isInt then cond.forInt else cond.forFloat) = true := by
    obtain ⟨_, h2⟩ := hw
    revert h2; cases ty <;> cases cond <;> decide
  have hf : ty.inFA = true ∨ ty.inIA = true := by
    obtain ⟨_, h2⟩ := hw
    revert h2; cases ty <;> cases cond <;> decide
  simp [decodeFields, decVector, mk0, mkO, mkT, mkI, hdrOf_lit, hdrChOf_lit, imm_lit, hw, condFor_code hc, hf, need, accept, tyOf, bind, Except.bind, pure, Except.pure]

theorem vsel (h : Hdr) (ty : Ty) (d a b : VReg) (c : KReg) : Statement (.vsel h ty d a b c) := by
  intro f lit hw he
  simp only [Instr.wf, Bool.and_eq_true] at hw
  cases he
  simp [decodeFields, decVector, mk0, mkO, mkT, mkI, hdrOf_lit, hdrChOf_lit, imm_lit, hw, need, accept, tyOf, bind, Except.bind,
    pure, Except.pure]

theorem vcvt (h : Hdr) (ty src : Ty) (r : Rnd) (d a : VReg) (e : Option KReg) : Statement (.vcvt h ty src r d a e) := by
  intro f lit hw he
  simp only [Instr.wf, Bool.and_eq_true] at hw
  cases he
  simp [decodeFields, decVector, mk0, mkO, mkT, mkI, hdrOf_lit, hdrChOf_lit, imm_lit, hw, need, accept, tyOf, bind, Except.bind,
    pure, Except.pure]

theorem vwadd (h : Hdr) (ty : Ty) (q : Bool) (d a : VReg) (b : VX) : Statement (.vwadd h ty q d a b) := by
  intro f lit hw he
  cases he
  exact dVWide_enc hw

theorem vwmul (h : Hdr) (ty : Ty) (q : Bool) (d a : VReg) (b : VX) : Statement (.vwmul h ty q d a b) := by
  intro f lit hw he
  cases he
  exact dVWide_enc hw

theorem vwfma (h : Hdr) (ty : Ty) (q : Bool) (d a : VReg) (b : VX) : Statement (.vwfma h ty q d a b) := by
  intro f lit hw he
  cases he
  exact dVWide_enc hw

theorem vnrw (h : Hdr) (ty src : Ty) (r : Rnd) (d a : VReg) : Statement (.vnrw h ty src r d a) := by
  intro f lit hw he
  simp only [Instr.wf, Bool.and_eq_true] at hw
  cases he
  simp [decodeFields, decVector, mk0, mkO, mkT, mkI, hdrOf_lit, hdrChOf_lit, imm_lit, hw, need, accept, tyOf, bind, Except.bind,
    pure, Except.pure]

theorem vexpr (h : Hdr) (ty : Ty) (r : Rnd) (d : VReg) (a b c e : Option VReg) (lit : Word) : Statement (.vexpr h ty r d a b c e lit) := by
  intro f lit hw he
  simp only [Instr.wf, Bool.and_eq_true] at hw
  cases he
  obtain ⟨hh, ht, hx⟩ := hw
  have v0c_ne : ∀ x : Option VReg, (v0c x != 0) = x.isSome := by
    intro x
    cases x with
    | none => rfl
    | some r => revert r; decide
  have hr := rndArith_rndCode ty r (by simp [rndArithOk, isInt_of_inFA ty ht])
  show (do
    let h ← hdrOf (mkT 0x0A0 h _ _ _ _ _ _ _)
    let t ← tyOf (mkT 0x0A0 _ ty.code _ _ _ _ _ _)
    let r ← rndArith t (rndCode r)
    match vexprDepth lit r [v0c a != 0, v0c b != 0, v0c c != 0, v0c e != 0] with
      | none => .error .reservedField
      | some depth =>
        accept t.inFA
        let d ← vOf (vc d)
        accept (depth == 1 || !d.getLsbD 0)
        return Instr.vexpr h t r d (← v0Of (v0c a)) (← v0Of (v0c b)) (← v0Of (v0c c)) (← v0Of (v0c e)) lit) = _
  simp only [vexprWf] at hx
  rw [hdrOf_mkT hh]
  simp only [tyOf, mkT, ofCode_code, hr, bind, Except.bind, v0c_ne]
  cases hv : vexprDepth lit r [a.isSome, b.isSome, c.isSome, e.isSome] with
  | none => rw [hv] at hx; exact absurd hx Bool.false_ne_true
  | some depth =>
    rw [hv] at hx
    simp only [vOf_vc, v0Of_v0c, accept, hx, ht, if_true, pure, Except.pure]

theorem vsfu (h : Hdr) (ty : Ty) (r : Rnd) (fn : Fn) (d a : VReg) (e : Option KReg) : Statement (.vsfu h ty r fn d a e) := by
  intro f lit hw he
  simp only [Instr.wf, Bool.and_eq_true] at hw
  cases he
  simp [decodeFields, decVector, mk0, mkO, mkT, mkI, hdrOf_lit, hdrChOf_lit, imm_lit, hw, rnd4Of_code hw.2.1.2 hw.2.2, isInt_of_inFA ty hw.2.1.1, need, accept,
    tyOf, bind, Except.bind, pure, Except.pure]

theorem vrsum (h : Hdr) (ty src : Ty) (r : Rnd) (d a : VReg) (c : Option VReg) (e : Option KReg) : Statement (.vrsum h ty src r d a c e) := by
  intro f lit hw he
  simp only [Instr.wf, Bool.and_eq_true] at hw
  obtain ⟨h1, h2, h3⟩ := hw
  cases he
  have hm : (if ty.isInt then rndCode r == 0 else r.mode != .di) = true := by
    revert h3
    split
    · intro h; rw [eq_of_beq h]; rfl
    · exact id
  have key : ∀ g : Fields, g.op = 0x0A4 → hdrOf g = .ok h → g.ty = ty.code → g.b = src.code.setWidth 6 → g.md = rndCode r →
      g.d = vc d → g.a = vc a → g.c = v0c c → g.e = k0c e → decodeFields g none = .ok (.vrsum h ty src r d a c e) := by
    intro g e1 e2 e3 e4 e5 e6 e7 e8 e9
    simp only [decodeFields, decVector, e1, e2, e4, e5, e6, e7, e8, e9, tyOf, e3, ofCode_code, typeField_code, rndOf_rndCode, bind,
      Except.bind, need, hm, accept, h2, if_true, vOf_vc, v0Of_v0c, k0Of_k0c, pure, Except.pure]
    rfl
  exact key _ rfl (hdrOf_lit _ _ _ _ _ _ _ _ h h1) rfl rfl rfl rfl rfl rfl rfl

theorem vrmax (h : Hdr) (ty : Ty) (d a : VReg) (e : Option KReg) : Statement (.vrmax h ty d a e) := by
  intro f lit hw he
  cases he
  exact dVV_enc (ok := (fun t => t.inFA || t.inIA)) hw

theorem vrmin (h : Hdr) (ty : Ty) (d a : VReg) (e : Option KReg) : Statement (.vrmin h ty d a e) := by
  intro f lit hw he
  cases he
  exact dVV_enc (ok := (fun t => t.inFA || t.inIA)) hw

theorem vscan (h : Hdr) (ty : Ty) (r : Rnd) (d a : VReg) (e : Option KReg) : Statement (.vscan h ty r d a e) := by
  intro f lit hw he
  simp only [Instr.wf, Bool.and_eq_true] at hw
  cases he
  simp [decodeFields, decVector, mk0, mkO, mkT, mkI, hdrOf_lit, hdrChOf_lit, imm_lit, hw, rndArith_rndCode ty r hw.2.2, need, accept, tyOf, bind, Except.bind, pure, Except.pure]

theorem vperm (h : Hdr) (ty : Ty) (d a b : VReg) : Statement (.vperm h ty d a b) := by
  intro f lit hw he
  cases he
  exact dVVV_enc hw

theorem vshuf (h : Hdr) (ty : Ty) (op : Shuf) (d a : VReg) : Statement (.vshuf h ty op d a) := by
  intro f lit hw he
  simp only [Instr.wf, Bool.and_eq_true] at hw
  cases he
  cases op <;>
    simp [decodeFields, decVector, mk0, mkO, mkT, hdrOf_lit, hw, shufCode, need, accept, tyOf, bind, Except.bind, pure, Except.pure]

theorem vsplat (h : Hdr) (ty : Ty) (d : VReg) (a : XReg) (e : Option KReg) : Statement (.vsplat h ty d a e) := by
  intro f lit hw he
  cases he
  exact dVX_enc (ok := fun _ => true) (by rw [Bool.and_true]; exact hw)

theorem viota (h : Hdr) (ty : Ty) (d : VReg) (a : XReg) (e : Option KReg) : Statement (.viota h ty d a e) := by
  intro f lit hw he
  cases he
  exact dVX_enc (ok := Ty.inIA) hw

theorem vextr (h : Hdr) (ty : Ty) (d : XReg) (a : VReg) (b : XReg) : Statement (.vextr h ty d a b) := by
  intro f lit hw he
  simp only [Instr.wf, Bool.and_eq_true] at hw
  cases he
  simp [decodeFields, decVector, mk0, mkO, mkT, mkI, hdrOf_lit, hdrChOf_lit, imm_lit, hw, need, accept, tyOf, bind, Except.bind,
    pure, Except.pure]

theorem vinsr (h : Hdr) (ty : Ty) (d : VReg) (a b : XReg) : Statement (.vinsr h ty d a b) := by
  intro f lit hw he
  simp only [Instr.wf, Bool.and_eq_true] at hw
  cases he
  simp [decodeFields, decVector, mk0, mkO, mkT, mkI, hdrOf_lit, hdrChOf_lit, imm_lit, hw, need, accept, tyOf, bind, Except.bind,
    pure, Except.pure]

theorem vmov (h : Hdr) (ty : Ty) (d a : VReg) (e : Option KReg) : Statement (.vmov h ty d a e) := by
  intro f lit hw he
  cases he
  exact dVV_enc (ok := fun _ => true) (by rw [Bool.and_true]; exact hw)

theorem vcprs (h : Hdr) (ty : Ty) (d a : VReg) (b : KReg) : Statement (.vcprs h ty d a b) := by
  intro f lit hw he
  cases he
  exact dVVK_enc hw

theorem vexpd (h : Hdr) (ty : Ty) (d a : VReg) (b : KReg) : Statement (.vexpd h ty d a b) := by
  intro f lit hw he
  cases he
  exact dVVK_enc hw

theorem klog (h : Hdr) (d a b c : KReg) (tt : BitVec 8) : Statement (.klog h d a b c tt) := by
  intro f lit hw he
  cases he
  show (do
    let h ← hdrOf (mkT _ h _ _ _ _ _ _ _)
    need (_ && decide (((tt.extractLsb' 4 4).setWidth 6).toNat < 16))
    return Instr.klog h (← kOf (kc d)) (← kOf (kc a)) (← kOf (kc b)) (← kOf (kc c))
      (((tt.extractLsb' 4 4).setWidth 6 : BitVec 6).setWidth 4 ++ tt.extractLsb' 0 4)) = _
  rw [hdrOf_mkT hw, tt_back, tt_join, decide_eq_true (tt_small tt)]
  simp only [kOf_kc]
  rfl

theorem kpop (h : Hdr) (d : XReg) (a : KReg) : Statement (.kpop h d a) := by
  intro f lit hw he
  cases he
  exact dXK_enc hw

theorem kfirst (h : Hdr) (d : XReg) (a : KReg) : Statement (.kfirst h d a) := by
  intro f lit hw he
  cases he
  exact dXK_enc hw

theorem vgqd (h : Hdr) (ty : Ty) (r : Rnd) (d a : VReg) (b c : XReg) (e : Option KReg) : Statement (.vgqd h ty r d a b c e) := by
  intro f lit hw he
  simp only [Instr.wf, Bool.and_eq_true] at hw
  have hr := rndArith_rndCode ty r (by simp [rndArithOk, isInt_of_inFA ty hw.2])
  cases he
  simp [decodeFields, decVector, mk0, mkO, mkT, mkI, hdrOf_lit, hdrChOf_lit, imm_lit, hw, hr, need, accept, tyOf, bind, Except.bind,
    pure, Except.pure]

theorem vgqe (h : Hdr) (ty : Ty) (op : GqeOp) (d a : VReg) (b c : XReg) : Statement (.vgqe h ty op d a b c) := by
  intro f lit hw he
  simp only [Instr.wf, Bool.and_eq_true] at hw
  cases he
  cases op with
  | given => simp [decodeFields, decVector, mk0, mkO, mkT, hdrOf_lit, hw, gqeCode, flagOf, need, accept, tyOf, bind, Except.bind, pure,
      Except.pure]
  | fit o =>
    have ho : regNZ o = true := by
      cases o with
      | none => rfl
      | some r => exact hw.2.2
    simp [decodeFields, decVector, mk0, mkO, mkT, hdrOf_lit, hw, gqeCode, flagOf, x0Of_x0c o ho, need, accept, tyOf, bind, Except.bind,
      pure, Except.pure]

theorem vrng (h : Hdr) (ty : Ty) (d : VReg) (a b : XReg) (e : Option KReg) : Statement (.vrng h ty d a b e) := by
  intro f lit hw he
  simp only [Instr.wf, Bool.and_eq_true] at hw
  cases he
  simp [decodeFields, decVector, mk0, mkO, mkT, mkI, hdrOf_lit, hdrChOf_lit, imm_lit, hw, need, accept, tyOf, bind, Except.bind,
    pure, Except.pure]

theorem vdot4 (h : Hdr) (ty : Ty) (r : Rnd) (d a b : VReg) (c : Option VReg) : Statement (.vdot4 h ty r d a b c) := by
  intro f lit hw he
  simp only [Instr.wf, Bool.and_eq_true] at hw
  cases he
  have hm : ty.isInt = false ∨ rndCode r = 0#4 := by
    have := hw.2.2
    simp only [Bool.or_eq_true, Bool.not_eq_true', beq_iff_eq] at this
    exact this.imp id (fun e => by rw [e]; rfl)
  simp [decodeFields, decVector, mk0, mkO, mkT, mkI, hdrOf_lit, hdrChOf_lit, imm_lit, hw, hm, need, accept, tyOf, bind, Except.bind, pure, Except.pure]

theorem vclass (h : Hdr) (ty : Ty) (d : KReg) (a : VReg) (imm : BitVec 9) : Statement (.vclass h ty d a imm) := by
  intro f lit hw he
  simp only [Instr.wf, Bool.and_eq_true] at hw
  cases he
  have h1 : (imm.setWidth 18).toNat < 512 := by
    rw [BitVec.toNat_setWidth]
    have := imm.isLt
    omega
  have h2 : (imm.setWidth 18).setWidth 9 = imm := by simp
  have key : ∀ g : Fields, g.op = 0x0BC → hdrOf g = .ok h → g.ty = ty.code → g.md = 0 → g.d = kc d → g.a = vc a →
      g.imm = imm.setWidth 18 → decodeFields g none = .ok (.vclass h ty d a imm) := by
    intro g e1 e2 e3 e4 e5 e6 e7
    simp only [decodeFields, decVector, e1, e2, e4, e5, e6, e7, tyOf, e3, ofCode_code, kOf_kc, vOf_vc, h2, decide_eq_true h1, accept,
      hw.2, need, bind, Except.bind, pure, Except.pure]
    rfl
  exact key _ rfl (hdrOf_lit _ _ _ _ _ _ _ _ h hw.1) rfl rfl rfl rfl (imm_mkI 0x0BC h 0 (kc d) (vc a) (imm.setWidth 18))

theorem tdld (h : Hdr) (id : BitVec 8) : Statement (.tdld h id) := by
  intro f lit hw he
  cases he
  exact dIdCh_enc hw

theorem tdst (h : Hdr) (a : XReg) (id : BitVec 8) : Statement (.tdst h a id) := by
  intro f lit hw he
  simp only [Instr.wf, Bool.and_eq_true] at hw
  cases he
  simp [decodeFields, decMatrix, mkI_op, mkI_ty, mkI_md, mkI_d, mkI_a, imm8Of_mkI, srOf_mkI, hdrChOf_mkI, hw, need, accept, tyOf, bind, Except.bind, pure, Except.pure]

theorem tdset (h : Hdr) (fld : TdField) (a : XReg) (id : BitVec 8) : Statement (.tdset h fld a id) := by
  intro f lit hw he
  cases he
  cases fld <;>
    simp [decodeFields, decMatrix, mkI_op, mkI_ty, mkI_md, mkI_d, mkI_a, imm8Of_mkI, hdrOf_mkI hw, tdCode, need, bind,
      Except.bind, pure, Except.pure]

theorem tdinv (h : Hdr) (id : BitVec 8) : Statement (.tdinv h id) := by
  intro f lit hw he
  cases he
  exact dId_enc hw

theorem tld (h : Hdr) (d : TReg) (a : XReg) (id : BitVec 8) : Statement (.tld h d a id) := by
  intro f lit hw he
  cases he
  exact dTile_enc hw

theorem tst (h : Hdr) (d : TReg) (a : XReg) (id : BitVec 8) : Statement (.tst h d a id) := by
  intro f lit hw he
  cases he
  exact dTile_enc hw

theorem tzero (h : Hdr) (d : TReg) : Statement (.tzero h d) := by
  intro f lit hw he
  simp only [Instr.wf, Bool.and_eq_true] at hw
  cases he
  simp [decodeFields, decMatrix, mk0, mkO, mkT, mkI, hdrOf_lit, hdrChOf_lit, imm_lit, hw, need, accept, tyOf, bind, Except.bind,
    pure, Except.pure]

theorem ttrn (h : Hdr) (d a : TReg) : Statement (.ttrn h d a) := by
  intro f lit hw he
  simp only [Instr.wf, Bool.and_eq_true] at hw
  cases he
  simp [decodeFields, decMatrix, mk0, mkO, mkT, mkI, hdrOf_lit, hdrChOf_lit, imm_lit, hw, need, accept, tyOf, bind, Except.bind,
    pure, Except.pure]

theorem tcmp (h : Hdr) (d a b : TReg) : Statement (.tcmp h d a b) := by
  intro f lit hw he
  simp only [Instr.wf, Bool.and_eq_true] at hw
  cases he
  simp [decodeFields, decMatrix, mk0, mkO, mkT, mkI, hdrOf_lit, hdrChOf_lit, imm_lit, hw, need, accept, tyOf, bind, Except.bind,
    pure, Except.pure]

theorem mma (h : Hdr) (z : Bool) (d : AReg) (a b : TReg) : Statement (.mma h z d a b) := by
  intro f lit hw he
  simp only [Instr.wf, Bool.and_eq_true] at hw
  cases he
  simp [decodeFields, decMatrix, mk0, mkO, mkT, mkI, hdrOf_lit, hdrChOf_lit, imm_lit, hw, need, accept, tyOf, bind, Except.bind,
    pure, Except.pure]

theorem mmas (h : Hdr) (z : Bool) (d : AReg) (a b c : TReg) : Statement (.mmas h z d a b c) := by
  intro f lit hw he
  simp only [Instr.wf, Bool.and_eq_true] at hw
  cases he
  simp [decodeFields, decMatrix, mk0, mkO, mkT, mkI, hdrOf_lit, hdrChOf_lit, imm_lit, hw, need, accept, tyOf, bind, Except.bind,
    pure, Except.pure]

theorem mmag (h : Hdr) (z : Bool) (d : AReg) (a b : TReg) (c : XReg) : Statement (.mmag h z d a b c) := by
  intro f lit hw he
  simp only [Instr.wf, Bool.and_eq_true] at hw
  cases he
  simp [decodeFields, decMatrix, mk0, mkO, mkT, mkI, hdrOf_lit, hdrChOf_lit, imm_lit, hw, need, accept, tyOf, bind, Except.bind,
    pure, Except.pure]

theorem azero (h : Hdr) (d : AReg) : Statement (.azero h d) := by
  intro f lit hw he
  simp only [Instr.wf, Bool.and_eq_true] at hw
  cases he
  simp [decodeFields, decMatrix, mk0, mkO, mkT, mkI, hdrOf_lit, hdrChOf_lit, imm_lit, hw, need, accept, tyOf, bind, Except.bind,
    pure, Except.pure]

theorem ald (h : Hdr) (d : AReg) (a : XReg) (id : BitVec 8) : Statement (.ald h d a id) := by
  intro f lit hw he
  simp only [Instr.wf, Bool.and_eq_true] at hw
  cases he
  simp [decodeFields, decMatrix, mkI_op, mkI_ty, mkI_md, mkI_d, mkI_a, imm8Of_mkI, srOf_mkI, hdrChOf_mkI, hw, need, accept, tyOf, bind, Except.bind, pure, Except.pure]

theorem ast (h : Hdr) (r : Rnd) (d : AReg) (a : XReg) (id : BitVec 8) : Statement (.ast h r d a id) := by
  intro f lit hw he
  simp only [Instr.wf, Bool.and_eq_true] at hw
  cases he
  simp [decodeFields, decMatrix, mkI_op, mkI_ty, mkI_md, mkI_d, mkI_a, imm8Of_mkI, srOf_mkI, hdrChOf_mkI, hw, need, accept, tyOf, bind, Except.bind, pure, Except.pure]

theorem acvt (h : Hdr) (ty : Ty) (r : Rnd) (d : TReg) (a : AReg) : Statement (.acvt h ty r d a) := by
  intro f lit hw he
  simp only [Instr.wf, Bool.and_eq_true] at hw
  cases he
  simp [decodeFields, decMatrix, mk0, mkO, mkT, mkI, hdrOf_lit, hdrChOf_lit, imm_lit, hw, need, accept, tyOf, bind, Except.bind,
    pure, Except.pure]

theorem aadd (h : Hdr) (int : Bool) (d a b : AReg) : Statement (.aadd h int d a b) := by
  intro f lit hw he
  simp only [Instr.wf, Bool.and_eq_true] at hw
  cases he
  simp [decodeFields, decMatrix, mk0, mkO, mkT, mkI, hdrOf_lit, hdrChOf_lit, imm_lit, hw, need, accept, tyOf, bind, Except.bind,
    pure, Except.pure]

theorem mqry (h : Hdr) (d : XReg) : Statement (.mqry h d) := by
  intro f lit hw he
  cases he
  exact dX_enc hw

theorem ld (h : Hdr) (sz : MemSz) (d a : XReg) (imm : BitVec 18) : Statement (.ld h sz d a imm) := by
  intro f lit hw he
  simp only [Instr.wf, Bool.and_eq_true] at hw
  cases he
  have key : ∀ g : Fields, g.op = 0x140 → hdrChOf g = .ok h → memSzOf g = .ok sz → g.d = xc d → g.a = xc a → g.imm = imm →
      decodeFields g none = .ok (.ld h sz d a imm) := by
    intro g e1 e2 e3 e4 e5 e6
    simp only [decodeFields, decMemory, e1, e2, e3, e4, e5, e6, xOf_xc, bind, Except.bind, pure, Except.pure]
    rfl
  exact key _ rfl (hdrChOf_lit _ _ _ _ _ _ _ _ h hw.1) (memSzOf_code hw.2 rfl rfl) rfl rfl (imm_mkI 0x140 h (memSzCode sz).2 (xc d) (xc a) imm)

theorem st (h : Hdr) (sz : MemSz) (d a : XReg) (imm : BitVec 18) : Statement (.st h sz d a imm) := by
  intro f lit hw he
  simp only [Instr.wf, Bool.and_eq_true] at hw
  cases he
  have key : ∀ g : Fields, g.op = 0x141 → hdrChOf g = .ok h → memSzOf g = .ok sz → g.d = xc d → g.a = xc a → g.imm = imm →
      decodeFields g none = .ok (.st h sz d a imm) := by
    intro g e1 e2 e3 e4 e5 e6
    simp only [decodeFields, decMemory, e1, e2, e3, e4, e5, e6, xOf_xc, bind, Except.bind, pure, Except.pure]
    rfl
  exact key _ rfl (hdrChOf_lit _ _ _ _ _ _ _ _ h hw.1) (memSzOf_code hw.2 rfl rfl) rfl rfl (imm_mkI 0x141 h (memSzCode sz).2 (xc d) (xc a) imm)

theorem ldv (h : Hdr) (d : VReg) (a b : XReg) : Statement (.ldv h d a b) := by
  intro f lit hw he
  simp only [Instr.wf, Bool.and_eq_true] at hw
  cases he
  simp [decodeFields, decMemory, mk0, mkO, mkT, mkI, hdrOf_lit, hdrChOf_lit, imm_lit, hw, need, accept, tyOf, bind, Except.bind,
    pure, Except.pure]

theorem stv (h : Hdr) (d : VReg) (a b : XReg) : Statement (.stv h d a b) := by
  intro f lit hw he
  simp only [Instr.wf, Bool.and_eq_true] at hw
  cases he
  simp [decodeFields, decMemory, mk0, mkO, mkT, mkI, hdrOf_lit, hdrChOf_lit, imm_lit, hw, need, accept, tyOf, bind, Except.bind,
    pure, Except.pure]

theorem ldx (h : Hdr) (ty : Ty) (d : VReg) (a : XReg) (b : VReg) (e : Option KReg) : Statement (.ldx h ty d a b e) := by
  intro f lit hw he
  simp only [Instr.wf, Bool.and_eq_true] at hw
  cases he
  simp [decodeFields, decMemory, mk0, mkO, mkT, mkI, hdrOf_lit, hdrChOf_lit, imm_lit, hw, need, accept, tyOf, bind, Except.bind,
    pure, Except.pure]

theorem stx (h : Hdr) (ty : Ty) (d : VReg) (a : XReg) (b : VReg) (e : Option KReg) : Statement (.stx h ty d a b e) := by
  intro f lit hw he
  simp only [Instr.wf, Bool.and_eq_true] at hw
  cases he
  simp [decodeFields, decMemory, mk0, mkO, mkT, mkI, hdrOf_lit, hdrChOf_lit, imm_lit, hw, need, accept, tyOf, bind, Except.bind,
    pure, Except.pure]

theorem lda (h : Hdr) (sz : MemSz) (d a b : XReg) : Statement (.lda h sz d a b) := by
  intro f lit hw he
  simp only [Instr.wf, Bool.and_eq_true] at hw
  cases he
  have hs : memSzOf (mkT 0x146 h (memSzCode sz).1 (memSzCode sz).2 (xc d) (xc a) (xc b) 0 0) = .ok sz := memSzOf_code hw.2 rfl rfl
  show (do
    let h ← hdrChOf (mkT 0x146 h (memSzCode sz).1 (memSzCode sz).2 (xc d) (xc a) (xc b) 0 0)
    need true
    let sz ← memSzOf (mkT 0x146 h (memSzCode sz).1 (memSzCode sz).2 (xc d) (xc a) (xc b) 0 0)
    return Instr.lda h sz (← xOf (xc d)) (← xOf (xc a)) (← xOf (xc b))) = _
  rw [hdrChOf_mkT hw.1]
  simp only [bind, Except.bind, need, if_true]
  rw [hs]
  simp only [xOf_xc, pure, Except.pure]

theorem stl (h : Hdr) (sz : MemSz) (d a b : XReg) : Statement (.stl h sz d a b) := by
  intro f lit hw he
  simp only [Instr.wf, Bool.and_eq_true] at hw
  cases he
  have hs : memSzOf (mkT 0x147 h (memSzCode sz).1 (memSzCode sz).2 (xc d) (xc a) (xc b) 0 0) = .ok sz := memSzOf_code hw.2 rfl rfl
  show (do
    let h ← hdrChOf (mkT 0x147 h (memSzCode sz).1 (memSzCode sz).2 (xc d) (xc a) (xc b) 0 0)
    need true
    let sz ← memSzOf (mkT 0x147 h (memSzCode sz).1 (memSzCode sz).2 (xc d) (xc a) (xc b) 0 0)
    return Instr.stl h sz (← xOf (xc d)) (← xOf (xc a)) (← xOf (xc b))) = _
  rw [hdrChOf_mkT hw.1]
  simp only [bind, Except.bind, need, if_true]
  rw [hs]
  simp only [xOf_xc, pure, Except.pure]

theorem atom (h : Hdr) (ty : Ty) (op : AtomOp) (dbl : Bool) (ord : AtomOrd) (d a b : XReg) : Statement (.atom h ty op dbl ord d a b) := by
  intro f lit hw he
  simp only [Instr.wf, Bool.and_eq_true] at hw
  cases he
  have ho : ordOf (mkT 0x148 h ty.code (BitVec.ofBool dbl ++ op.code) (xc d) (xc a) (xc b) (ordCode ord).2 (ordCode ord).1) = .ok ord :=
    ordOf_code hw.2.2 rfl rfl
  have hc : (BitVec.ofBool dbl ++ op.code : BitVec 4).setWidth 3 = op.code ∧ (BitVec.ofBool dbl ++ op.code : BitVec 4).getLsbD 3 = dbl := by
    cases dbl <;> cases op <;> decide
  have key : ∀ g : Fields, g.op = 0x148 → hdrChOf g = .ok h → g.ty = ty.code → ordOf g = .ok ord →
      g.md = BitVec.ofBool dbl ++ op.code → g.d = xc d → g.a = xc a → g.b = xc b →
      decodeFields g none = .ok (.atom h ty op dbl ord d a b) := by
    intro g e1 e2 e3 e4 e5 e6 e7 e8
    simp only [decodeFields, decMemory, e1, e2, e4, e5, e6, e7, e8, tyOf, e3, ofCode_code, atomOpOf_code, hc.1, hc.2, xOf_xc, accept,
      hw.2.1, bind, Except.bind, pure, Except.pure]
    rfl
  exact key _ rfl (hdrChOf_lit _ _ _ _ _ _ _ _ h hw.1) rfl ho rfl rfl rfl rfl

theorem cas (h : Hdr) (ty : Ty) (dbl : Bool) (ord : AtomOrd) (d a b : XReg) : Statement (.cas h ty dbl ord d a b) := by
  intro f lit hw he
  simp only [Instr.wf, Bool.and_eq_true] at hw
  cases he
  have key : ∀ g : Fields, g.op = 0x149 → hdrChOf g = .ok h → g.ty = ty.code → ordOf g = .ok ord → g.md = (if dbl then 8 else 0) →
      g.d = xc d → g.a = xc a → g.b = xc b → decodeFields g none = .ok (.cas h ty dbl ord d a b) := by
    intro g e1 e2 e3 e4 e5 e6 e7 e8
    simp only [decodeFields, decMemory, e1, e2, e4, e5, e6, e7, e8, tyOf, e3, ofCode_code, xOf_xc, accept, hw.2.1, need, bind,
      Except.bind, pure, Except.pure]
    cases dbl <;> rfl
  exact key _ rfl (hdrChOf_lit _ _ _ _ _ _ _ _ h hw.1) rfl (ordOf_code hw.2.2 rfl rfl) rfl rfl rfl rfl

theorem red (h : Hdr) (ty : Ty) (a b : XReg) (sid : BitVec 4) : Statement (.red h ty a b sid) := by
  intro f lit hw he
  cases he
  exact dRed_enc hw

theorem redo (h : Hdr) (ty : Ty) (a b : XReg) (sid : BitVec 4) : Statement (.redo h ty a b sid) := by
  intro f lit hw he
  cases he
  exact dRed_enc hw

theorem redc (h : Hdr) (mode : RMode) (sid : BitVec 4) : Statement (.redc h mode sid) := by
  intro f lit hw he
  simp only [Instr.wf, Bool.and_eq_true] at hw
  cases he
  have hr : rnd4Of (rndCode ⟨mode, false⟩) = .ok ⟨mode, false⟩ := rnd4Of_code hw.2 rfl
  simp [decodeFields, decMemory, mk0, mkO, mkT, hdrChOf_lit, hw, hr, need, bind, Except.bind, pure, Except.pure]

theorem fence (h : Hdr) (op : FenceOp) : Statement (.fence h op) := by
  intro f lit hw he
  simp only [Instr.wf, Bool.and_eq_true] at hw
  cases he
  cases op with
  | all => simp [decodeFields, decMemory, mk0, mkO, mkT, hdrOf_lit, hw, fenceCode, need, bind, Except.bind, pure, Except.pure]
  | acq s => simp [decodeFields, decMemory, mk0, mkO, mkT, hdrOf_lit, hw.1, fenceCode, x1Of_xc s hw.2, need, bind, Except.bind, pure, Except.pure]
  | rel s => simp [decodeFields, decMemory, mk0, mkO, mkT, hdrOf_lit, hw.1, fenceCode, x1Of_xc s hw.2, need, bind, Except.bind, pure, Except.pure]
  | ar s => simp [decodeFields, decMemory, mk0, mkO, mkT, hdrOf_lit, hw.1, fenceCode, x1Of_xc s hw.2, need, bind, Except.bind, pure, Except.pure]

theorem l1inv (h : Hdr) (s : Option XReg) : Statement (.l1inv h s) := by
  intro f lit hw he
  simp only [Instr.wf, Bool.and_eq_true] at hw
  cases he
  cases s with
  | none => simp [decodeFields, decMemory, mk0, mkO, mkT, hdrOf_lit, hw, x0c, flagc, flagOf, need, bind, Except.bind, pure, Except.pure]
  | some r => simp [decodeFields, decMemory, mk0, mkO, mkT, hdrOf_lit, hw, x0c, flagc, flagOf, x1Of_xc r hw.2, need, bind, Except.bind, pure, Except.pure]

theorem prf (h : Hdr) (a b : XReg) : Statement (.prf h a b) := by
  intro f lit hw he
  simp only [Instr.wf, Bool.and_eq_true] at hw
  cases he
  simp [decodeFields, decMemory, mk0, mkO, mkT, mkI, hdrOf_lit, hdrChOf_lit, imm_lit, hw, need, accept, tyOf, bind, Except.bind,
    pure, Except.pure]

theorem wait (h : Hdr) : Statement (.wait h) := by
  intro f lit hw he
  cases he
  exact dNone_enc hw

theorem gbar (h : Hdr) : Statement (.gbar h) := by
  intro f lit hw he
  cases he
  exact dNone_enc hw

theorem tlw (h : Hdr) (n : BitVec 3) (a b : XReg) (c : Option XReg) : Statement (.tlw h n a b c) := by
  intro f lit hw he
  simp only [Instr.wf, Bool.and_eq_true] at hw
  cases he
  have hc : (n.setWidth 4 : BitVec 4).getLsbD 3 = false ∧ (n.setWidth 4 : BitVec 4).setWidth 3 = n := by revert n; decide
  simp [decodeFields, decMemory, mk0, mkO, mkT, mkI, hdrOf_lit, hdrChOf_lit, imm_lit, hw, x0Of_x0c _ hw.2, hc.1, hc.2, need, accept, tyOf, bind, Except.bind, pure, Except.pure]

theorem tlr (h : Hdr) (n : BitVec 3) (issued : Bool) (d : XReg) (c : Option XReg) : Statement (.tlr h n issued d c) := by
  intro f lit hw he
  simp only [Instr.wf, Bool.and_eq_true] at hw
  cases he
  have hc : (BitVec.ofBool issued ++ n : BitVec 4).getLsbD 3 = issued ∧ (BitVec.ofBool issued ++ n : BitVec 4).setWidth 3 = n := by
    cases issued <;> (revert n; decide)
  have h3 : (BitVec.ofBool issued ++ n : BitVec 4)[3] = issued := hc.1
  simp [decodeFields, decMemory, mk0, mkO, mkT, mkI, hdrOf_lit, hdrChOf_lit, imm_lit, hw, x0Of_x0c _ hw.2, hc.1, hc.2, h3, need, accept, tyOf, bind, Except.bind, pure, Except.pure]

theorem tls (h : Hdr) (d a : XReg) : Statement (.tls h d a) := by
  intro f lit hw he
  cases he
  exact dXX_enc hw

theorem hcfg (h : Hdr) (op : HcfgOp) (d : HReg) : Statement (.hcfg h op d) := by
  intro f lit hw he
  cases he
  cases op <;>
    simp [decodeFields, decMemory, mk0, mkO, mkT, hdrOf_lit _ _ _ _ _ _ _ _ h hw, hcfgCode, need, bind, Except.bind, pure, Except.pure]

theorem hrsv (h : Hdr) (a : HReg) : Statement (.hrsv h a) := by
  intro f lit hw he
  cases he
  exact dH_enc hw

theorem hcmt (h : Hdr) (a : HReg) : Statement (.hcmt h a) := by
  intro f lit hw he
  cases he
  exact dH_enc hw

theorem hadv (h : Hdr) (op : HadvOp) (a : HReg) : Statement (.hadv h op a) := by
  intro f lit hw he
  cases he
  cases op <;>
    simp [decodeFields, decMemory, mk0, mkO, mkT, hdrOf_lit _ _ _ _ _ _ _ _ h hw, hadvCode, flagOf, need, bind, Except.bind, pure, Except.pure]

theorem hqry (h : Hdr) (d : XReg) (a : HReg) : Statement (.hqry h d a) := by
  intro f lit hw he
  simp only [Instr.wf, Bool.and_eq_true] at hw
  cases he
  simp [decodeFields, decMemory, mk0, mkO, mkT, mkI, hdrOf_lit, hdrChOf_lit, imm_lit, hw, need, accept, tyOf, bind, Except.bind,
    pure, Except.pure]

theorem send (h : Hdr) (a : HReg) (b : VReg) (c : XReg) : Statement (.send h a b c) := by
  intro f lit hw he
  simp only [Instr.wf, Bool.and_eq_true] at hw
  cases he
  simp [decodeFields, decMemory, mk0, mkO, mkT, mkI, hdrOf_lit, hdrChOf_lit, imm_lit, hw, need, accept, tyOf, bind, Except.bind,
    pure, Except.pure]

theorem wake (h : Hdr) (a : XReg) : Statement (.wake h a) := by
  intro f lit hw he
  simp only [Instr.wf, Bool.and_eq_true] at hw
  cases he
  simp [decodeFields, decMemory, mk0, mkO, mkT, mkI, hdrOf_lit, hdrChOf_lit, imm_lit, hw, need, accept, tyOf, bind, Except.bind,
    pure, Except.pure]

theorem mvcall (h : Hdr) (d a : XReg) (imm : BitVec 18) : Statement (.mvcall h d a imm) := by
  intro f lit hw he
  cases he
  exact dXXI_enc hw

theorem mvret (h : Hdr) : Statement (.mvret h) := by
  intro f lit hw he
  cases he
  exact dNone_enc hw

theorem cpy (h : Hdr) (s1 : Bool) (d a b c : XReg) (e : Option XReg) : Statement (.cpy h s1 d a b c e) := by
  intro f lit hw he
  cases he
  exact dCpy_enc hw

theorem cpyg (h : Hdr) (s1 : Bool) (d a b c : XReg) (e : Option XReg) : Statement (.cpyg h s1 d a b c e) := by
  intro f lit hw he
  cases he
  exact dCpy_enc hw

theorem cpyw (h : Hdr) (s1 : Bool) (d a b c : XReg) (e : Option XReg) : Statement (.cpyw h s1 d a b c e) := by
  intro f lit hw he
  cases he
  exact dCpy_enc hw

theorem cpyp (h : Hdr) (d a b c e : XReg) : Statement (.cpyp h d a b c e) := by
  intro f lit hw he
  simp only [Instr.wf, Bool.and_eq_true] at hw
  cases he
  simp [decodeFields, decEngine, mk0, mkO, mkT, mkI, hdrOf_lit, hdrChOf_lit, imm_lit, hw, need, accept, tyOf, bind, Except.bind,
    pure, Except.pure]

theorem cfill (h : Hdr) (cls : FillCls) (s1 : Bool) (d : XReg) (a : Option XReg) (id : BitVec 8) : Statement (.cfill h cls s1 d a id) := by
  intro f lit hw he
  simp only [Instr.wf, Bool.and_eq_true] at hw
  cases he
  cases cls <;> cases s1 <;>
    simp [decodeFields, decEngine, mkI_op, mkI_ty, mkI_md, mkI_d, mkI_a, imm8Of_mkI, hdrChOf_mkI hw.1, fillCode, x0Of_x0c _ hw.2,
      need, bind, Except.bind, pure, Except.pure]

theorem cpin (h : Hdr) (s1 : Bool) (d a : XReg) (b : Option XReg) : Statement (.cpin h s1 d a b) := by
  intro f lit hw he
  cases he
  exact dPin_enc hw

theorem cunpin (h : Hdr) (s1 : Bool) (d a : XReg) (b : Option XReg) : Statement (.cunpin h s1 d a b) := by
  intro f lit hw he
  cases he
  exact dPin_enc hw

theorem cwin (h : Hdr) (op : CwinOp) (s1 : Bool) (d a : XReg) (e : Option XReg) : Statement (.cwin h op s1 d a e) := by
  intro f lit hw he
  simp only [Instr.wf, Bool.and_eq_true] at hw
  cases he
  cases op <;> cases s1 <;>
    simp [decodeFields, decEngine, mk0, mkO, mkT, hdrChOf_lit, hw, cwinCode, x0Of_x0c _ hw.2, need, bind, Except.bind, pure, Except.pure]

theorem wvopen (h : Hdr) (d a b : XReg) (wid : BitVec 4) : Statement (.wvopen h d a b wid) := by
  intro f lit hw he
  cases he
  exact dXXXW_enc hw

theorem wvclose (h : Hdr) (d : XReg) (wid : BitVec 4) : Statement (.wvclose h d wid) := by
  intro f lit hw he
  cases he
  exact dXW_enc hw

theorem wvqry (h : Hdr) (d a b : XReg) (wid : BitVec 4) : Statement (.wvqry h d a b wid) := by
  intro f lit hw he
  cases he
  exact dXXXW_enc hw

theorem wvdone (h : Hdr) (d : XReg) (wid : BitVec 4) : Statement (.wvdone h d wid) := by
  intro f lit hw he
  cases he
  exact dXW_enc hw

theorem snopen (h : Hdr) (d a b : XReg) : Statement (.snopen h d a b) := by
  intro f lit hw he
  cases he
  exact dXXX_enc hw

theorem snacc (h : Hdr) (d : XReg) : Statement (.snacc h d) := by
  intro f lit hw he
  cases he
  exact dX_enc hw

theorem snrej (h : Hdr) (d : XReg) : Statement (.snrej h d) := by
  intro f lit hw he
  cases he
  exact dX_enc hw

theorem snqry (h : Hdr) (a b : XReg) : Statement (.snqry h a b) := by
  intro f lit hw he
  simp only [Instr.wf, Bool.and_eq_true] at hw
  cases he
  simp [decodeFields, decEngine, mk0, mkO, mkT, mkI, hdrOf_lit, hdrChOf_lit, imm_lit, hw, need, accept, tyOf, bind, Except.bind,
    pure, Except.pure]

theorem lrpatch (h : Hdr) (d a b c : XReg) : Statement (.lrpatch h d a b c) := by
  intro f lit hw he
  simp only [Instr.wf, Bool.and_eq_true] at hw
  cases he
  simp [decodeFields, decEngine, mk0, mkO, mkT, mkI, hdrOf_lit, hdrChOf_lit, imm_lit, hw, need, accept, tyOf, bind, Except.bind,
    pure, Except.pure]

theorem lrarm (h : Hdr) (d a : XReg) : Statement (.lrarm h d a) := by
  intro f lit hw he
  cases he
  exact dXX_enc hw

theorem lrqry (h : Hdr) (d a : XReg) : Statement (.lrqry h d a) := by
  intro f lit hw he
  cases he
  exact dXX_enc hw

theorem seedrd (h : Hdr) (hi : Bool) (d : XReg) : Statement (.seedrd h hi d) := by
  intro f lit hw he
  simp only [Instr.wf, Bool.and_eq_true] at hw
  cases he
  simp [decodeFields, decEngine, mk0, mkO, mkT, mkI, hdrOf_lit, hdrChOf_lit, imm_lit, hw, need, accept, tyOf, bind, Except.bind,
    pure, Except.pure]

theorem collp (h : Hdr) (ty : Ty) (d a b c e : XReg) : Statement (.collp h ty d a b c e) := by
  intro f lit hw he
  simp only [Instr.wf, Bool.and_eq_true] at hw
  cases he
  simp [decodeFields, decEngine, mk0, mkO, mkT, mkI, hdrOf_lit, hdrChOf_lit, imm_lit, hw, need, accept, tyOf, bind, Except.bind,
    pure, Except.pure]

theorem timerTrap (core : Nat) : Statement (.timerTrap core) := fun _ _ _ h => nomatch h
theorem taskStart (core : Nat) : Statement (.taskStart core) := fun _ _ _ h => nomatch h
theorem endRetire (core : Nat) : Statement (.endRetire core) := fun _ _ _ h => nomatch h
theorem routineStart (core : Nat) : Statement (.routineStart core) := fun _ _ _ h => nomatch h
theorem gangFusion (core : Nat) : Statement (.gangFusion core) := fun _ _ _ h => nomatch h
theorem sleepDeadline (core : Nat) : Statement (.sleepDeadline core) := fun _ _ _ h => nomatch h
theorem wakeArrival (core : Nat) : Statement (.wakeArrival core) := fun _ _ _ h => nomatch h
theorem tlwSatisfied (core : Nat) : Statement (.tlwSatisfied core) := fun _ _ _ h => nomatch h
theorem seqProgramFetch (blk seq : Nat) : Statement (.seqProgramFetch blk seq) := fun _ _ _ h => nomatch h
theorem mask (blk seq : Nat) (m : BitVec 32) : Statement (.mask blk seq m) := fun _ _ _ h => nomatch h
theorem maskb (blk seq : Nat) (tag : BitVec 4) (cnt : BitVec 24) (m : BitVec 32) : Statement (.maskb blk seq tag cnt m) := fun _ _ _ h => nomatch h
theorem loopEntry (blk seq : Nat) (n : BitVec 16) : Statement (.loopEntry blk seq n) := fun _ _ _ h => nomatch h
theorem endl (blk seq : Nat) : Statement (.endl blk seq) := fun _ _ _ h => nomatch h
theorem jump (blk seq : Nat) (target : BitVec 16) : Statement (.jump blk seq target) := fun _ _ _ h => nomatch h
theorem note (blk seq : Nat) (value : BitVec 32) : Statement (.note blk seq value) := fun _ _ _ h => nomatch h
theorem halt (blk seq : Nat) : Statement (.halt blk seq) := fun _ _ _ h => nomatch h
theorem fire (blk seq : Nat) (sq : BitVec 32) : Statement (.fire blk seq sq) := fun _ _ _ h => nomatch h
theorem memberRelease (blk seq : Nat) (sq : BitVec 32) : Statement (.memberRelease blk seq sq) := fun _ _ _ h => nomatch h
theorem gbarCountComplete (ldom : Nat) : Statement (.gbarCountComplete ldom) := fun _ _ _ h => nomatch h
theorem gbarRelease (ldom : Nat) : Statement (.gbarRelease ldom) := fun _ _ _ h => nomatch h
theorem copySectorPerformed (core op : Nat) : Statement (.copySectorPerformed core op) := fun _ _ _ h => nomatch h
theorem timelineComplete (core tl n : Nat) : Statement (.timelineComplete core tl n) := fun _ _ _ h => nomatch h
theorem matrixArbitration (blk octet : Nat) : Statement (.matrixArbitration blk octet) := fun _ _ _ h => nomatch h
theorem matrixCommandComplete (core : Nat) : Statement (.matrixCommandComplete core) := fun _ _ _ h => nomatch h
theorem rampWindow (blk : Nat) : Statement (.rampWindow blk) := fun _ _ _ h => nomatch h
theorem homeAccess (aid : Nat) : Statement (.homeAccess aid) := fun _ _ _ h => nomatch h
theorem hbmFillComplete (blk pa aid : Nat) : Statement (.hbmFillComplete blk pa aid) := fun _ _ _ h => nomatch h
theorem remoteScratchpadAccess (aid : Nat) : Statement (.remoteScratchpadAccess aid) := fun _ _ _ h => nomatch h
theorem translationWalk (blk asid vpage : Nat) : Statement (.translationWalk blk asid vpage) := fun _ _ _ h => nomatch h
theorem pendingLoadFault (aid : Nat) (cause : BitVec 16) : Statement (.pendingLoadFault aid cause) := fun _ _ _ h => nomatch h
theorem sideLogEntry (aid : Nat) (cause : BitVec 16) : Statement (.sideLogEntry aid cause) := fun _ _ _ h => nomatch h
theorem replayPass (core : Nat) (mt : Bool) : Statement (.replayPass core mt) := fun _ _ _ h => nomatch h
theorem engineFault (core op : Nat) (cause : BitVec 16) (va : Word) : Statement (.engineFault core op cause va) := fun _ _ _ h => nomatch h
theorem redUpdateApply (aid : Nat) : Statement (.redUpdateApply aid) := fun _ _ _ h => nomatch h
theorem redoOpenApply (blk asid : Nat) (sid : BitVec 4) : Statement (.redoOpenApply blk asid sid) := fun _ _ _ h => nomatch h
theorem redcCloseApply (blk asid : Nat) (sid : BitVec 4) : Statement (.redcCloseApply blk asid sid) := fun _ _ _ h => nomatch h
theorem snapshotOpApply (blk asid g : Nat) : Statement (.snapshotOpApply blk asid g) := fun _ _ _ h => nomatch h
theorem ringReservationRequest (tx : Nat) (th : HReg) : Statement (.ringReservationRequest tx th) := fun _ _ _ h => nomatch h
theorem ringGrant (tx : Nat) (th : HReg) (grant : Option (Nat × Nat)) : Statement (.ringGrant tx th grant) := fun _ _ _ h => nomatch h
theorem commitComplete (tx : Nat) (th : HReg) : Statement (.commitComplete tx th) := fun _ _ _ h => nomatch h
theorem weevilBatchTake (blk asid wid : Nat) : Statement (.weevilBatchTake blk asid wid) := fun _ _ _ h => nomatch h
theorem prefetchComplete (blk asid wid p tile : Nat) : Statement (.prefetchComplete blk asid wid p tile) := fun _ _ _ h => nomatch h
theorem pointIssue (core : Nat) : Statement (.pointIssue core) := fun _ _ _ h => nomatch h
theorem ageBoundExpiry (blk asid wid p : Nat) : Statement (.ageBoundExpiry blk asid wid p) := fun _ _ _ h => nomatch h
theorem forcedFillComplete (core : Nat) (line : Nat) : Statement (.forcedFillComplete core line) := fun _ _ _ h => nomatch h
theorem forcedFillRetry (core : Nat) (line : Nat) : Statement (.forcedFillRetry core line) := fun _ _ _ h => nomatch h
theorem walkStall (core : Nat) : Statement (.walkStall core) := fun _ _ _ h => nomatch h
theorem leaseExpiry (blk pa core : Nat) : Statement (.leaseExpiry blk pa core) := fun _ _ _ h => nomatch h
theorem endOfWork (asid wid : Nat) : Statement (.endOfWork asid wid) := fun _ _ _ h => nomatch h
theorem epilogueStart (core : Nat) : Statement (.epilogueStart core) := fun _ _ _ h => nomatch h
theorem notifyWrite (q : Nat) (value : Word) : Statement (.notifyWrite q value) := fun _ _ _ h => nomatch h
theorem launch (k : Pkt) (index : BitVec 12) : Statement (.launch k index) := fun _ _ _ h => nomatch h
theorem tlwait (k : Pkt) (va n : Word) : Statement (.tlwait k va n) := fun _ _ _ h => nomatch h
theorem tlwaitSatisfied (k : Pkt) (va n : Word) : Statement (.tlwaitSatisfied k va n) := fun _ _ _ h => nomatch h
theorem tlsignal (k : Pkt) (va n : Word) : Statement (.tlsignal k va n) := fun _ _ _ h => nomatch h
theorem seedpush (k : Pkt) (lo hi : Word) : Statement (.seedpush k lo hi) := fun _ _ _ h => nomatch h
theorem seedpop (k : Pkt) : Statement (.seedpop k) := fun _ _ _ h => nomatch h
theorem seedfork (k : Pkt) (n : Word) : Statement (.seedfork k n) := fun _ _ _ h => nomatch h
theorem copy (k : Pkt) (dst src : Word) (bytes : BitVec 32) (dir : BitVec 2) : Statement (.copy k dst src bytes dir) := fun _ _ _ h => nomatch h
theorem copyPacketComplete (k : Pkt) (status : BitVec 16) : Statement (.copyPacketComplete k status) := fun _ _ _ h => nomatch h
theorem window (k : Pkt) (base size : Word) (blocks : BitVec 32) (pin clear : Bool) : Statement (.window k base size blocks pin clear) := fun _ _ _ h => nomatch h
theorem windowChangeComplete (asid : Nat) (base : Word) : Statement (.windowChangeComplete asid base) := fun _ _ _ h => nomatch h
theorem fencePacket (k : Pkt) : Statement (.fencePacket k) := fun _ _ _ h => nomatch h
theorem marker (k : Pkt) (value : Word) : Statement (.marker k value) := fun _ _ _ h => nomatch h
theorem queueQuantum  : Statement (.queueQuantum) := fun _ _ _ h => nomatch h
theorem placement  : Statement (.placement) := fun _ _ _ h => nomatch h
theorem reservation (asid index : Nat) : Statement (.reservation asid index) := fun _ _ _ h => nomatch h
theorem placementStarved (asid index : Nat) : Statement (.placementStarved asid index) := fun _ _ _ h => nomatch h
theorem launchEnd (serial : Nat) : Statement (.launchEnd serial) := fun _ _ _ h => nomatch h
theorem coreStop (core : Nat) : Statement (.coreStop core) := fun _ _ _ h => nomatch h
theorem restore (asid : Nat) (rect : Word) : Statement (.restore asid rect) := fun _ _ _ h => nomatch h
theorem shootdown (value : Word) : Statement (.shootdown value) := fun _ _ _ h => nomatch h
theorem shootdownFlush (value : Word) : Statement (.shootdownFlush value) := fun _ _ _ h => nomatch h
theorem shootdownSliceAck (blk : Nat) : Statement (.shootdownSliceAck blk) := fun _ _ _ h => nomatch h
theorem shootdownStatusRead  : Statement (.shootdownStatusRead) := fun _ _ _ h => nomatch h
theorem ctxload (arg0 : Word) : Statement (.ctxload arg0) := fun _ _ _ h => nomatch h
theorem ctxupd (arg0 : Word) : Statement (.ctxupd arg0) := fun _ _ _ h => nomatch h
theorem ctxevict (arg0 : Word) : Statement (.ctxevict arg0) := fun _ _ _ h => nomatch h
theorem preempt (arg0 arg1 : Word) : Statement (.preempt arg0 arg1) := fun _ _ _ h => nomatch h
theorem qresync (arg0 arg1 : Word) : Statement (.qresync arg0 arg1) := fun _ _ _ h => nomatch h
theorem bssplit (arg0 arg1 : Word) : Statement (.bssplit arg0 arg1) := fun _ _ _ h => nomatch h
theorem signrun (arg0 : Word) : Statement (.signrun arg0) := fun _ _ _ h => nomatch h
theorem attest (arg0 arg1 : Word) : Statement (.attest arg0 arg1) := fun _ _ _ h => nomatch h
theorem svnadv (arg0 : Word) : Statement (.svnadv arg0) := fun _ _ _ h => nomatch h
theorem seqreset (arg0 arg1 : Word) : Statement (.seqreset arg0 arg1) := fun _ _ _ h => nomatch h
theorem contain (arg0 : Word) : Statement (.contain arg0) := fun _ _ _ h => nomatch h
theorem uncontain (arg0 : Word) : Statement (.uncontain arg0) := fun _ _ _ h => nomatch h
theorem unknownCommand (cmd : BitVec 8) : Statement (.unknownCommand cmd) := fun _ _ _ h => nomatch h
theorem svcStatusRead  : Statement (.svcStatusRead) := fun _ _ _ h => nomatch h
theorem seqSnapshotLatch (blk seq : Nat) : Statement (.seqSnapshotLatch blk seq) := fun _ _ _ h => nomatch h
theorem hreq (core : Nat) : Statement (.hreq core) := fun _ _ _ h => nomatch h
theorem rreq (core : Nat) : Statement (.rreq core) := fun _ _ _ h => nomatch h
theorem sreq (core : Nat) : Statement (.sreq core) := fun _ _ _ h => nomatch h
theorem debugStatusRead (core : Nat) : Statement (.debugStatusRead core) := fun _ _ _ h => nomatch h
theorem breakpointMatch (core : Nat) (mt : Bool) : Statement (.breakpointMatch core mt) := fun _ _ _ h => nomatch h
theorem heldMessage (core : Nat) (m : Msg) : Statement (.heldMessage core m) := fun _ _ _ h => nomatch h
theorem traceRecordDrain (blk : Nat) : Statement (.traceRecordDrain blk) := fun _ _ _ h => nomatch h
theorem tracePortWrite (blk : Nat) (t : BitVec 7) (slot : BitVec 6) (core : BitVec 20) (mt : Bool) (lo hi : Word) : Statement (.tracePortWrite blk t slot core mt lo hi) := fun _ _ _ h => nomatch h
theorem waitcfgWrite (value : Word) : Statement (.waitcfgWrite value) := fun _ _ _ h => nomatch h
theorem longWait (core : Nat) (mt : Bool) : Statement (.longWait core mt) := fun _ _ _ h => nomatch h
theorem registerWrite (addr : Nat) (value : Word) : Statement (.registerWrite addr value) := fun _ _ _ h => nomatch h
theorem hostRegAccess (port : BitVec 1) (write : Bool) (off : Nat) (value : Word) : Statement (.hostRegAccess port write off value) := fun _ _ _ h => nomatch h
theorem hostMemAccess (port : BitVec 1) (write : Bool) (off : Nat) (bytes : List Byte) : Statement (.hostMemAccess port write off bytes) := fun _ _ _ h => nomatch h
theorem peerOperationReceive (dev pasid asid : Nat) (va : Word) (red : Option (BitVec 4 × Ty)) (bytes : List Byte) : Statement (.peerOperationReceive dev pasid asid va red bytes) := fun _ _ _ h => nomatch h
theorem powerWindow (watts : BitVec 32) : Statement (.powerWindow watts) := fun _ _ _ h => nomatch h
theorem oppChange  : Statement (.oppChange) := fun _ _ _ h => nomatch h
theorem monitorTrip (blk : Nat) (factor cycles : Nat) : Statement (.monitorTrip blk factor cycles) := fun _ _ _ h => nomatch h
theorem gateBlock (blk : Nat) : Statement (.gateBlock blk) := fun _ _ _ h => nomatch h
theorem traceDrainTimeout (blk : Nat) : Statement (.traceDrainTimeout blk) := fun _ _ _ h => nomatch h
theorem wakeBlock (blk : Nat) (req : Option Nat) : Statement (.wakeBlock blk req) := fun _ _ _ h => nomatch h
theorem blockWakeComplete (blk : Nat) : Statement (.blockWakeComplete blk) := fun _ _ _ h => nomatch h
theorem correctedError (n : Nat) : Statement (.correctedError n) := fun _ _ _ h => nomatch h
theorem uncorrectableError (site : ErrSite) : Statement (.uncorrectableError site) := fun _ _ _ h => nomatch h
theorem checkerMismatch (core : Nat) (matrix again : Bool) : Statement (.checkerMismatch core matrix again) := fun _ _ _ h => nomatch h
theorem columnRetirement (core : Nat) : Statement (.columnRetirement core) := fun _ _ _ h => nomatch h
theorem blockWithdrawal (blk : Nat) : Statement (.blockWithdrawal blk) := fun _ _ _ h => nomatch h
theorem hiveMemoryError (event : Nat) : Statement (.hiveMemoryError event) := fun _ _ _ h => nomatch h
theorem flitCrcFail (port : Nat) (replays : Nat) (down : Bool) : Statement (.flitCrcFail port replays down) := fun _ _ _ h => nomatch h
theorem hbmScrub (stack row : Nat) : Statement (.hbmScrub stack row) := fun _ _ _ h => nomatch h
theorem boot  : Statement (.boot) := fun _ _ _ h => nomatch h
theorem accessResponse (aid : Nat) : Statement (.accessResponse aid) := fun _ _ _ h => nomatch h
theorem rimIslandGating (island : Nat) : Statement (.rimIslandGating island) := fun _ _ _ h => nomatch h

end Sys2Proof.Laws.RoundTrip
end

