-- ==== Sys2Proof/Tests/Slice0.lean ====
section
/-!
SUPPORT. Small checks of the model: words of the spec and the instructions they stand for, ill-formed terms, one step at a
time, and for each statement a state that meets its hypotheses. Expected values are those of the spec's worked examples, or
computed by hand from its rules.
-/

set_option maxRecDepth 20000
set_option exponentiation.threshold 5000
set_option Elab.async false

namespace Sys2Proof.Tests

open Sys2Proof Sys2Proof.Machine

/-- A header of fields with no hint, no delay and no guard. -/
def h0 : Hdr := ⟨0, 0, 0, 0, 0⟩

/-- A compute thread, and a movement thread, at the first word of a block; the word is NOP, or MVRET. -/
def sC : State := State.reset.withFetchWord 64 0x13C0_0000_0000_0000
def sM : State := State.reset.withFetchWord 64 0x6040_0000_0000_0000

/-- A computable form of `Ready` for a thread with no load outstanding on a core without errors. -/
def readyB (inf : Info) (h : Hdr) (s : State) : Bool :=
  (if s.onMt then inf.thr.movement else inf.thr.compute) && (!inf.priv || (thr s).priv) && decide ((issueSet s).length ≤ 1) &&
    (thr s).slots.isEmpty && s.core.xPoison == 0 && s.core.vPoison == 0 && s.core.kPoison == 0 && s.core.pPoison == 0 &&
    guards (thr s) h && (inf.transfer || badFall s inf.words == none)

theorem ready_of_bool {inf : Info} {h : Hdr} {s : State} (e : readyB inf h s = true) (u : Uses) : Ready inf h u s := by
  simp only [readyB, Bool.and_eq_true, Bool.or_eq_true, Bool.not_eq_true', decide_eq_true_eq, beq_iff_eq, List.isEmpty_iff] at e
  obtain ⟨⟨⟨⟨⟨⟨⟨⟨⟨a, b⟩, c⟩, d⟩, px⟩, pv⟩, pk⟩, pp⟩, g⟩, f⟩ := e
  refine ⟨⟨a, ?_, c, ?_, ?_, ?_⟩, g, ?_⟩
  · intro q; cases b with
    | inl b => simp [q] at b
    | inr b => exact b
  · simp [awaited, d]
  · simp [guardPoison, pp]
  · simp [readsPoison, px, pv, pk, pp]
  · intro q; cases f with
    | inl f => simp [q] at f
    | inr f => exact f

/-! ## Words of the spec (tables of the worked programs, and Tables 10.1 to 10.7) -/

theorem test_decode_addi : decodeTableWord 64 0x0840_50C0_0050_0000 = some (.addi h0 5 3 5) := by decide
theorem test_decode_addi_big : decodeTableWord 64 0x0841_B0C2_BD00_0000 = some (.addi h0 27 3 0x2BD0) := by decide
theorem test_decode_andi : decodeTableWord 64 0x0A81_F7CF_FFF0_0000 = some (.andi h0 31 31 0xFFFF) := by decide
theorem test_decode_cmpi : decodeTableWord 64 0x0F80_1180_0000_0000 = some (.cmpi h0 .eq 1 6 0) := by decide
theorem test_decode_li : decodeTableWord 64 0x1000_D000_0080_0000 = some (.li h0 13 8) := by decide
theorem test_decode_liw : decodeTableWord 128 (0x1040_7000_0000_0000 + 5 * 2 ^ 64) = some (.liw h0 7 5) := by decide
theorem test_decode_br : decodeTableWord 64 0x1200_003F_FF63_0000 = some (.br ⟨3, 0, 0, 0, 0⟩ (0 - 10)) := by decide
theorem test_decode_loop : decodeTableWord 64 0x1340_D03F_FF90_0000 = some (.loop h0 13 (0 - 7)) := by decide
theorem test_decode_end : decodeTableWord 64 0x1380_0000_0000_0000 = some (.endTask h0) := by decide
theorem test_decode_nop : decodeTableWord 64 0x13C0_0000_0000_0000 = some (.nop h0) := by decide
theorem test_decode_tret : decodeTableWord 64 0x1640_0000_0000_0000 = some (.tret h0) := by decide
theorem test_decode_srd : decodeTableWord 64 0x1681_F000_0110_0000 = some (.srd h0 31 .trapCause) := by decide
theorem test_decode_vfma :
    decodeTableWord 64 0x20DE_28E4_8801_0240 = some (.vfma ⟨1, 0, 1, 2, 0⟩ .bf16 ⟨.rn, false⟩ 2 3 (.v 4) 2 none) := by decide
theorem test_decode_vexpr :
    decodeTableWord 128 (0x281E_88A7_0000_0000 + 0x1452_A441 * 2 ^ 64) =
      some (.vexpr h0 .bf16 ⟨.rn, false⟩ 8 (some 2) (some 7) none none 0x1452_A441) := by decide
theorem test_decode_vrsum :
    decodeTableWord 64 0x2922_6A47_9800_0000 = some (.vrsum h0 .f32 .bf16 ⟨.rn, false⟩ 6 9 (some 6) none) := by decide
theorem test_decode_vextr : decodeTableWord 64 0x2B21_5980_0000_0000 = some (.vextr h0 .f32 21 6 0) := by decide
theorem test_decode_vgqe :
    decodeTableWord 64 0x2E5E_B89C_01B0_0001 = some (.vgqe h0 .bf16 (.fit (some 27)) 11 2 28 0) := by decide
theorem test_decode_tdld : decodeTableWord 64 0x4000_0000_0010_0000 = some (.tdld h0 1) := by decide
theorem test_decode_tld : decodeTableWord 64 0x4200_0440_0020_0000 = some (.tld h0 0 17 2) := by decide
theorem test_decode_mma : decodeTableWord 64 0x4400_4001_0000_0001 = some (.mma h0 true 0 0 1) := by decide
theorem test_decode_ast : decodeTableWord 64 0x4680_4440_0032_0000 = some (.ast ⟨2, 0, 0, 0, 0⟩ ⟨.rn, false⟩ 0 17 3) := by decide
theorem test_decode_ld : decodeTableWord 64 0x5021_A580_0000_0000 = some (.ld h0 (.ty .f32) 26 22 0) := by decide
theorem test_decode_st : decodeTableWord 64 0x5055_A440_0001_0000 = some (.st ⟨1, 0, 0, 0, 0⟩ (.ty .u32) 26 17 0) := by decide
theorem test_decode_red : decodeTableWord 64 0x52A0_0595_0000_0000 = some (.red h0 .f32 22 21 0) := by decide
theorem test_decode_redo : decodeTableWord 64 0x52E0_05D8_0001_0000 = some (.redo ⟨1, 0, 0, 0, 0⟩ .f32 23 24 0) := by decide
theorem test_decode_redc : decodeTableWord 64 0x5300_0000_0001_0000 = some (.redc ⟨1, 0, 0, 0, 0⟩ .rn 0) := by decide
theorem test_decode_fence : decodeTableWord 64 0x5400_04C0_0000_0001 = some (.fence h0 (.rel 19)) := by decide
theorem test_decode_wait : decodeTableWord 64 0x5500_0000_0000_0000 = some (.wait h0) := by decide
theorem test_decode_tlw3 : decodeTableWord 64 0x5600_0653_0001_0003 = some (.tlw ⟨1, 0, 0, 0, 0⟩ 3 25 19 none) := by decide
theorem test_decode_tlw4 : decodeTableWord 64 0x5600_0702_0001_0004 = some (.tlw ⟨1, 0, 0, 0, 0⟩ 4 28 2 none) := by decide
theorem test_decode_mvcall : decodeTableWord 64 0x6001_B000_0541_0000 = some (.mvcall ⟨1, 0, 0, 0, 0⟩ 27 0 84) := by decide
theorem test_decode_mvret : decodeTableWord 64 0x6040_0000_0000_0000 = some (.mvret h0) := by decide
theorem test_decode_cpy : decodeTableWord 64 0x6200_0042_0C00_0000 = some (.cpy h0 false 0 1 2 3 none) := by decide
theorem test_decode_snopen : decodeTableWord 64 0x6800_0042_0000_0000 = some (.snopen h0 0 1 2) := by decide
theorem test_decode_snacc : decodeTableWord 64 0x6840_0000_0000_0000 = some (.snacc h0 0) := by decide

/-- A header is no instruction, neither is a word of zeros, and a reserved guard is refused. -/
theorem test_decode_header : decodeTableWord 64 0xFFC0_8000_0000_C000 = none := by decide
theorem test_decode_zero : decodeTableWord 64 0 = none := by decide
theorem test_decode_guard : decodeTableWord 64 0x13C0_0000_0008_0000 = none := by decide

/-- The encoder writes the worked words. -/
theorem test_encode_vfma : encode (.vfma ⟨1, 0, 1, 2, 0⟩ .bf16 ⟨.rn, false⟩ 2 3 (.v 4) 2 none) = [0x20DE_28E4_8801_0240] := by decide
theorem test_encode_ast : encode (.ast ⟨2, 0, 0, 0, 0⟩ ⟨.rn, false⟩ 0 17 3) = [0x4680_4440_0032_0000] := by decide

/-! ## Ill-formed terms -/

theorem test_wf_guard : (Instr.add ⟨8, 0, 0, 0, 0⟩ 1 2 3).wf = false := by decide
theorem test_wf_hint : (Instr.ld ⟨0, 0, 7, 0, 0⟩ .d 1 2 0).wf = false := by decide
theorem test_wf_no_hint : (Instr.add ⟨0, 0, 7, 0, 0⟩ 1 2 3).wf = true := by decide
theorem test_wf_condition : (Instr.cmp h0 .uo 1 2 3).wf = false := by decide
theorem test_wf_read_only : (Instr.swr h0 1 .coreId).wf = false := by decide
theorem test_wf_float_type : (Instr.vfma h0 .i32 ⟨.rn, false⟩ 1 2 (.v 3) 4 none).wf = false := by decide
theorem test_wf_rounding : (Instr.vadd h0 .i32 ⟨.rz, false⟩ 1 2 (.v 3) none).wf = false := by decide
theorem test_wf_abs_sat : (Instr.vabs h0 .f32 true 1 2 none).wf = false := by decide
theorem test_wf_logic_type : (Instr.vand h0 .f32 1 2 (.v 3) none).wf = false := by decide
theorem test_wf_compare : (Instr.vcmp h0 .f32 .ltu 1 2 (.v 3) none).wf = false := by decide
theorem test_wf_convert : (Instr.vcvt h0 .gq4 .f32 ⟨.rn, false⟩ 1 2 none).wf = false := by decide
theorem test_wf_widen_pair : (Instr.vwadd h0 .i8 false 1 2 (.v 3)).wf = false := by decide
theorem test_wf_narrow : (Instr.vnrw h0 .f32 .bf16 ⟨.rn, false⟩ 1 2).wf = false := by decide
theorem test_wf_expression : (Instr.vexpr h0 .f32 ⟨.rn, false⟩ 1 none none none none 0).wf = false := by decide
theorem test_wf_function : (Instr.vsfu h0 .f32 ⟨.di, false⟩ .rcp 1 2 none).wf = false := by decide
theorem test_wf_sum : (Instr.vrsum h0 .f32 .i32 ⟨.rn, false⟩ 1 2 none none).wf = false := by decide
theorem test_wf_fit : (Instr.vgqe h0 .bf16 (.fit (some 0)) 1 2 3 4).wf = false := by decide
theorem test_wf_random : (Instr.vrng h0 .f16 1 2 3 none).wf = false := by decide
theorem test_wf_dot : (Instr.vdot4 h0 .f32 ⟨.rn, false⟩ 1 2 3 none).wf = false := by decide
theorem test_wf_pair : (Instr.tcmp h0 1 2 1).wf = false := by decide
theorem test_wf_acvt : (Instr.acvt h0 .f32 ⟨.rn, false⟩ 1 0).wf = false := by decide
theorem test_wf_size : (Instr.ld h0 (.ty .i4) 1 2 0).wf = false := by decide
theorem test_wf_order : (Instr.atom h0 .u32 .add false (.acq 0) 1 2 3).wf = false := by decide
theorem test_wf_atom_type : (Instr.cas h0 .f32 false .none 1 2 3).wf = false := by decide
theorem test_wf_close : (Instr.redc h0 .di 0).wf = false := by decide
theorem test_wf_scope : (Instr.fence h0 (.rel 0)).wf = false := by decide
theorem test_wf_optional : (Instr.cpy h0 false 0 1 2 3 (some 0)).wf = false := by decide
theorem test_wf_core : (Instr.timerTrap 1048576).wf = false := by decide
theorem test_wf_block : (Instr.gateBlock 256).wf = false := by decide
theorem test_wf_sequencer : (Instr.endl 0 128).wf = false := by decide
theorem test_wf_queue : (Instr.seedpop ⟨4096, 0, false⟩).wf = false := by decide
theorem test_wf_space : (Instr.endOfWork 65536 0).wf = false := by decide
theorem test_wf_port : (Instr.flitCrcFail 38 0 false).wf = false := by decide
/-! ## One step each -/

/-- The state that an instruction leaves. -/
def run (i : Instr) (s : State) : State :=
  match exec i s with
  | .next t => t
  | _ => s

/-- Registers x1 and x2, and x3 after an instruction of the compute thread. -/
def two (a b : Word) : State := xset (xset sC 1 a) 2 b
def out (i : Instr) (a b : Word) : Word := xget (run i (two a b)) 3

/-- A vector register whose lanes of type t are all x, and the state with v1, v2 and v3. -/
def fill (t : Ty) (x : Nat) : VecVal := BitVec.ofNat 4096 ((List.replicate t.lanes x).foldl (fun acc y => acc * 2 ^ t.width + y) 0)
def vecs (a b c : VecVal) : State := vset (vset (vset sC 1 a) 2 b) 3 c
def vout (t : Ty) (i : Instr) (s : State) (n : Nat) : Nat := lane (vget (run i s) 4) t n

/-- Rounding to nearest. -/
def rn0 : Rnd := ⟨.rn, false⟩

-- R256, Table 13.1
theorem test_add_wraps : out (.add h0 3 1 2) 0xFFFF_FFFF_FFFF_FFFF 2 = 1 := by decide
theorem test_add_x0 : xget (run (.add h0 0 1 2) (two 1 2)) 0 = 0 := by decide
theorem test_add_pc : (thr (run (.add h0 3 1 2) sC)).pc = (thr sC).pc + 8 := by decide
theorem test_sub : out (.sub h0 3 1 2) 1 2 = 0xFFFF_FFFF_FFFF_FFFF := by decide
theorem test_mulh : out (.mulh h0 3 1 2) 0xFFFF_FFFF_FFFF_FFFF 2 = 0xFFFF_FFFF_FFFF_FFFF := by decide
theorem test_mulhu : out (.mulhu h0 3 1 2) 0xFFFF_FFFF_FFFF_FFFF 2 = 1 := by decide
-- R258: −7/2 is −3, and the remainder −1
theorem test_div : out (.div h0 3 1 2) (-7) 2 = -3 := by decide
theorem test_rem : out (.rem h0 3 1 2) (-7) 2 = -1 := by decide
theorem test_div_zero : out (.div h0 3 1 2) 5 0 = -1 := by decide
theorem test_div_overflow : out (.div h0 3 1 2) 0x8000_0000_0000_0000 (-1) = 0x8000_0000_0000_0000 := by decide
theorem test_rem_overflow : out (.rem h0 3 1 2) 0x8000_0000_0000_0000 (-1) = 0 := by decide
theorem test_divu_zero : out (.divu h0 3 1 2) 5 0 = 0xFFFF_FFFF_FFFF_FFFF := by decide
theorem test_remu_zero : out (.remu h0 3 1 2) 5 0 = 5 := by decide
theorem test_andn : out (.andn h0 3 1 2) 0xF0 0x30 = 0xC0 := by decide
theorem test_shl_mod : out (.shl h0 3 1 2) 1 65 = 2 := by decide
theorem test_sar : out (.sar h0 3 1 2) 0x8000_0000_0000_0000 63 = 0xFFFF_FFFF_FFFF_FFFF := by decide
theorem test_rotr : out (.rotr h0 3 1 2) 1 1 = 0x8000_0000_0000_0000 := by decide
theorem test_min : out (.min h0 3 1 2) (-1) 1 = -1 := by decide
theorem test_minu : out (.minu h0 3 1 2) (-1) 1 = 1 := by decide
theorem test_clz : out (.clz h0 3 1) 1 0 = 63 := by decide
theorem test_ctz_zero : out (.ctz h0 3 1) 0 0 = 64 := by decide
theorem test_popc : out (.popc h0 3 1) 0xF0F0 0 = 8 := by decide
theorem test_brev : out (.brev h0 3 1) 1 0 = 0x8000_0000_0000_0000 := by decide
-- R259: a field cut at bit 63
theorem test_bfx_cut : xget (run (.bfx h0 false 3 1 2 4) (xset (two 0xF000_0000_0000_0000 60) 4 8)) 3 = 0xF := by decide
theorem test_bfx_signed : xget (run (.bfx h0 true 3 1 2 4) (xset (two 0xF0 4) 4 4)) 3 = 0xFFFF_FFFF_FFFF_FFFF := by decide
theorem test_lea : out (.lea h0 3 3 1 2) 100 5 = 140 := by decide
theorem test_sel : out (.sel h0 3 1 2 1) 7 9 = 9 := by decide
theorem test_addi_neg : out (.addi h0 3 1 0x3FFFF) 5 0 = 4 := by decide
theorem test_minui_zero_extends : out (.minui h0 3 1 0x3FFFF) 0xFFFF_FFFF_FFFF_FFFF 0 = 0x3FFFF := by decide
theorem test_li_neg : out (.li h0 3 0x20000) 0 0 = 0xFFFF_FFFF_FFFE_0000 := by decide
theorem test_liw_pc : (thr (run (.liw h0 3 5) sC)).pc = (thr sC).pc + 16 := by decide
theorem test_cmp_signed : pget (run (.cmp h0 .lt 1 1 2) (two (-1) 1)) 1 = true := by decide
theorem test_cmp_unsigned : pget (run (.cmp h0 .ltu 1 1 2) (two (-1) 1)) 1 = false := by decide
-- R263: values 0x04 and enables 0x06 clear p2 and set p3 (PSET 0x0604)
theorem test_pset : (thr (run (.pset h0 0x04 0x06) (pset (pset sC 1 true) 2 true))).p = 0x0A := by decide
theorem test_plog : pget (run (.plog h0 3 1 2 0 0xC0) (pset (pset sC 1 true) 2 true)) 3 = true := by decide
theorem test_guard_false : out (.add { h0 with g0 := 1 } 3 1 2) 1 1 = 0 := by decide

-- R264, R265, R270 to R273
theorem test_loop_falls : (thr (run (.loop h0 1 0x3FFF9) (two 1 0))).pc = (thr sC).pc + 8 := by decide
theorem test_br : (thr (run (.br h0 (0 - 1)) sC)).pc = (thr sC).blk := by decide
theorem test_trap_cause : (thr (run (.trap h0 9) sC)).trapCause = 0x30 := by decide
theorem test_trap_pc : (thr (run (.trap h0 9) sC)).trapPc = (thr sC).pc + 8 := by decide
theorem test_tret_task_state : (thr (run (.tret h0) sC)).trapCause = 3 := by decide
theorem test_sxch : out (.sxch h0 3 1 .mqWeight) 5 0 = 1 := by decide
theorem test_swr_mq : (run (.swr h0 1 .mqWeight) (two 9 0)).core.mqWeight = 8 := by decide
theorem test_wrong_thread : (thr (run (.mvret h0) sC)).trapCause = causeIllegalThread := by decide

-- R278, R283, R284
theorem test_vadd_wraps : vout .u32 (.vadd h0 .u32 rn0 4 1 (.v 2) none) (vecs (fill .u32 0xFFFF_FFFF) (fill .u32 100) 0) 127 = 99 := by decide
theorem test_vadd_sat : vout .u32 (.vadd h0 .u32 ⟨.rn, true⟩ 4 1 (.v 2) none) (vecs (fill .u32 0xFFFF_FFFF) (fill .u32 100) 0) 0 = 0xFFFF_FFFF := by decide
/-- 1.5 × 2 + 0.5 is 3.5. -/
theorem test_vfma : vout .f32 (.vfma h0 .f32 rn0 4 1 (.v 2) 3 none)
    (vecs (fill .f32 0x3FC0_0000) (fill .f32 0x4000_0000) (fill .f32 0x3F00_0000)) 127 = 0x4060_0000 := by decide
theorem test_vfnma : vout .f32 (.vfnma h0 .f32 rn0 4 1 (.v 2) 3 none)
    (vecs (fill .f32 0x3FC0_0000) (fill .f32 0x4000_0000) (fill .f32 0x3F00_0000)) 0 = 0xC020_0000 := by decide
theorem test_vmin_nan : vout .f32 (.vmin h0 .f32 4 1 (.v 2) none) (vecs (fill .f32 0x7FC0_0001) (fill .f32 0) 0) 0 = 0x7FC0_0000 := by decide
theorem test_vabs_wraps : vout .i32 (.vabs h0 .i32 false 4 1 none) (vecs (fill .i32 0x8000_0000) 0 0) 0 = 0x8000_0000 := by decide
theorem test_vsar_out : vout .i32 (.vsar h0 .i32 4 1 (.v 2) none) (vecs (fill .i32 0x8000_0000) (fill .i32 99) 0) 5 = 0xFFFF_FFFF := by decide
theorem test_vadd_mask : vout .u32 (.vadd h0 .u32 rn0 4 1 (.v 2) (some 1)) (vecs (fill .u32 1) (fill .u32 1) 0) 0 = 0 := by decide
theorem test_vcmp : (kget (run (.vcmp h0 .i32 .lt 1 1 (.v 2) none) (vecs (fill .i32 0xFFFF_FFFF) (fill .i32 0) 0)) 1).toNat = 2 ^ 128 - 1 := by
  decide
theorem test_kpop : xget (run (.kpop h0 3 1) (kset sC 1 0xF1)) 3 = 5 := by decide
theorem test_kfirst_none : xget (run (.kfirst h0 3 1) sC) 3 = 1024 := by decide
-- R288: 1.5 rounds to the even 2, 300 clamps to 127
theorem test_vcvt_even : vout .i8 (.vcvt h0 .i8 .f32 rn0 4 1 none) (vecs (fill .f32 0x3FC0_0000) 0 0) 0 = 2 := by decide
theorem test_vcvt_sat : vout .i8 (.vcvt h0 .i8 .f32 ⟨.rn, true⟩ 4 1 none) (vecs (fill .f32 0x4396_0000) 0 0) 0 = 127 := by decide
theorem test_vextr_signed : xget (run (.vextr h0 .i8 3 1 0) (vecs (fill .u32 0x80) 0 0)) 3 = 0xFFFF_FFFF_FFFF_FF80 := by decide
theorem test_viota : vout .u32 (.viota h0 .u32 4 1 none) (two 7 0) 3 = 10 := by decide
theorem test_vrsum : vout .f32 (.vrsum h0 .f32 .f32 rn0 4 1 none none) (vecs (fill .f32 0x3F80_0000) 0 0) 0 = 0x4300_0000 := by decide
theorem test_vdot4 : vout .i32 (.vdot4 h0 .i8 rn0 4 1 2 none) (vecs (fill .i8 0xFF) (fill .i8 3) 0) 0 = 0xFFFF_FFF4 := by decide
-- R183, R302
theorem test_vrng : vout .u32 (.vrng h0 .u32 4 1 0 none) (two 1 0) 0 = 0x5227_3A61 := by decide

-- R306, R310 to R325
theorem test_tdld_traps : (thr (run (.tdset h0 .base 1 0) sC)).trapCause = causeDescriptor := by decide
theorem test_tzero_queued : (run (.tzero h0 2) sC).core.mq.map (·.op) = [.tzero 2] := by decide
theorem test_mqry : xget (run (.mqry h0 3) (run (.tzero h0 2) sC)) 3 = 0x1_0001_0107 := by decide
theorem test_mma_shape : (thr (run (.mma h0 true 0 0 1) { sC with core := { sC.core with
  tshape := sC.core.tshape.set 0 0x0008_2007 } })).trapCause = causeMatrix := by decide

-- R330, R333: a store and a load of the core's own scratchpad (R76)
theorem test_st_local : readByte (run (.st h0 .d 2 1 0) (two 0x00F0_0000_0000_0040 0x1122)).mem (localKey 0 0x40) = 0x22 := by decide
theorem test_ld_signed : out (.ld h0 (.ty .i8) 3 1 0) 0x00F0_0000_0000_0040 0 = 0 := by decide
theorem test_ld_global : (run (.ld h0 .d 3 1 0) (two 0x1000 0)).net.length = 1 := by decide
theorem test_atom_misaligned : (thr (run (.atom h0 .u32 .add false .none 3 1 2) (two 2 0))).trapCause = causeAlignment := by decide
theorem test_atom_parks : (thr (run (.atom h0 .u32 .add false .none 3 1 2) (two 0x1000 0))).pc = (thr sC).pc := by decide
-- R59: no group
theorem test_wait_faults : (thr (run (.wait h0) sC)).trapCause = causeBarrier := by decide
theorem test_redc_faults : (thr (run (.redc h0 .rn 0) { sC with core := { sC.core with ctx := some 1 } })).trapCause ≠ 0 := by decide

-- R347, R348, R361
theorem test_hqry : xget (run (.hqry h0 3 0) sC) 3 = 0 := by decide
theorem test_hrsv_faults : (thr (run (.hrsv h0 0) sC)).trapCause = causeHandle := by decide
theorem test_mvcall : (run (.mvcall h0 1 2 84) (two 5 6)).core.mvq = [((thr sC).pc + 672, 5, 6, 0)] := by decide
theorem test_mvret : (thr (run (.mvret h0) sM)).active = false := by decide
theorem test_sleep : (thr (run (.sleep h0 3 1) (two 5 0))).wait = .sleep 3 5 := by decide

-- device steps
theorem test_boot_pending : State.reset.pending = [.boot] := rfl
theorem test_waitcfg : (run (.waitcfgWrite 0x1_0000_0007) sC).dev.waitcfg = 7 := by decide
theorem test_svn_low : (run (.svnadv 1) sC).dev.svcStatus = 4 := by decide
theorem test_unknown : (run (.unknownCommand 99) sC).dev.svcStatus = 1 := by decide
theorem test_contain_form : (run (.contain 0x0000_0001_0000_0000) sC).dev.svcStatus = 3 := by decide
theorem test_corrected : (blockAt (run (.correctedError 3) sC) 3).ce = 1 := by decide
/-- Table 3.2: MASKB 0b0110, 4096, tag 3; LOOP 10; HALT. -/
theorem test_entry_maskb : entryStep 5 9 0x2300_1000_0000_0006 = some (.maskb 5 9 3 4096 6) := by decide
theorem test_entry_loop : entryStep 5 9 0x3000_0000_0000_000A = some (.loopEntry 5 9 10) := by decide
theorem test_entry_halt : entryStep 5 9 0x7000_0000_0000_0000 = some (.halt 5 9) := by decide
/-- A step runs the word that is placed. -/
theorem test_step_addi :
    (match step ((xset State.reset 3 7).withFetchWord 64 0x0840_50C0_0050_0000) with | .next t => xget t 5 | _ => 0) = 12 := by decide
/-! ## States that meet the hypotheses of the statements -/

/-- Every ready state here: a compute thread, a movement thread, and changes that leave them ready. -/
theorem rC (u : Uses) : Ready infoC h0 u sC := ready_of_bool (by decide) u
theorem rCM (u : Uses) : Ready infoCM h0 u sC := ready_of_bool (by decide) u
theorem rJ (u : Uses) : Ready infoJump h0 u sC := ready_of_bool (by decide) u
theorem rM (u : Uses) : Ready infoM h0 u sM := ready_of_bool (by decide) u

/-- Rectangle of the octet of core 0. -/
def octet0 : Word := rectWord ⟨0, 0, 1, 3⟩
/-- The core and the thread changed. -/
def withCore (f : Core → Core) : State := { sC with core := f sC.core }
def withThr (f : Thread → Thread) (s : State) : State := setThr s (f (thr s))
def withDev (f : Device → Device) : State := { sC with dev := f sC.dev }

theorem wit_RegisterArithmetic : Ready infoCM h0 { xr := [1, 2], xw := [3] } sC ∧ Ready infoCM h0 { xr := [1, 2], xw := [0], pr := [7] } sC :=
  ⟨rCM _, rCM _⟩

theorem wit_DivisionResults :
    (Ready infoCM h0 { xr := [1, 2], xw := [3] } (two 5 0) ∧ xget (two 5 0) 2 = 0) ∧
    (Ready infoCM h0 { xr := [1, 2], xw := [3] } (two 0x8000_0000_0000_0000 (-1)) ∧
      (xget (two 0x8000_0000_0000_0000 (-1)) 1).toInt = -2 ^ 63 ∧ (xget (two 0x8000_0000_0000_0000 (-1)) 2).toInt = -1) ∧
    (Ready infoCM h0 { xr := [1, 2], xw := [3] } (two (-7) 2) ∧ xget (two (-7) 2) 2 ≠ 0 ∧ (xget (two (-7) 2) 1).toInt ≠ -2 ^ 63) :=
  ⟨⟨ready_of_bool (by decide) _, by decide⟩, ⟨ready_of_bool (by decide) _, by decide, by decide⟩,
    ⟨ready_of_bool (by decide) _, by decide, by decide⟩⟩

theorem wit_BitOperations :
    (Ready infoCM h0 { xr := [1], xw := [3] } (two 0 0) ∧ xget (two 0 0) 1 = 0) ∧
    (Ready infoCM h0 { xr := [1], xw := [3] } (two 1 0) ∧ xget (two 1 0) 1 ≠ 0) ∧
    Ready infoCM h0 { xr := [1, 2, 3, 4], xw := [5] } sC :=
  ⟨⟨ready_of_bool (by decide) _, by decide⟩, ⟨ready_of_bool (by decide) _, by decide⟩, rCM _⟩

theorem wit_ImmediateForms :
    Ready infoCM h0 { xr := [1], xw := [3] } sC ∧ Ready { infoCM with words := 2 } h0 { xw := [3] } sC :=
  ⟨rCM _, ready_of_bool (by decide) _⟩

theorem wit_PredicateWrites : Ready infoCM h0 { xr := [1, 2], pw := [3] } sC ∧ Ready infoCM h0 { pr := [1, 2, 3], pw := [0] } sC :=
  ⟨rCM _, rCM _⟩

theorem wit_ScalarRegisters : (31 : XReg) ≠ 0 ∧ (1 : XReg) ≠ 31 ∧ (7 : PReg) ≠ 0 ∧ (0 : PReg) ≠ 7 := by decide

/-- A block at 0 and a word in it: its header is a target, its second word is none. -/
theorem wit_Transfers :
    (Ready infoJump h0 { xr := [1], xw := [1] } (two 0 0) ∧ headerAt (two 0 0) (two 0 0).me (thr (two 0 0)) (xget (two 0 0) 1) ≠ some false) ∧
    headerAt sC sC.me (thr sC) ((thr sC).pc + 8 * (0x3FFFF : BitVec 18).signExtend 64) ≠ some false ∧
    (Ready infoJump h0 { xr := [1], xw := [1] } (two 4 0) ∧ headerAt (two 4 0) (two 4 0).me (thr (two 4 0)) (xget (two 4 0) 1) = some false) ∧
    (Ready infoCM h0 { xr := [1], xw := [1] } (two 1 0) ∧ xget (two 1 0) 1 - 1 = 0) ∧ xget (two 0 0) 1 - 1 ≠ 0 :=
  ⟨⟨ready_of_bool (by decide) _, by decide⟩, by decide, ⟨ready_of_bool (by decide) _, by decide⟩, ⟨ready_of_bool (by decide) _, by decide⟩,
    by decide⟩

/-- A relative target that is no header: a thread whose pc is no multiple of 8. -/
theorem wit_Transfers_bad :
    let s := withThr (fun t => { t with pc := 12 }) (two 0 0)
    Ready infoJump h0 { xr := [1], xw := [1] } s ∧ headerAt s s.me (thr s) ((thr s).pc + 8 * (0 : BitVec 18).signExtend 64) = some false ∧
      xget s 1 ≠ 1 :=
  ⟨ready_of_bool (by decide) _, by decide, by decide⟩

theorem wit_FuseSplitAndSleep :
    let s := withCore (fun k => { k with launchRect := octet0 })
    let w := withCore (fun k => { k with wake := true })
    fuseLegal 0 s = false ∧ fuseLegal 1 s = true ∧ (fuseLegal 3 s = true ∧ (maskCores s.me 3).length > 1 ∧ (3 : BitVec 8) ≠ s.core.gang) ∧
    Ready infoC h0 {} s ∧ (maskCores s.me s.core.gang).length ≤ 1 ∧
    (Ready infoC h0 { xr := [1], xw := [3] } w ∧ w.core.wake = true) ∧
    (Ready infoC h0 { xr := [1], xw := [3] } (two 0 0) ∧ (two 0 0).core.wake = false ∧ (xget (two 0 0) 1).toNat ≤ (two 0 0).dev.time) ∧
    (two 0 0).dev.time < (xget (two 1 0) 1).toNat :=
  ⟨by decide, by decide, by decide, ready_of_bool (by decide) _, by decide, ⟨ready_of_bool (by decide) _, by decide⟩,
    ⟨ready_of_bool (by decide) _, by decide, by decide⟩, by decide⟩

/-- A thread that waits at its instruction. -/
def waiting (w : WaitState) : State := withThr (fun t => { t with wait := w }) sC

theorem wit_FuseSplitAndSleep_waits :
    let s := waiting (.sleep 3 5)
    (s.core.ct.wait = .sleep 3 5 ∧ (3 : XReg) ≠ 0 ∧ s.core.wake = false ∧ s.dev.slow = 0) ∧ s.core.stopped = false ∧ s.core.contained = false ∧
    s.core.dbg.halted = false ∧ (blockAt s (blockOf s.me)).gated = false ∧ sC.core.ct.wait = .none := by decide

theorem wit_TrapsAndReturns :
    Ready infoJump h0 {} sC ∧ endsBlock sC sC.me sC.onMt 1 = false ∧ (thr sC).entered = true ∧ sC.core.dbg.ctl.getLsbD 34 = false ∧
    (let s := withCore (fun k => { k with dbg := { k.dbg with ctl := 0x4_0000_0000 } }); Ready infoJump h0 {} s ∧ s.core.dbg.ctl.getLsbD 34 = true) ∧
    (let s := withThr (fun t => { t with priv := true }) sC; Ready { infoCM with priv := true, transfer := true } h0 {} s) ∧
    ((issueSet sC).length ≤ 1 ∧ (thr sC).priv = false) :=
  ⟨rJ _, by decide, by decide, by decide, ⟨ready_of_bool (by decide) _, by decide⟩, ready_of_bool (by decide) _, by decide⟩

/-- The last word of a block, with another block behind it. -/
theorem wit_TrapsAndReturns_end :
    let s := withThr (fun t => { t with pc := 24 }) (withCore (fun k =>
      { k with ibuf := k.ibuf ++ [{ head := 32, words := [0xFFC0_6000_0000_0000], u := true, poison := false }] }))
    Ready infoJump h0 {} s ∧ endsBlock s s.me s.onMt 1 = true := ⟨ready_of_bool (by decide) _, by decide⟩

theorem wit_SystemRegisters :
    (let s := withThr (fun t => { t with priv := true }) sC; Ready { infoCM with priv := true } h0 { xr := [1], xw := [3] } s) ∧
    Ready { infoCM with priv := SysReg.readPriv .time } h0 { xw := [3] } sC ∧ sC.me < 2 ^ 20 :=
  ⟨ready_of_bool (by decide) _, ready_of_bool (by decide) _, by decide⟩

theorem wit_WrongThreadTakesTheFault :
    (encode (.mvret h0)).head? = some 0x6040_0000_0000_0000 ∧ (issueSet sC).length ≤ 1 ∧
    (if sC.onMt then (threadsOfOp ((0x6040_0000_0000_0000 : Word).extractLsb' 54 10)).movement
      else (threadsOfOp ((0x6040_0000_0000_0000 : Word).extractLsb' 54 10)).compute) = false := by decide

theorem wit_FalseGuardHasNoEffect :
    let i := Instr.nop { h0 with g0 := 1 }
    let w : Word := 0x13C0_0000_0001_0000
    (encode i).head? = some w ∧ (issueSet sC).length ≤ 1 ∧
    (if sC.onMt then (threadsOfOp (w.extractLsb' 54 10)).movement else (threadsOfOp (w.extractLsb' 54 10)).compute) = true ∧
    privDenied w = false ∧ (thr sC).slots = [] ∧ sC.core.pPoison = 0 ∧ guardBit (thr sC) (w.extractLsb' 16 4) = false ∧
    badFall sC (encode i).length = none := by decide
/-- The descriptor of the spec's example tensor, word 7 first (R187). -/
def descM : DescVal :=
  BitVec.ofNat 512 ([0x0000_0000_0080_0001, 0, 0x0001_0000_0000_0000, 0x0020_0000_0000_0000, 0x0020_0000_0000_0040, 0x0000_0001_0000_0001,
    0x0000_0020_0000_0020, 0xA700_0010_0000_0000].foldl (fun acc x => acc * 2 ^ 64 + x) 0)

/-- A context table of zeros but for the identifier. -/
def tab1 : CtxTab :=
  { pa := 0, asid := 1, ptroot := 0, tdt := 0, tvec := 0, tcmp := 0, cntb := 0, pool := 0, eng := 0, save := 0, bsbase := 0, bssize := 0
    shlim := 0, pinlim := 0, shpool := 0, shres := 0, wait := 0, grants := [], peers := [], evlog := 0, evbase := 0, msia := 0, msid := 0
    bssave := 0 }

/-- A state whose context 1 and whose focused core are changed; the core runs context 1 in a launch with timelines. -/
def withCtx (b : State) (f : Context → Context) (g : Core → Core) : State :=
  { b with
    ctxs := [(1, f (freshCtx tab1 0))]
    core := g { b.core with ctx := some 1, tls := some { serial := 1, tl := Vector.replicate 8 { i := 0, v := 0, doneAbove := [] } } } }

theorem wit_VectorSumsAndProducts :
    ((Instr.vadd h0 .u32 ⟨.rn, true⟩ 4 1 (.v 2) (some 1)).wf = true ∧ Ready infoC h0 (usesV 4 (1 :: kept 4 (some 1)) (.v 2) (some 1)) sC ∧
      Ty.u32.inIA = true) ∧
    ((Instr.vadd h0 .f32 ⟨.di, false⟩ 4 1 (.x 2) none).wf = true ∧ Ready infoC h0 (usesV 4 (1 :: kept 4 none) (.x 2) none) sC ∧
      Ty.f32.inFA = true) := ⟨⟨by decide, rC _, by decide⟩, by decide, rC _, by decide⟩

theorem wit_VectorFusedForms :
    (Instr.vfma h0 .bf16 rn0 4 1 (.v 2) 3 none).wf = true ∧ Ready infoC h0 (usesV 4 (1 :: 3 :: kept 4 none) (.v 2) none) sC :=
  ⟨by decide, rC _⟩

theorem wit_VectorExtremesAndSigns :
    ((Instr.vmin h0 .i8 4 1 (.v 2) none).wf = true ∧ Ty.i8.inIA = true) ∧ ((Instr.vmin h0 .f16 4 1 (.v 2) none).wf = true ∧ Ty.f16.inFA = true) ∧
    ((Instr.vabs h0 .i16 true 4 1 none).wf = true ∧ Ty.i16.isInt = true) ∧ ((Instr.vabs h0 .f32 false 4 1 none).wf = true ∧ Ty.f32.inFA = true) ∧
    Ready infoC h0 (usesV 4 (1 :: kept 4 none) (.v 2) none) sC ∧ Ready infoC h0 { vr := 1 :: kept 4 none, vw := [4], kr := [] } sC :=
  ⟨by decide, by decide, by decide, by decide, rC _, rC _⟩

theorem wit_VectorLogicAndShifts :
    Ready infoC h0 (usesV 4 (1 :: kept 4 none) (.v 2) none) sC ∧ Ready infoC h0 { vr := 1 :: kept 4 none, vw := [4], kr := [] } sC := ⟨rC _, rC _⟩

theorem wit_MasksAndSelection :
    Ready infoC h0 { vr := [1, 2], kr := [1], kw := [1] } sC ∧ Ready infoC h0 { vr := [1, 2], kr := [1], vw := [4] } sC ∧
    (Ready infoC h0 { kr := [1], xw := [3] } sC ∧ kget sC 1 = 0) ∧ Ready infoC h0 { kr := [1], xw := [3] } (kset sC 1 2) ∧
    kget (kset sC 1 2) 1 ≠ 0 := ⟨rC _, rC _, ⟨rC _, by decide⟩, ready_of_bool (by decide) _, by decide⟩

theorem wit_VectorConversions :
    Ready infoC h0 { vr := [1, 4], vw := [4], kr := [] } sC ∧ narrowFactor .bf16 .f32 = some 2 ∧ narrowFactor .i8 .f32 = some 4 ∧
    Ready infoC h0 { vr := regsFrom 0 4, vw := [4] } sC := ⟨rC _, by decide, by decide, rC _⟩

theorem wit_WideningForms :
    (Ty.i8.widen true = some .i32 ∧ (Instr.vwadd h0 .i8 true 4 1 (.v 2)).wf = true ∧
      Ready infoC h0 { vr := 1 :: vxV (.v 2) ++ regsFrom 4 (widenBy true), xr := vxX (.v 2), vw := regsFrom 4 (widenBy true) } sC) ∧
    (Ty.bf16.widen false = some .f32 ∧ (Instr.vwadd h0 .bf16 false 2 1 (.x 2)).wf = true) := ⟨⟨by decide, by decide, rC _⟩, by decide⟩

/-- A literal that leaves its input a, and the spec's example, which leaves two entries. -/
theorem wit_ExpressionsAndFunctions :
    ((vexprScan 1).depth ≠ 2 ∧ Ready { infoC with words := 2 } h0 { vr := [2], vw := [8] } sC) ∧
    ((vexprScan 0x1452_A441).depth = 2 ∧ Ready { infoC with words := 2 } h0 { vr := [2, 7], vw := [8, 9] } sC) ∧
    Ready infoC h0 { vr := [1], vw := [4], kr := [] } sC :=
  ⟨⟨by decide, ready_of_bool (by decide) _⟩, ⟨by decide, ready_of_bool (by decide) _⟩, rC _⟩
/-- The tokens IN0 and NEG, step by step; the special values of a function and a value between two bounds. -/
theorem wit_ExpressionsAndFunctions_steps (ins : Nat → StackEnt) (put : Machine.Real → StackEnt) (f : Fn → Machine.Real → StackEnt) :
    let st (j : Nat) : List StackEnt := match j with | 0 => [] | 1 => [ins 0] | _ => [put (ins 0).val.neg]
    (vexprBody (vexprTokens 0x1C1)).1 = [1, 14] ∧ st 0 = [] ∧ TokenStep ins put f 1 (st 0) (st 1) ∧ TokenStep ins put f 14 (st 1) (st 2) ∧
    specialValue .rcp (.fin true 0 0) = some (.inf true) ∧ specialValue .exp2 (.fin false 1 0) = none :=
  ⟨by decide, rfl, Or.inl ⟨by decide, by decide, rfl⟩, rfl, rfl, rfl⟩

theorem wit_ReductionsAndScans :
    Ready infoC h0 { vr := 1 :: 4 :: optReg (some 6), vw := [4], kr := optReg (some 1) } sC ∧
    Ready infoC h0 { vr := 1 :: kept 4 none, vw := [4], kr := [] } sC ∧ Ready infoC h0 { vr := [1, 2], vw := [4] } sC := ⟨rC _, rC _, rC _⟩

theorem wit_LanesMoved :
    Ready infoC h0 { vr := [1, 2], vw := [4] } sC ∧ Ready infoC h0 { vr := [1], xr := [1], vw := [4] } sC ∧
    Ready infoC h0 { xr := [1, 2], vr := [4], vw := [4] } sC ∧ Ready infoC h0 { vr := [1], kr := [1], vw := [4] } sC ∧
    Ready infoC h0 { xr := [1], vr := [1], xw := [3] } sC := ⟨rC _, rC _, rC _, rC _, rC _⟩

theorem wit_CodesAndRandomNumbers :
    Ty.bf16.inFA = true ∧ Ready infoC h0 { xr := [1, 2], vr := [1, 4], vw := [4] } sC ∧ Ready infoC h0 { xr := [1, 2], xw := [3], vr := [1, 4], vw := [4] } sC :=
  ⟨by decide, rC _, rC _⟩

/-- A thread whose read of 64 bytes has come; the entry it read is the example, or zeros. -/
def sTd (bs : List Byte) : State := withThr (fun t => { t with got := bs }) (withCtx sC (fun c => c) (fun k => k))
theorem wit_DescriptorTable :
    (let s := sTd (leBytes 64 descM.toNat)
     Ready infoC h0 {} s ∧ badAperture s (s.core.tdtBase + 64 * (1 : BitVec 8).setWidth 64) 64 = false ∧ (thr s).got ≠ [] ∧
       descValid (BitVec.ofNat 512 (leNat (thr s).got)) = true ∧ (myCtx s).isSome = true) ∧
    (let s := sTd (List.replicate 64 0)
     Ready infoC h0 {} s ∧ (thr s).got ≠ [] ∧ descValid (BitVec.ofNat 512 (leNat (thr s).got)) = false) :=
  ⟨⟨ready_of_bool (by decide) _, by decide, by decide, by decide, by decide⟩, ready_of_bool (by decide) _, by decide, by decide⟩

def sLd : State := xset (xset (withCtx sC (fun c => { c with ldt := [(1, descM)] }) (fun k => k)) 1 0x40) 2 0x80
theorem wit_DescriptorTable_entries :
    Ready infoC h0 { xr := [1] } sLd ∧ ((xget sLd 1).toNat % 64 = 0 ∧ (xget sLd 1).toNat + 64 ≤ 2 ^ 56 ∧ badAperture sLd (xget sLd 1) 64 = false ∧
      storeRoom sLd = true) ∧ (xget (two 1 0) 1).toNat % 64 ≠ 0 ∧
    ldtGet sLd 1 = some descM ∧ (tdsetEntry .base descM (xget sLd 2)).any descValid = true ∧ ldtGet sLd 2 = none :=
  ⟨ready_of_bool (by decide) _, by decide, by decide, by decide, by decide, by decide⟩

/-- Tiles of 32 × 32 BF16 elements, and the dense, sparse and metadata shapes of MMAS. -/
def sMx : State := { sLd with core := { sLd.core with tshape := #v[mkShape 0 32 32 7, mkShape 1 32 16 7, mkShape 2 32 8 0, 0] } }
theorem wit_MatrixCommandsJoinTheQueue :
    (Ready infoC h0 {} sMx ∧ sMx.core.mq.length < 8) ∧ ttrnOk (shapeGet sMx.core 0) = true ∧ tcmpOk (shapeGet sMx.core 0) = true ∧
    mmaOk (shapeGet sMx.core 0) (shapeGet sMx.core 0) = true ∧
    mmasOk (shapeGet sMx.core 1) (shapeGet sMx.core 0) (shapeGet sMx.core 2) = true ∧ mmaOk (shapeGet sMx.core 0) (shapeGet sMx.core 3) = false ∧
    ttrnOk (shapeGet sMx.core 3) = false :=
  ⟨⟨ready_of_bool (by decide) _, by decide⟩, by decide, by decide, by decide, by decide, by decide, by decide⟩

theorem wit_MatrixCommandsJoinTheQueue_memory :
    ldtGet sMx 1 = some descM ∧ tensorOk descM (xget sMx 3) = true ∧ tileExtentOk descM = true ∧ shapeLegal (shapeGet sMx.core 0) = true ∧
    shapeGet sMx.core 0 &&& 0xFF_FF0F = tileShape descM ∧ accExtentOk descM = true ∧ aldType (dType descM) = true ∧
    astType (dType descM) = true ∧ ldtGet sMx 2 = none :=
  ⟨by decide, by decide, by decide, by decide, by decide, by decide, by decide, by decide, by decide⟩

/-- A full queue. -/
def cmd (op : MOp) : MCmd :=
  { op := op, word := 0, num := 1, serial := 1, shapes := sMx.core.tshape, desc := 0, priv := false, ch := 0, after := 0, cursor := 0, started := true
    stopped := false, raised := false, partners := [], proxy := false, bshape := 0, bcore := 0, failed := false, silent := false, why := 0 }
theorem wit_MatrixCommandsJoinTheQueue_full :
    let s := { sMx with core := { sMx.core with mq := List.replicate 8 (cmd (.tzero 0)) } }
    Ready infoC h0 {} s ∧ ¬ s.core.mq.length < 8 ∧ s.core.mq.length ≤ 8 := ⟨ready_of_bool (by decide) _, by decide, by decide⟩

def sQ (c : MCmd) : State := { sMx with core := { sMx.core with mq := [c] } }
theorem wit_MatrixExecution :
    (∀ op ∈ [MOp.tzero 0, .azero 1, .ttrn 1 0, .acvt .bf16 rn0 3 1, .aadd true 0 0 1, .mma true 0 0 0],
      mqHead (sQ (cmd op)) 0 = some (cmd op) ∧ cmdFailing (sQ (cmd op)) 0 (cmd op) = [] ∧ cmdMem op = false) ∧
    ttrnOk (cmdShape (cmd (.ttrn 1 0)) 0) = true ∧ Ty.bf16.inAcvt = true := ⟨by decide, by decide, by decide⟩

theorem wit_MatrixExecution_arbitration :
    let c := { cmd (.tzero 0) with started := false }
    unitBusy (sQ (cmd (.tzero 0))) (octetCores 0 0) = true ∧ unitBusy (sQ c) (octetCores 0 0) = false ∧
    nextTurn (sQ c) (octetCores 0 0) 0 0 = some (0, 1) ∧ mqHead (sQ c) ((octetCores 0 0).getD 0 0) = some c ∧
    rampAllows (blockAt (sQ c) 0) (sQ c).dev (cmdCycles (sQ c) 0 c) = true ∧ (1 : Nat) ≠ 0 := by decide

theorem wit_MatrixExecution_window :
    let s := withDev (fun d => { d with time := 1000 })
    (blockAt s 0).rampAt < s.dev.time / 1000 := by decide

/-- Two cores of an octet in a gang, each at the same instruction. -/
def sG : State :=
  let k := { sMx.core with gang := 3, ct := { sMx.core.ct with priv := false } }
  { sMx with core := k, cores := [(1, k)] }
theorem wit_Gangs :
    sG.onMt = false ∧ sG.me < 2 ^ 20 ∧ mapSorted sG.cores = true ∧ mapGet sG.cores sG.me = none ∧ 2 ≤ (gangOf sG sG.me).length ∧
    sG.me ∈ gangOf sG sG.me ∧ (∀ c ∈ gangOf sG sG.me, (coreOf sG c).gang = sG.core.gang) ∧
    badFall (focusOn sG ((gangOf sG sG.me).headD sG.me) false) 1 = none ∧ (thr sG).priv = false ∧
    (∀ c ∈ gangOf sG sG.me, guards (threadOf sG c false) h0 = true ∧ (coreOf sG c).mq.length < 8) := by decide
theorem wit_Gangs_operands :
    (∀ c ∈ gangOf sG sG.me, awaited (threadOf sG c false) { xr := [1, 2], xw := [3] } = false ∧ guardPoison (coreOf sG c) false h0 = false ∧
      readsPoison (coreOf sG c) false { xr := [1, 2], xw := [3] } = false) ∧
    ((threadOf sG 0 false).xget 4).toNat < 256 ∧ ((threadOf sG 0 false).xget 4).setWidth 8 &&& ~~~sG.core.gang = 0 ∧
    (∀ c ∈ gangOf sG sG.me, mmaOk (shapeGet (coreOf sG c) 0) (shapeGet (coreOf sG 0) 0) = true) := by decide
theorem wit_StepRunsTheDecodedInstruction :
    acts sC = [.issue 0 false] ∧ atWord (focusOn sC 0 false) 0 false = true ∧
    (∀ m ∈ together (focusOn sC 0 false) 0 false, (threadOf (focusOn sC 0 false) m false).pendTraps = []) ∧
    firing sC = [] ∧ (thr sC).yielded = false ∧ (coreOf sC sC.me).win = 0 ∧ wordsAt (focusOn sC 0 false) 0 false = some (0x13C0_0000_0000_0000, some 0) ∧ evOk (.gateBlock 3) = true := by decide
theorem wit_StepRunsTheDecodedInstruction_calm : urgent sC = [] := rfl
theorem wit_StepRunsTheDecodedInstruction_timer :
    let g := advanceToCycle (focusOn sC 0 false) 0 (issueAt (focusOn sC 0 false) 0)
    (together g 0 false).any (fun m => timerDue g (coreOf g m)) = false ∧ (thr sC).notBefore ≤ (thr sC).lastIssue + 1 ∧
    (∀ q ∈ issueSet sC, (threadOf sC q (!sC.onMt)).lastIssue ≤ cycleNow sC (blockOf q) →
      (threadOf sC q (!sC.onMt)).lastIssue < (thr sC).lastIssue + 1) := by decide
/-- An entry all of whose members wait fires; a change of the clocks is due, and an act that passes it gives way. -/
theorem wit_StepRunsTheDecodedInstruction_due :
    (let q := { Sequencer.reset with st := .run, gsz := 3, pcnt := 9
                                     buf := [{ mask := 1, wait := 1, abs := 0, cnt := 0, sq := 0, tagged := false, tag := 0, fired := none }] }
     firing { sC with blocks := [(0, { Block.reset with seqs := [(0, q)] })] } = [.fire 0 0 0]) ∧
    (let s := { sC with dev := { sC.dev with time := 2 * windowTicks, hiveUp := true, pend := true, nopp := 1, ctick := 2 } }
     firing s = [] ∧ (firstDue (dues s)).any (fun d => d.reached s && d.ev == .oppChange) = true ∧
       (firstDue (dues { s with dev := { s.dev with time := 2 * windowTicks - 1 } })).any (fun d => d.passed s || evOk d.ev) = true) := by decide
theorem wit_StepRunsTheDecodedInstruction_pick : pick sC = some (.issue 0 false, sC) := rfl
theorem wit_StepRunsTheDecodedInstruction_decodes :
    (match decodeWord 0x13C0_0000_0000_0000 (some 0) with | .ok i => decide (i = .nop h0) | .error _ => false) = true := by decide
theorem wit_StepRunsTheDecodedInstruction_device :
    let s := { sC with core := Core.reset, pending := [], dev := { sC.dev with time := 2000 },
                       blocks := [(0, { Block.reset with rampCur := 5 })] }
    (match pick s with | some (.step e, _) => evOk e | _ => false) = true := by decide

theorem wit_EncodingRoundTrips : (Instr.add h0 1 2 3).wf = true ∧ encode (.add h0 1 2 3) ≠ [] := by decide

theorem wit_MemoryKeepsItsForm :
    memWf [(⟨5, 1⟩ : Host.Cell)] = true ∧ (0 : Nat) + 4 ≤ 4 ∧ (4 : Nat) + 4 ≤ 8 := by decide

theorem wit_CoreAndOctetNumbers : (1023 : Nat) < 1024 ∧ (0 : Nat) ≤ 0 ∧ (0 : Nat) ≤ 1023 ∧ (1048575 : Nat) < 2 ^ 20 := by decide

/-- The address of the core's own scratchpad in x1 (R73), a store datum in x2. -/
def sAp : State := two 0x00F0_0000_0000_0040 0x1122
theorem wit_LoadsComplete_scalar :
    Ready infoC h0 { xr := [1], xw := [3] } sAp ∧ checkVa sAp (xget sAp 1 + (0 : BitVec 18).signExtend 64) 8 false = none ∧
    slotsUsed (thr sAp) < 8 ∧ (let key := localKey 0 0x40
      partsOf sAp 0x00F0_0000_0000_0040 8 = some [(key, 0x00F0_0000_0000_0040, 8, 0)] ∧ 2 ^ 60 ≤ key ∧ padServes sAp sAp.me (keyHome key) = true ∧
      poisonedIn sAp key 8 = false ∧ accsOf sAp sAp.me sAp.onMt = []) := ⟨ready_of_bool (by decide) _, by decide, by decide, by decide⟩
theorem wit_LoadsComplete_sent : (run (.ld h0 .d 3 1 0) (two 0x1000 0)).net ≠ (two 0x1000 0).net := by decide
theorem wit_LoadsComplete_vector :
    (let s := two 0x00F0_0000_0000_0040 512
     Ready infoC h0 { xr := [1, 2], vw := [4] } s ∧ checkCount s (xget s 1) (xget s 2) = none ∧ (xget s 2).toNat ≠ 0 ∧
       partsOf s 0x00F0_0000_0000_0040 512 = some [(localKey 0 0x40, 0x00F0_0000_0000_0040, 512, 0)]) ∧
    (let s := two 0x00F0_0000_0000_0040 0; checkCount s (xget s 1) (xget s 2) = none ∧ (xget s 2).toNat = 0) :=
  ⟨⟨ready_of_bool (by decide) _, by decide, by decide, by decide⟩, by decide, by decide⟩
/-- One lane, number 127, selected; and none. -/
theorem wit_LoadsComplete_gather :
    (let s := kset (two 0x00F0_0000_0000_0040 0) 1 (BitVec.ofNat 1024 (2 ^ 127))
     Ready infoC h0 { xr := [1], vr := [5], vw := [4], kr := optReg (some 1) } s ∧
       gatherLanes s .f32 1 5 (some 1) = [(127, 0x00F0_0000_0000_0040)] ∧ checkLanes s (Ty.f32.width / 8) (gatherLanes s .f32 1 5 (some 1)) = none ∧
       8 ≤ Ty.f32.width) ∧ gatherLanes sAp .f32 1 5 (some 1) = [] :=
  ⟨⟨ready_of_bool (by decide) _, by decide, by decide, by decide⟩, by decide⟩

theorem wit_StoresComplete :
    memWf sAp.mem = true ∧ queuedWrites sAp sAp.me sAp.onMt < 16 ∧ Ready infoC h0 { xr := [2, 1, 4] } sAp ∧ checkScope (xget sAp 4) = none ∧
    checkVa sAp (xget sAp 1 + (0 : BitVec 18).signExtend 64) 8 false = none ∧ checkVa sAp (xget sAp 1) 8 true = none ∧
    (accsOf sAp sAp.me sAp.onMt = [] ∧ releasePending sAp sAp.me sAp.onMt (fun r => decide (r.start ≤ (thr sAp).seq)) = false) ∧
    (xget sAp 4 = 0 ∧ checkCount sAp (xget sAp 1) (xget sAp 4) = none) ∧
    (let s := two 0x1000 8; checkCount s (xget s 1) (xget s 2) = none ∧ xget s 2 ≠ 0 ∧ partsOf s 0x1000 8 = some [(0x1000, 0x1000, 8, 0)]) :=
  ⟨by decide, by decide, ready_of_bool (by decide) _, by decide, by decide, by decide, by decide, by decide, by decide⟩
theorem wit_StoresComplete_scatter :
    let s := kset (two 0x1000 0) 1 1
    Ready infoC h0 { xr := [1], vr := [4, 5], kr := optReg (some 1) } s ∧ gatherLanes s .u8 1 5 (some 1) = [(0, 0x1000)] ∧
    checkLanes s (Ty.u8.width / 8) (gatherLanes s .u8 1 5 (some 1)) = none := ⟨ready_of_bool (by decide) _, by decide, by decide⟩

theorem wit_AtomicsStallTheirThread :
    Ready infoC h0 { xr := [2, 1, 2, 4], xw := [3] } sAp ∧ malformedScope (xget sAp 4) = false ∧ checkVa sAp (xget sAp 1) 4 true = none ∧
    (badAddress (xget (two 2 0) 1) 4 = false ∧ (xget (two 2 0) 1).toNat % 4 ≠ 0) ∧
    malformedScope (xget (two 0 0xFFFF_FFFF_FFFF_FFFF) 2) = true ∧
    (partsOf sAp 0x00F0_0000_0000_0040 8 = some [(localKey 0 0x40, 0x00F0_0000_0000_0040, 8, 0)] ∧
      padServes sAp sAp.me (keyHome (localKey 0 0x40)) = true ∧ poisonedIn sAp (localKey 0 0x40) 8 = false) ∧
    (run (.lda h0 .d 3 1 2) (two 0x1000 0)).net ≠ (two 0x1000 0).net :=
  ⟨ready_of_bool (by decide) _, by decide, by decide, by decide, by decide, by decide, by decide⟩

/-- An access in flight. -/
def acc0 (op : AccOp) (va n : Nat) (data : List Byte) (st : AccStage) : Access :=
  { id := 7, core := 0, mt := false, asid := 1, priv := false, op := op, va := va, addr := va, n := n, data := data, ch := 0, slot := 0, off := 0
    seq := 0, whole := (va, n), arrived := 0, kind := 0, rel := none, opMark := 0, eng := false, snapG := 0, stage := st, trapped := false, reported := false }
def sAcc (a : Access) : State := { withCtx sC (fun c => c) (fun k => k) with net := [a] }
/-- The same with a translation of the page at 0x1_0000 in its home's cache. -/
def tEnt (w : Bool) : TEntry :=
  { asid := 1, vpage := 0x1_0000, size := 65536, frame := 0x20_0000, r := true, w := w, x := true, u := true, ok := 0
    bgm := 0xFFFF_FFFF_FFFF_FFFF, d := true, pte := 0, leafAddr := 0 }
def sTlb (w : Bool) (a : Access) : State :=
  { sAcc a with blocks := [(homeOf (sAcc a) 1 0x1_0000, { Block.reset with tcache := [tEnt w] })] }

theorem wit_AccessesReachTheirHome_local :
    let a := acc0 .store (localKey 1 0x40) 8 (List.replicate 8 5) .queued
    let s := sAcc a
    accFind s 7 = some a ∧ memWf s.mem = true ∧ sendable s a = true ∧ lineLogged s a = none ∧ a.isKey = true ∧ keyHome a.va = .core 1 ∧
    keyFits s a = true ∧ logFull s a.core = false ∧ keyFits s { a with va := localKey 1 0x1_7FFC } = false ∧
    (coreOf s 1).contained = false ∧ (coreOf s 1).stopped = false ∧ (coreOf s 1).dbg.halted = false ∧ poisonedIn s a.va a.n = false ∧
    (blockAt s (blockOf 1)).gated = false ∧ (accWrites a (readBytes s.mem a.va a.n)).map (·.length) = some a.n ∧ (1 : Nat) ≠ a.core % 2 ^ 20 := by decide
theorem wit_AccessesReachTheirHome_global :
    let a := acc0 .load 0x1_0000 8 [] .queued
    let home := homeOf (sAcc a) 1 0x1_0000
    sendable (sAcc a) a = true ∧ lineLogged (sAcc a) a = none ∧ a.isKey = false ∧ translateHit (sAcc a) home (accReq a) a.va = none ∧
    (blockAt (sAcc a) home).walkq = [] ∧ (blockAt (sAcc a) home).walkWait = [] ∧
    (match translateHit (sTlb false (acc0 .store 0x1_0000 8 (List.replicate 8 5) .queued)) home
        (accReq (acc0 .store 0x1_0000 8 (List.replicate 8 5) .queued)) 0x1_0000 with
      | some (_, .error c) => decide (causeCode c ≠ causeContained) | _ => false) = true := by decide
theorem wit_AccessesReachTheirHome_walk :
    let a := acc0 .load 0x1_0000 8 [] .walking
    let home := homeOf (sAcc a) 1 0x1_0000
    let s := { sAcc a with blocks := [(home, { Block.reset with walkq := [{ asid := 1, vpage := 0x1_0000, waiters := [.acc 7] }] })] }
    accFind s 7 = some a ∧ (blockAt s (homeOf s a.asid a.va)).walkq = [{ asid := a.asid, vpage := 0x1_0000, waiters := [.acc 7] }] ∧
    (blockAt s (homeOf s a.asid a.va)).walkWait = [] := by decide
/-- The walk finds no table, and a translation that is cached by then. -/
theorem wit_AccessesReachTheirHome_walked :
    (let a := acc0 .load 0x1_0000 8 [] .walking
     let home := homeOf (sAcc a) 1 0x1_0000
     (match translateWalk (sAcc a) home (accReq a) a.va with
       | (s1, .error c) => decide (causeCode c ≠ causeContained) && (blockAt s1 home).walkWait.isEmpty | _ => false) = true) ∧
    (let a := acc0 .store 0x1_0000 8 (List.replicate 8 5) .walking
     let s := sTlb true a
     let home := homeOf s 1 0x1_0000
     (match translateWalk s home (accReq a) a.va with
       | (s1, .ok e) => (blockAt (performHome (accSet s1 { a with stage := .queued, kind := e.ok }) 7) home).walkWait.isEmpty
       | _ => false) = true) := by decide
theorem wit_AccessesReachTheirHome_fill :
    let pa := lineBase 0x20_0000
    let a := acc0 .load 0x1_0000 8 [] (.filling (homeOf sC 1 0x1_0000) pa)
    let s := sTlb true a
    let home := homeOf s a.asid a.va
    accFind s 7 = some a ∧ a.stage = .filling home pa ∧ (∀ x ∈ s.net, x.stage = .filling home pa → x.id = 7) ∧
    (match translateHit (accSet (wakeRim s (stackIslands pa)) { a with stage := .queued }) home (accReq a) a.va with
      | some (s1, .ok e) => !isRim (physOf e a.va) && decide (pa = lineBase (physOf e a.va)) &&
          (match (performAt s1 home a.core a.mt (accReq a) a.va e (accHomeOp a) a.n).2 with | .bytes _ => true | _ => false)
      | _ => false) = true := by decide
theorem wit_AccessesReachTheirHome_replay :
    let a := acc0 .store 0x1_0000 8 (List.replicate 8 5) (.logged causePermission)
    let s := sTlb true a
    a.id = 7 ∧ a.core < 2 ^ 20 ∧ endWaits s a.core a.mt = false ∧ a.trapped = false ∧ accsOf s a.core a.mt = [a] ∧ a.logged = true ∧ a.isKey = false ∧
    rejectedSince s a = false ∧ a.op = .store ∧
    (match homeDo s a.core a.mt { accReq a with who := none } a.va (.write a.data) a.n with
      | (s1, .bytes _) => decide (accFind s1 7 = some a) | _ => false) = true := by decide
/-- The bytes of a load and of an atomic have come. -/
def sResp (dst : LoadDst) (op : AccOp) : State :=
  let a := acc0 op 0x1_0000 8 [] (.performed (List.replicate 8 1))
  withThr (fun t => { t with slots := [{ id := 0, dst := dst, parts := [7], buf := List.replicate 8 0 }] }) (sAcc a)
theorem wit_AccessesReachTheirHome_response :
    (∀ p ∈ [(LoadDst.x 3 false, AccOp.load), (LoadDst.v 3, AccOp.load), (LoadDst.atomic 3 false none, AccOp.atom .add false)],
      let s := sResp p.1 p.2
      let a := acc0 p.2 0x1_0000 8 [] (.performed (List.replicate 8 1))
      accFind s 7 = some a ∧ (threadOf s a.core a.mt).slots.find? (fun x => x.id == a.slot) =
        some { id := 0, dst := p.1, parts := [7], buf := List.replicate 8 0 } ∧ a.off = 0) ∧ (3 : XReg) ≠ 0 := by decide
/-- A core of a group and a launch domain: block 0, sequencer 0, member 0, domain 0 (Table 2.3); its launch is the octet. -/
def member0 : Word := 0x0104_0000_0000_0000
def ent (m wait : BitVec 32) (fired : Option Nat) : MaskEntry :=
  { mask := m, wait := wait, abs := 0, cnt := 0, sq := 0, tagged := false, tag := 0, fired := fired }
def seqWith (st : SeqState) (buf : List MaskEntry) : Sequencer := { Sequencer.reset with st := st, gsz := 3, pcnt := 9, gcols := 4, buf := buf }
def dom (arrived : List Nat) (r : Option Nat) : LDom :=
  { serial := 1, n := 2, arrived := arrived, first := 0, last := 0, lastCore := 0, sum := 0, release := r }
def sBar (q : Sequencer) (d : LDom) (w : WaitState) : State :=
  { withThr (fun t => { t with wait := w }) (withCtx sC (fun c => c) (fun k => { k with membership := member0, launchRect := octet0 })) with
    blocks := [(0, { Block.reset with seqs := [(0, q)] })], dev := { sC.dev with ldoms := [(0, d)] } }

theorem wit_FencesAndBarriers :
    Ready infoC h0 { xr := [1] } (two octet0 0) ∧ malformedScope (xget (two octet0 0) 1) = false ∧ loadsBound sC 0 false = true ∧
    releaseDone (two octet0 0) 0 false (xget (two octet0 0) 1) 0 = true ∧ malformedScope (xget (two 0xFFFF_FFFF_FFFF_FFFF 0) 1) = true ∧
    fenceAllDone sC sC.me sC.onMt = true ∧ releaseDone sC 0 false deviceScope 0 = true ∧ xget (two 1 0) 2 = 0 ∧
    waitFaults sC sC.core = true ∧ gbarFaults sC sC.core = true :=
  ⟨ready_of_bool (by decide) _, by decide, by decide, by decide, by decide, by decide, by decide, by decide, by decide, by decide⟩
theorem wit_FencesAndBarriers_member :
    let s := sBar (seqWith .run [ent 1 0 none]) (dom [] none) .none
    Ready infoC h0 {} s ∧ waitFaults s s.core = false ∧ gbarFaults s s.core = false ∧
    ((claimOf (seqAt s (groupBlk s.core) (groupSeq s.core)) (groupMember s.core)).isSome = true) ∧ mapGet s.dev.ldoms (launchDom s.core) = some (dom [] none) :=
  ⟨ready_of_bool (by decide) _, by decide, by decide, by decide, by decide⟩

def eop (op : EOp) (tl num phase : Nat) : EngOp :=
  { id := 0, tl := tl, num := num, serial := 1, asid := 1, priv := false, mt := true, ch := 0, op := op, cursor := 0, phase := phase, tag := none
    stopped := false, raised := false, after := 0, acks := 0, count := 0, buf := [], why := 0, calls := 0 }
/-- A movement thread, and a compute thread, of a context with a launch. -/
def mCtx (f : Context → Context) (g : Core → Core) : State := withCtx sM f g
def cCtx (f : Context → Context) (g : Core → Core) : State := withCtx sC f g
theorem wit_TimelineInstructions :
    let s := cCtx (fun c => c) (fun k => k)
    Ready infoC h0 { xr := [1, 2], xw := [3] } s ∧ s.core.tls.isSome = true ∧ malformedScope (xget s 2) = false ∧ loadsBound s 0 false = true ∧
    (xget s 1).toNat ≤ 0 ∧ 0 < (xget (xset s 1 1) 1).toNat ∧
    tlwReady (withThr (fun t => { t with wait := .tlw 0 3 0 0 }) s) 0 = true ∧
    (let o := eop (.copy 0 0 0) 3 1 255
     let c := cCtx (fun c => c) (fun k => { k with ops := [o] })
     (coreOf c 0).ops.find? (completes c 0 3 1) = some o ∧ o.serial = 1 ∧ 0 < 1) :=
  ⟨ready_of_bool (by decide) _, by decide, by decide, by decide, by decide, by decide, by decide, by decide⟩

theorem wit_BarrierProgramsAndTree :
    let s := sBar (seqWith .run []) (dom [] none) .none
    let q := seqAt s 0 0
    (q.st = .run ∧ q.fetched = none ∧ q.pc < q.pcnt) ∧ (1 : BitVec 32) ≠ 0 ∧ (1 : BitVec 32).toNat < 2 ^ q.gsz ∧ q.buf.length < 16 ∧
    2 ^ q.gsz ≤ (8 : BitVec 32).toNat ∧ q.loops.length < 4 ∧ q.loops = [] ∧ (8 : BitVec 16).toNat < q.pcnt ∧ q.pcnt ≤ (9 : BitVec 16).toNat ∧
    16 ≤ (seqAt (sBar (seqWith .full (List.replicate 16 (ent 1 0 none))) (dom [] none) .none) 0 0).buf.length ∧
    4 ≤ [(2, 1), (2, 1), (2, 1), (1, 1)].length := by decide
/-- The word of an entry is read through the translation of its page. -/
theorem wit_BarrierProgramsAndTree_fetch :
    let q := { seqWith .run [] with base := 0x1_0000, asid := 1 }
    let s := { sTlb false (acc0 .load 0 8 [] .queued) with net := [] }
    (match homeDo s q.core0 false (seqReq q.asid 0) (q.base + 8 * q.pc) .read 8 with | (_, .bytes bs) => decide (bs.length = 8) | _ => false) = true := by
  decide
theorem wit_BarrierProgramsAndTree_members :
    let s := sBar (seqWith .run []) (dom [] none) (.bar none true)
    (1 : BitVec 32) = BitVec.ofNat 32 (2 ^ 0) ∧ (0 : Nat) = (seqAt s 0 0).member 0 ∧ (coreOf s 0).dbg.halted = false ∧ groupBlk (coreOf s 0) = 0 ∧
    groupSeq (coreOf s 0) = 0 ∧ (coreOf s 0).ct.wait = .bar none true ∧ fires (ent 1 1 none) = true ∧
    (let r := sBar (seqWith .run [ent 1 0 (some 5)]) (dom [] none) (.bar (some 0) true)
     (seqAt r 0 0).buf = [ent 1 0 (some 5)] ∧ (coreOf r 0).ct.wait = .bar (some (ent 1 0 (some 5)).sq.toNat) true) := by decide
def placed0 : Placed :=
  { serial := 1, armed := 0, asid := 1, index := some 3, wid := 0, rect := octet0, q := none, ended := [], seqs := [(0, 0, 0)], ldom := some 0, seed := 0
    contained := false, barFault := false, seqFault := [], order := 0, starved := false, parent := none }
theorem wit_BarrierProgramsAndTree_tree :
    (dom [0, 1] none).arrived.length = (dom [0, 1] none).n ∧ (dom [0, 1] none).release = none ∧ (dom [0] none).arrived.length ≠ (dom [0] none).n ∧
    (let s := sBar (seqWith .run []) (dom [0, 1] (some 600)) (.gbar true 0)
     let t := { s with dev := { s.dev with placed := [placed0] } }
     mapGet t.dev.ldoms 0 = some (dom [0, 1] (some 600)) ∧ (t.dev.placed.any (fun p => p.serial == 1)) = true ∧
       (coreOf t 0).ct.wait = .gbar true 0 ∧ (coreOf t 0).dbg.halted = false) := by decide

def task0 (kind : Nat) : TaskRec :=
  { kind := kind, asid := 1, serial := 1, task := 0x100, rect := octet0, arg0 := 3, arg1 := 4, arg2 := 5, win := 0, l1 := 0, mqw := 1
    dv := false, ldom := 0, gv := false, seq := 0, midx := 0, grect := 0, wid := 2, seed := 0 }
theorem wit_TasksAndRoutines :
    Ready { infoC with transfer := true } h0 {} sC ∧ endReady sC 0 = false ∧
    (let s := withThr (fun t => { t with wait := .ending }) (cCtx (fun c => c) (fun k => { k with task := .fixed, taskRec := some (task0 0) }))
     endReady s 0 = true ∧ countsWait s 0 = false ∧ (coreOf s 0).task = .fixed ∧ (coreOf s 0).taskRec = some (task0 0)) ∧
    (let s := { sC with core := { Core.reset with inbox := [task0 0] } }
     pointReady s 0 = none ∧ readyRecord s 0 = some (task0 0) ∧ (task0 0).kind = 0) ∧
    (Ready infoC h0 { xr := [1, 2] } sC ∧ sC.core.mvq.length < 2) ∧
    (let s := withCore (fun k => { k with mvq := [(8, 1, 2, 0), (8, 1, 2, 0)] })
     Ready infoC h0 { xr := [1, 2] } s ∧ 2 ≤ s.core.mvq.length ∧ routineReady s.core = true) ∧
    Ready { infoM with transfer := true } h0 {} sM ∧ timerReady sC 0 = false ∧
    (let s := withCore (fun k => { k with timerCmp := 0 })
     timerReady s 0 = true ∧ atWord s 0 false = true ∧ gangOf s 0 = [0] ∧ (coreOf s 0).ct.wait = .none) :=
  ⟨ready_of_bool (by decide) _, by decide, by decide, by decide, ⟨rC _, by decide⟩, ⟨ready_of_bool (by decide) _, by decide, by decide⟩,
    ready_of_bool (by decide) _, by decide, by decide⟩
theorem wit_TasksAndRoutines_fusion :
    (let k := (waiting (.fuse 3)).core
     let s := { sC with core := k, cores := [(1, k)] }
     (coreOf s 0).ct.wait = .fuse 3 ∧ fuseBad s 0 = [] ∧
       ∀ q ∈ maskCores 0 3, timerDue s (coreOf s q) = false ∧ (coreOf s q).ct.wait = .fuse 3 ∧ (coreOf s q).taskRec.map (·.serial) = (coreOf s 0).taskRec.map (·.serial)) ∧
    (let s := { sC with core := (waiting (.fuse 3)).core, cores := [(1, (waiting (.fuse 0x33)).core)] }
     (coreOf s 0).ct.wait = .fuse 3 ∧ fuseBad s 0 ≠ [] ∧ 0 ∈ fuseBad s 0 ∧ gangOf s 0 = [0] ∧ gangOf s 1 = [1]) := by decide

def sess (st : SessState) (opens closes : Nat) : Session := { Session.reset with st := st, opens := opens, closes := closes, size := 64 }
def sRed (x : Session) (b : Block) : State :=
  { two 0x40 0x40 with
    ctxs := [(1, { freshCtx tab1 0 with sessions := Vector.replicate 16 x })], core := { (two 0x40 0x40).core with ctx := some 1 }
    blocks := [(0, b)] }
theorem wit_Reductions :
    (let s := sRed (sess .closed 256 256) Block.reset
     Ready infoC h0 { xr := [1, 2] } s ∧ (xget s 1).toNat % 64 = 0 ∧ (xget s 2).toNat % 64 = 0 ∧ badAddress (xget s 1) (xget s 2).toNat = false ∧
       isAperture (xget s 1).toNat = false ∧ sessOf s (myAsid s) 0 = some (sess .closed 256 256) ∧ (sess .closed 256 256).st = .closed) ∧
    (let s := xset (sRed { sess .opened 256 0 with base := 0x40 } Block.reset) 1 0x40
     Ready infoC h0 { xr := [1, 2] } s ∧ checkRed s .f32 (xget s 1) 0 = none ∧ queuedWrites s s.me s.onMt < 16 ∧
       releaseDone s s.me s.onMt deviceScope (thr s).seq = true) ∧
    (let s := sRed (sess .opening 255 0) Block.reset
     sessOf s 1 0 = some (sess .opening 255 0) ∧ (sess .opening 255 0).opens < 256 ∧ (blockAt s 0).opened.contains (1, 0) = false) ∧
    (let s := sRed (sess .closing 256 0) { Block.reset with opened := [(1, 0)] }
     sessOf s 1 0 = some (sess .closing 256 0) ∧ (sess .closing 256 0).st = .closing ∧ (blockAt s 0).opened.contains (1, 0) = true ∧
       (blockAt s 0).xa = [] ∧ (blockAt s 0).spills = [] ∧ (blockAt s 0).results = [] ∧ myAsid s = 1 ∧ (sess .closing 256 0).opens = 256) :=
  ⟨⟨ready_of_bool (by decide) _, by decide, by decide, by decide, by decide, by decide, by decide⟩,
    ⟨ready_of_bool (by decide) _, by decide, by decide, by decide⟩, by decide, by decide⟩
def xa0 (asid sid va : Nat) : XaEnt :=
  { asid := asid, sid := sid, va := va, val := 0, nan := false, pinf := false, ninf := false, cof := false, nzs := false, cnt := 2 ^ 24 - 2, core := 0 }
theorem wit_Reductions_faults :
    (let s := xset (sRed (sess .closed 256 256) Block.reset) 1 0x44
     Ready infoC h0 { xr := [1, 2] } s ∧ (xget s 1).toNat % 64 ≠ 0 ∧ badAddress (xget s 1) 4 = false ∧ isAperture (xget s 1).toNat = false ∧
       (xget s 1).toNat % 4 = 0 ∧ (xget (xset s 1 0x42) 1).toNat % 4 ≠ 0 ∧ (sess .closed 256 256).st ≠ .opening ∧
       (sess .closed 256 256).st ≠ .opened) ∧
    (let s := sRed (sess .opened 256 0) Block.reset
     Ready infoC h0 {} s ∧ sessOf s (myAsid s) 0 = some (sess .opened 256 0) ∧ (sess .opened 256 0).ty = .f32 ∧
       (sess .opened 256 0).st ≠ .closed) :=
  ⟨⟨ready_of_bool (by decide) _, by decide, by decide, by decide, by decide, by decide, by decide, by decide⟩,
    ready_of_bool (by decide) _, by decide, by decide, by decide⟩
theorem wit_Reductions_update :
    let a := acc0 (.red 0 .f32) 0x1_0000 4 [0, 0, 0x80, 0x3F] .queued
    let home := homeOf (sAcc a) 1 0x1_0000
    let s := { sAcc a with blocks := [(home, { Block.reset with tcache := [tEnt true], opened := [(1, 0)], xa := [xa0 1 0 0x1_0000] })] }
    accFind s 7 = some a ∧ sendable s a = true ∧ lineLogged s a = none ∧ (blockAt s (homeOf s a.asid a.va)).opened.contains (a.asid, 0) = true ∧
    (match translateFor s home (accReq a) a.va with
      | (s1, some (.ok e)) => e.ok == a.kind && !lineBusy s1 home (physOf e a.va) | _ => false) = true ∧
    (blockAt s home).xa.find? (fun y => y.asid == a.asid && y.sid == 0 && y.va == a.va) = some (xa0 1 0 0x1_0000) ∧
    (xa0 1 0 0).cnt < 2 ^ 24 - 1 ∧ (-149 : Int) ≤ -149 := by decide

theorem wit_Snapshots :
    (let s := withThr (fun t => { t with got := leBytes 16 (0x1_0000 * 2 ^ 64) })
       (xset (mCtx (fun c => c) (fun k => k)) 2 1)
     Ready infoM h0 { xr := [1, 2], xw := [3] } s ∧ (∀ x ∈ accsOf s s.me false, x.op.writes = true → x.performed = true) ∧
       (myCtx s).isSome = true ∧ opsOn s.core 4 < 8 ∧ 1 ≤ (xget s 2).toNat ∧ (xget s 2).toNat ≤ 4 ∧ (xget s 1).toNat % 16 = 0 ∧
       checkRange s (xget s 1) (16 * (xget s 2).toNat) = none ∧ (thr s).got ≠ [] ∧ snopenOk s (rangesOf (thr s).got (xget s 2).toNat) = true) ∧
    (let s := mCtx (fun c => { c with levels := [{ og := 1, ranges := [] }] }) (fun k => k)
     Ready infoM h0 { xw := [3] } s ∧ (myCtx s).any (fun c => !c.levels.isEmpty) = true) ∧
    (let s := mCtx (fun c => c) (fun k => k); (myCtx s).any (fun c => c.levels.isEmpty) = true) :=
  ⟨⟨ready_of_bool (by decide) _, by decide, by decide, by decide, by decide, by decide, by decide, by decide, by decide, by decide⟩,
    ⟨ready_of_bool (by decide) _, by decide⟩, by decide⟩
theorem wit_Snapshots_query :
    (∀ got ∈ [[], [(1 : Byte)]], let s := withThr (fun t => { t with got := got }) (mCtx (fun c => c) (fun k => k))
      (xget s 2).toNat ≤ 8 ∧ (xget s 1).toNat % 64 = 0 ∧ checkRange s (xget s 1) 128 = none ∧ accsOf s s.me s.onMt = [] ∧
        queuedWrites s s.me s.onMt < 16 ∧ (myCtx s).isSome = true) ∧ Ready infoM h0 { xr := [1, 2] } sM := ⟨by decide, rM _⟩
/-- A reject at a block with a line that level 1 holds. -/
theorem wit_Snapshots_agent :
    let lv : Level := { og := 1, ranges := [(0, 0x1_0000)] }
    let line : ShadowLine := { asid := 1, va := 0, vas := [(0, 1)], pa := 0, lw := 1, e := [{ lvl := 1, data := 0, lwb := 0, slot := 0 }], restore := none }
    let s := { mCtx (fun c => { c with snapG := 2, snapOps := [(2, 2, 254, 0)] }) (fun k => k) with
      blocks := [(0, { Block.reset with snapViews := [{ asid := 1, applied := 1, levels := [lv] }], shadow := [line] })] }
    snapReady s 0 1 2 = true ∧ (ctxOf s 1).bind (fun c => snapOp c 2) = some (2, 254, 0) ∧ (254 : Nat) < 255 ∧
    (viewOf (blockAt s 0) 1).levels.getLast? = some lv ∧ (∀ x ∈ (blockAt s 0).shadow, x.restore = none) ∧
    line.vas.any (fun p => inRanges p.1 lv.ranges && decide (lv.og ≤ p.2)) = true ∧
    ({ line with vas := [(0, 0)] } : ShadowLine).vas.any (fun p => inRanges p.1 lv.ranges && decide (lv.og ≤ p.2)) = false := by decide
/-- Handles of a core in each state, on both sides of a launch of the octet whose member 0 is core 0. -/
def hRx (slots : List RSlot) (wait : List (Nat × HReg)) : Handle := { Handle.reset with st := .rx, z := 64, slots := slots, waiting := wait }
def hTx (st : HState) : Handle := { Handle.reset with st := st, peer := 1, z := 64 }
def launchK (x : Handle) (k : Core) : Core := { k with h := Vector.replicate 8 x, launchRect := octet0, taskRec := some (task0 0) }
def sRing (x y : Handle) : State :=
  let s := cCtx (fun c => c) (launchK x)
  { s with cores := [(1, launchK y s.core)] }
theorem wit_Rings_config :
    let s := xset (xset (sRing Handle.reset Handle.reset) 1 0) 2 0x0100_0040
    Ready infoC h0 { xr := hcfgRegs (.rx 1 2) } s ∧ hcfgFrom (hget s.core 0) = true ∧ (hget s.core 0).waiting = [] ∧
    (hcfgNew (.rx 1 2) s).isSome = true ∧ hcfgNew (.rx 2 1) s = none ∧ hcfgFrom (hTx .txHold) = false ∧
    ((0 : Word).toNat % 64 = 0 ∧ 64 ≤ 64 ∧ 64 % 64 = 0 ∧ 1 ≤ 256 ∧ 256 ≤ 256 ∧ (0 : Word).toNat + 64 * 256 ≤ padSize s.core ∧
      (0x0100_0040 : Word) = BitVec.ofNat 64 (256 * 2 ^ 16 + 64)) :=
  ⟨ready_of_bool (by decide) _, by decide, by decide, by decide, by decide, by decide, by decide⟩
theorem wit_Rings_states :
    (∀ st ∈ [HState.txIdle, .txWait, .txHold, .unconf], let s := sRing (hTx st) (hRx [.free] [])
      readyB infoC h0 s = true ∧ (hget s.core 0).st = st ∧ absentRx s s.me (launchCore s.core 1) = false ∧
        releaseDone s s.me s.onMt (oneCore (launchCore s.core 1)) (thr s).seq = true) ∧
    (let s := sRing (hRx [.filled, .free] []) Handle.reset
     readyB infoC h0 s = true ∧ (hget s.core 0).st = .rx ∧ (hget s.core 0).waiting = [] ∧
       slotOfRing (freeHeld (hget s.core 0)) (hget s.core 0).head = .filled ∧ (hget s.core 0).slots.length ≤ 256 ∧ (hget s.core 0).slot < 256) := by
  decide
theorem wit_Rings_send :
    let s := xset (sRing (hTx .txHold) (hRx [.granted 0 0] [])) 1 64
    Ready infoC h0 { xr := [1], vr := [4] } s ∧ (hget s.core 0).cur + (xget s 1).toNat ≤ (hget s.core 0).z ∧ queuedWrites s s.me s.onMt < 16 ∧
    (hget s.core 0).z < (hget s.core 0).cur + (65 : Word).toNat ∧ 512 < (513 : Word).toNat ∧
    absentRx s s.me 1 = false ∧
    ((1 : Nat) < memberCount s.core ∧ (1 : Nat) < 2 ^ 16 ∧ (coreOf s 1).contained = false ∧ memberCount s.core ≤ (8 : Word).toNat) ∧
    (let u := { s with cores := s.cores.map (fun c => (c.1, { c.2 with contained := true })) }
     (coreOf u (launchCore u.core 1)).contained = true ∧ absentRx u u.me (launchCore u.core 1) = false) :=
  ⟨ready_of_bool (by decide) _, by decide, by decide, by decide, by decide, by decide, by decide, by decide⟩
theorem wit_Rings_grant :
    (∀ slots ∈ [[RSlot.free], [.filled]], let s := sRing (hTx .txWait) (hRx slots [])
      (hget (coreOf s 0) 0).st = .txWait ∧ absentRx s 0 1 = false ∧ (hget (coreOf s 1) 0).st = .rx ∧ sameLaunch s 0 1 = true ∧
        (hget (coreOf s 1) 0).waiting = [] ∧ (coreOf s 0).stopped = false) ∧
    slotOfRing (hRx [.free] []) 0 = .free ∧ slotOfRing (hRx [.filled] []) 0 ≠ .free ∧
    (let s0 := sRing (hTx .txIdle) (hRx [.granted 0 0] [])
     let c : Commit := { th := 0, m := launchIndex s0 0, serial := (launchOf s0.core).getD 0, rx := 1, rxh := 0, slot := 0 }
     let s := { s0 with core := { s0.core with commits := [c] } }
     commitOf (coreOf s 0) 0 = some c ∧ (coreOf s 1).contained = false ∧ (coreOf s 1).stopped = false ∧ away s 1 c.serial = false ∧ sendsDone s 0 0 0 = true ∧
       launchOf (coreOf s 1) = some c.serial ∧ slotOfRing (hget (coreOf s 1) 0) 0 = .granted c.m 0 ∧ (coreOf s 1).dbg.halted = false) := by decide

/-- A movement thread with the example tensor loaded, a bound peer, and operands in x1 to x4. -/
def sMv (a b c p : Word) : State :=
  let s := mCtx (fun c => { c with ldt := [(1, descM)], tab := { c.tab with peers := [(9, 1)] } }) (fun k => k)
  xset (xset (xset (xset { s with dev := { s.dev with scope := [(9, 0x8000_0000_0000_0000)] } } 1 a) 2 b) 3 c) 4 p
theorem wit_MovementCommands_copy :
    (let s := sMv 0x1000 0x2000 64 0
     Ready infoM h0 { xr := [1, 2, 3], xw := [5] } s ∧ (∀ x ∈ accsOf s s.me false, x.op.writes = true → x.performed = true) ∧ opsOn s.core 0 < 8 ∧
       (xget s 3).toNat < 2 ^ 32 ∧ checkRange s (xget s 1) 64 = none ∧ checkRange s (xget s 2) 64 = none ∧ checkTag s none = none) ∧
    2 ^ 32 ≤ (0x1_0000_0000 : Word).toNat ∧ checkRange sM 0x0100_0000_0000_0000 64 = some (causeMemOperand, 0x0100_0000_0000_0000) :=
  ⟨⟨ready_of_bool (by decide) _, by decide, by decide, by decide, by decide, by decide, by decide⟩, by decide, by decide⟩
/-- A generator record of one step over index 0 of the example tensor, in runs of 16 elements. -/
def genRec : List Byte := leBytes 128 (0x10_0101 + 2 * 2 ^ 128)
theorem wit_MovementCommands_gather :
    let s := withThr (fun t => { t with got := genRec }) (sMv 0x1000 0x2000 0 0)
    (xget s 2).toNat % 128 = 0 ∧ checkRange s (xget s 2) 128 = none ∧ (thr s).got ≠ [] ∧ genFieldsOk (thr s).got = true ∧
    ldtGet s ((recWord (thr s).got 0).setWidth 8) = some descM ∧
    (∀ q ∈ genSteps (thr s).got (field (recWord (thr s).got 0) 11 8), q.2.1 < dRank descM) ∧ dType descM ≠ .i4 ∧ dType descM ≠ .gq4 ∧
    checkRange s (xget s 1) 64 = none ∧ (0x2040 : Nat) % 128 ≠ 0 := by decide
theorem wit_MovementCommands_others :
    (let s := sMv 0 0 0x0101 0
     (xget s 3).toNat < 2 ^ 16 ∧ ldtGet s ((xget s 3).extractLsb' 0 8) = some descM ∧ ldtGet s ((xget s 3).extractLsb' 8 8) = some descM ∧
       cpywOk descM descM (xget s 2) (xget s 1) = true ∧ ldtGet s ((2 : Word).extractLsb' 0 8) = none) ∧
    (let s := sMv 0x1000 0x2000 1 9
     Ready infoM h0 { xr := [1, 2, 3, 4], xw := [5] } s ∧ (xget s 4).toNat < 2 ^ 16 ∧ peerOk s (xget s 4).toNat = true ∧
       1 ≤ (xget s 3).toNat ∧ (xget s 3).toNat ≤ 65536 ∧ (xget s 1).toNat % 4 = 0 ∧ checkRange s (xget s 2) 4 = none ∧
       65536 < (65537 : Word).toNat) ∧
    (let s := sMv 0x1_0000 0x1_0000 1 0
     ldtGet s 1 = some descM ∧ ldtGet s 2 = none ∧ checkStatus s none = none ∧ (xget s 1).toNat % 65536 = 0 ∧ (xget s 3).toNat % 65536 ≠ 0 ∧
       cwinCheck (.set 2 0) 1 none s = none ∧ cwinCheck .clr 1 none s = none) :=
  ⟨by decide, ⟨ready_of_bool (by decide) _, by decide, by decide, by decide, by decide, by decide, by decide, by decide⟩, by decide⟩

/-- A context with a grant of the octet, 64 KiB of block store, and a walk record of 6 points without tiles in the core's scratchpad. -/
def tabW : CtxTab := { tab1 with bssize := 1, grants := [octet0 + 0x8000_0000_0000_0000] }
def walkRec : List Byte := leBytes 128 0x0002_0001_0001_0006
def sWv (ws : Map Walk) : State :=
  let s := mCtx (fun c => { c with tab := tabW, walks := ws }) (fun k => { k with launchRect := octet0 })
  { xset (xset s 1 0x00F0_0000_0000_0000) 2 octet0 with mem := writeBytes [] (localKey 0 0) walkRec }
/-- The walk that it opens. -/
def walk0 : Walk := { newWalk (sWv []) ((List.range 16).map (recWord walkRec)) octet0 1 1 none with rect := octet0 }
theorem wit_WalkAndLaunchInstructions_open :
    let s := sWv []
    Ready infoM h0 { xr := [1, 2], xw := [3] } s ∧ (xget s 1).toNat % 128 = 0 ∧ checkRange s (xget s 1) 128 = none ∧ walkOf s (myAsid s) 2 = none ∧
    opsOn s.core 5 < 8 ∧ accsOf s s.me false = [] ∧
    (match engineRead s s.me s.onMt (coreReq s s.me (thr s).priv 0) (xget s 1).toNat 128 with
      | (u, .bytes bs) => walkOk u (myAsid s) (newWalk u ((List.range 16).map (recWord bs)) (xget s 2) 1 0 none)
      | _ => false) = true ∧ (xget (xset s 1 0x40) 1).toNat % 128 ≠ 0 :=
  ⟨ready_of_bool (by decide) _, by decide, by decide, by decide, by decide, by decide, by decide, by decide⟩
theorem wit_WalkAndLaunchInstructions_open_same :
    (engineRead (sWv []) 0 true (coreReq (sWv []) 0 false 0) 0x00F0_0000_0000_0000 128).1 = sWv [] := rfl
theorem wit_WalkAndLaunchInstructions_close :
    (∀ d ∈ [true, false], let s := sWv [(2, { walk0 with doneOp := d })]
      readyB infoM h0 s = true ∧ walkOf s (myAsid s) 2 = some { walk0 with doneOp := d } ∧ opsOn s.core 5 < 8) ∧
    mapSorted [(2, walk0)] = true ∧ mapGet [(2, walk0)] 2 = some walk0 := by decide
theorem wit_WalkAndLaunchInstructions_query :
    (let w := { walk0 with record := [0x000A_0001_0001_0006] }
     let s := { cCtx (fun c => { c with walks := [(2, w)] }) (fun k => k) with onMt := false }
     Ready infoCM h0 { xr := [1, 2], xw := [3] } s ∧ walkOf s (myAsid s) 2 = some w ∧ (5 : Word).toNat < w.points ∧ (0 : Word).toNat < w.ntile ∧
       w.points ≤ (6 : Word).toNat) :=
  ⟨ready_of_bool (by decide) _, by decide, by decide, by decide, by decide⟩
/-- A pool at 0x1_0000 with one record that is built, and records that are busy. -/
def sLr (st : Nat) : State :=
  let s := cCtx (fun c => { c with tab := { tabW with pool := 0x1_0000 }, records := [(0, { st := st, done := 3, copy := [] })] }) (fun k => k)
  { s with blocks := [(homeOf s 1 0x1_0000, { Block.reset with tcache := [tEnt true] })], mem := writeBytes [] 0x20_0028 (leBytes 8 0x8000_0000_0001_0020) }
theorem wit_WalkAndLaunchInstructions_records :
    (let s := sLr 1; Ready infoC h0 { xr := [1, 2, 3], xw := [5] } s ∧ (xget s 1).toNat < 4096 ∧ (xget s 2).toNat < 4 ∧
      (lrState s (myAsid s) (xget s 1).toNat).st ≠ 0 ∧ releaseDone s s.me s.onMt deviceScope (thr s).seq = true) ∧ 4096 ≤ (4096 : Word).toNat :=
  ⟨⟨ready_of_bool (by decide) _, by decide, by decide, by decide, by decide⟩, by decide⟩
theorem wit_WalkAndLaunchInstructions_idle :
    let s := sLr 0
    (lrState s (myAsid s) 0).st = 0 ∧
    (match hiveRead s (myAsid s) (lrAddr s (myAsid s) 0) 64 none with | (_, .bytes bs) => (recWord bs 5).getLsbD 63 | _ => false) = true ∧
    (match hiveWrite s (myAsid s) (lrAddr s (myAsid s) 0) (leBytes 8 5) none with | (_, .bytes _) => true | _ => false) = true := by decide
theorem wit_WalkAndLaunchInstructions_idle_same :
    (hiveRead (sLr 0) 1 0x1_0000 64 none).1.core = (sLr 0).core ∧ (hiveWrite (sLr 0) 1 0x1_0000 (leBytes 8 5) none).1.core = (sLr 0).core ∧
    (armRecord (sLr 0) 1 0 none none).1.core = (sLr 0).core ∧ (hiveRead (sLr 0) 1 0x1_0000 64 none).1.net = (sLr 0).net ∧
    (hiveWrite (sLr 0) 1 0x1_0000 (leBytes 8 5) none).1.net = (sLr 0).net ∧ (armRecord (sLr 0) 1 0 none none).1.net = (sLr 0).net :=
  ⟨rfl, rfl, rfl, rfl, rfl, rfl⟩
theorem wit_WalkAndLaunchInstructions_unbuilt :
    let s := { sLr 0 with mem := [] }
    (match hiveRead s (myAsid s) (lrAddr s (myAsid s) 0) 64 none with | (_, .bytes bs) => !(recWord bs 5).getLsbD 63 | _ => false) = true := by decide
/-- A copy within the core's scratchpad, at its beginning and at its end. -/
def sEng (o : EngOp) (f : Context → Context) : State := cCtx f (fun k => { k with ops := [o] })
theorem wit_EngineSteps_copy :
    ∀ p ∈ [(0, []), (0, List.replicate 48 1), (0, List.replicate 64 1), (64, [])],
      let o := { eop (.copy (15 * 2 ^ 52 + 0x100) (15 * 2 ^ 52 + 0) 64) 0 1 0 with cursor := p.1, buf := p.2 }
      let s := sEng o (fun c => c)
      (coreOf s 0).dbg.halted = false ∧ (0 : Nat) < 2 ^ 20 ∧ opFind s 0 0 = some o ∧ enginesRun (coreOf s 0) = true ∧ o.phase ≠ 255 ∧ o.stopped = false ∧ (coreOf s 0).dbg.ctl.getLsbD 33 = false ∧
        0 + 64 ≤ padSize (coreOf s 0) ∧ 0x100 + 64 ≤ padSize (coreOf s 0) ∧ (64 ≤ o.cursor ∨ o.cursor < 64) ∧ poisonedIn s (localKey 0 (0 + (o.cursor + o.buf.length))) 4 = false ∧
        o.tag = none ∧ savedSeqAt s 0 0 = none := by decide
theorem wit_EngineSteps_windows :
    (let w := windowFrom 0x1_0000 0x1_0000 0 true
     let o := eop (.pin 0x1_0000 none) 0 1 0
     let s := sEng o (fun c => { c with windows := [w], tab := { c.tab with pinlim := 342 } })
     opFind s 0 0 = some o ∧ (ctxOf s 1).any (fun c => decide (c.windows.find? (fun x => x.base == 0x1_0000) = some w) &&
       decide (c.pinUsed + pinCharge w.size ≤ c.tab.pinlim)) = true ∧ w.pin = true ∧ w.pinned = false ∧
       (∀ b ∈ w.blocks, 2 * (pinnedIn s b + windowShare w b) ≤ cacheLines (blockAt s b))) ∧
    (let o := eop (.winSet 0x1_0000 0x1_0000 0 false none) 0 1 0
     let s := sEng o (fun c => c)
     opFind s 0 0 = some o ∧ (liveCores s).findSome? (fun c => if enginesRun (coreOf s c) then
         ((coreOf s c).ops.find? (isWindowOp o.asid 0x1_0000)).map (fun x => (c, x)) else none) = some (0, o) ∧
       (ctxOf s 1).map (fun c => winSetStatus s c (windowFrom 0x1_0000 0x1_0000 0 false)) = some 0 ∧ (0x1_0000 : Nat) < 2 ^ 56 ∧
       (∀ b ∈ (windowFrom 0x1_0000 0x1_0000 0 false).blocks, (blockAt s b).gated = false) ∧
       changeWaits s 1 0x1_0000 (some (windowFrom 0x1_0000 0x1_0000 0 false)) = false) ∧
    engineRetries causeNotPresent = true ∧ engineQuiet causeNotPresent = false ∧ engineRetries causePermission = false := by decide

def att (b : Option Nat) : WalkAtt := { asid := 1, wid := 2, bound := b, epiDone := false, epiBegun := false }
def cand (p : Nat) (forced : Bool) : Cand := { asid := 1, wid := 2, p := p, skip := 0, entered := 0, known := 0, forced := forced }
/-- A core attached to a walk, outside a task, with candidates in its block's window. -/
def sWe (w : Walk) (b : Option Nat) (cs : List Cand) : State :=
  { cCtx (fun c => { c with walks := [(2, w)] }) (fun k => { k with
      ct := { k.ct with active := false }, walkAtt := some (att b), taskRec := some (task0 1) }) with
    blocks := [(0, { Block.reset with cands := cs })] }
theorem wit_WeevilSteps_points :
    walkOf (sWe walk0 none []) 1 2 = some walk0 ∧ mayTake (sWe walk0 none []) 0 1 2 = true ∧
    (∀ forced ∈ [true, false], let s := sWe walk0 none [cand 0 forced]
      idleAttached s 0 = some (att none, walk0) ∧ (traceOf s 1 walk0).2 = [] ∧ traceLeft s 1 2 walk0 (traceOf s 1 walk0).1 = [] ∧
        hasTurn s 0 (att none) = true ∧ walk0.mode ≠ 1 ∧ (0 : Nat) = blockOf 0 ∧
        candHome s 1 2 0 = some (0, cand 0 forced) ∧ (windowOf s 0 1 2).find? (fun c => c.p == 0) = some (cand 0 forced) ∧
        (if forced then (windowOf s 0 1 2).find? (fun x => x.isForced s walk0) = some (cand 0 forced)
         else (windowOf s 0 1 2).find? (fun x => x.isForced s walk0) = none ∧ ((windowOf s 0 1 2).filter (fun x => x.allKnown walk0)).head? = some (cand 0 forced) ∧
           ∀ j < walk0.ntile, tileResident s (weevilReq 1 walk0.core walk0.priv 0) walk0 j 0 = true)) := by decide
theorem wit_WeevilSteps_prefetch :
    let s := sWe walk0 none [cand 0 false]
    let q := { weevilReq 1 walk0.core walk0.priv 0 with who := some (.tile 0 1 2 0 0) }
    (weevilFills q ((walk0.tileLines 0 0).filter (fun l => !lineThere s q l)) s false).2 = false := by decide
theorem wit_WeevilSteps_end :
    (let w := { walk0 with cursor := 6 }
     workEnded w = true ∧ workEnded walk0 = false) ∧
    (let w := { walk0 with cursor := 6, epilogue := true }
     let s := sWe w none []
     (coreOf s 0).walkAtt = some (att none) ∧ (coreOf s 0).taskRec = some (task0 1) ∧ epilogueReady s 0 = true) ∧
    (let s := sWe walk0 (some 3) []
     pointReady s 0 = some (att (some 3), walk0, 3)) := by decide
/-- A bound point that waits for a line: one that no way can take, and one that can be filled. -/
theorem wit_WeevilSteps_fills :
    let w := { walk0 with awaiting := [(3, [0x1_0000])], boundAt := [(3, 0)] }
    let s := sWe w (some 3) []
    waitingPoint s 0 = some (1, 2, w, 3, [0x1_0000]) ∧ (weevilFill { s with blocks := [(homeOf s 1 0x1_0000, { Block.reset with tcache := [{ tEnt true with r := false }] })] }
      { weevilReq 1 w.core w.priv 1 with who := some (.line 0 0x1_0000) } 0x1_0000).2 = .gone ∧
    0x1_0000 ∈ retryLines { s with pending := [] } 0 [0x1_0000] ∧ mapGet w.boundAt 3 = some 0 ∧ 0 ≤ s.dev.time ∧
    (let t := { s with blocks := [(homeOf s 1 0x1_0000, { Block.reset with tcache := [tEnt true] })] }
     let r := weevilFill t { weevilReq 1 w.core w.priv 1 with who := some (.line 0 0x1_0000) } 0x1_0000
     r.2 = .here ∧ (ctxOf r.1 1).isSome = true) ∧
    (let t := { s with blocks := [(homeOf s 1 0x1_0000, { Block.reset with walkq := [⟨1, 0x1_0000, []⟩] })] }
     (weevilFill t { weevilReq 1 w.core w.priv 1 with who := some (.line 0 0x1_0000) } 0x1_0000).2 = .wait) := by decide
theorem wit_WeevilSteps_lease :
    let l : Lease := { asid := 1, wid := 2, p := 3, core := 0, until_ := 10 }
    let ln : SliceLine := { va := 0, asid := 1, cls := .keep, valid := 0xF, dirty := 0, data := 0, poison := 0, used := 0, leases := [l] }
    let s := { sWe walk0 none [] with blocks := [(0, { Block.reset with lines := [(0, ln)] })] }
    mapGet (blockAt s 0).lines 0 = some ln ∧ l ∈ ln.leases ∧ l.core = 0 ∧ (∀ x ∈ ln.leases, x.core = 0 → l.until_ ≤ x.until_) := by decide
/-- A replayed walk whose trace of one record, all zero, can be read under a table of a 64 MiB page. -/
theorem wit_WeevilSteps_replay :
    let w := { walk0 with record := (((List.range 16).map walk0.word).set 0 (walk0.word 0 ||| 0x0080_0000_0000_0000)).set 5 0x1_0000 |>.set 6 1 }
    let s := { sWe w none [] with mem := writeWords (writeWords (writeWords [] 0 [0x4001]) 0x4000 [0x8001]) 0x8000 [0x0400_00FB, 0xFFFF_FFFF_FFFF_FFFF] }
    idleAttached s 0 = some (att none, w) ∧ (traceOf s 1 w).2 = [] ∧
    (traceLeft s 1 2 w (traceOf s 1 w).1).find? (fun r => r.2 == 0) = some (0, 0) := by decide

/-- Queue 0 of context 1, its descriptor at 0 and its ring of 16 at 0x8_0000, with one packet of sequence number 5. -/
def sQu (ws : List Word) (st : QState) (seeds : List (BitVec 128)) : State :=
  let desc : List Word := [0x0004_0000_0008_0000, 0x0004_0000_0009_0000, 0x1_0001, 0x1_0000_0000, 5, 0, 0, 0]
  let bytes (xs : List Word) : List Byte := (xs.map (fun w => leBytes 8 w.toNat)).flatten
  { cCtx (fun c => { c with seeds := seeds, records := [] }) (fun k => k) with
    mem := writeBytes (writeBytes (writeBytes [] 0 (bytes desc)) 0x4_0000 (bytes desc)) 0x8_0000 (bytes ws)
    dev := { sC.dev with queues := [(0, st)] } }
def q0 : QState := { open_ := [], locked := false }
def pk : Pkt := { q := 0, seq := 5, cmp := true }
theorem wit_QueuesAndPackets_next :
    nextPacket (sQu [0x0000_0005_0000_0101, 0, 0, 0, 0, 0, 0, 0] q0 []) 0 = some (.launch pk 0) ∧
    nextPacket (sQu [0x0000_0005_0000_0102, 0x1_0000, 7, 0, 0, 0, 0, 0] q0 []) 0 = some (.tlwait pk 0x1_0000 7) ∧
    nextPacket (sQu [0x0000_0005_0000_0103, 0x1_0000, 7, 0, 0, 0, 0, 0] q0 []) 0 = some (.tlsignal pk 0x1_0000 7) ∧
    nextPacket (sQu [0x0000_0005_0000_0104, 1, 2, 0, 0, 0, 0, 0] q0 []) 0 = some (.seedpush pk 1 2) ∧
    nextPacket (sQu [0x0000_0005_0000_0105, 0, 0, 0, 0, 0, 0, 0] q0 [1]) 0 = some (.seedpop pk) ∧
    nextPacket (sQu [0x0000_0005_0000_0106, 3, 0, 0, 0, 0, 0, 0] q0 [1]) 0 = some (.seedfork pk 3) := by decide
theorem wit_QueuesAndPackets_next_more :
    nextPacket (sQu [0x0000_0005_0000_0107, 0x1000, 0x2000, 64, 0, 0, 0, 0] q0 []) 0 = some (.copy pk 0x1000 0x2000 64 0) ∧
    nextPacket (sQu [0x0000_0005_0000_0108, 0x1_0000, 0x1_0000, 0, 0, 0, 0, 0] q0 []) 0 = some (.window pk 0x1_0000 0x1_0000 0 false false) ∧
    nextPacket (sQu [0x0000_0005_0000_0109, 0, 0, 0, 0, 0, 0, 0] q0 []) 0 = some (.fencePacket pk) ∧
    nextPacket (sQu [0x0000_0005_0000_010A, 9, 0, 0, 0, 0, 0, 0] q0 []) 0 = some (.marker pk 9) ∧
    badCopyRange (sQu [] q0 []) 1 0x1000 64 = false ∧ badWindow 0x1_0000 0x1_0000 0 = false ∧ windowOut 0x1_0000 0x1_0000 = false := by decide
theorem wit_QueuesAndPackets_fetch : qFetch (sQu [] q0 []) 0 = (sQu [] q0 [], true) := rfl
theorem wit_QueuesAndPackets_other :
    let s := sQu [] q0 []
    poisonedIn s (qAddr s 0) 64 = false ∧ 2 ^ qRlog s 0 < (17 + 2 ^ 32 - qHead s 0) % 2 ^ 32 ∧ (16 + 2 ^ 32 - qHead s 0) % 2 ^ 32 ≤ 2 ^ qRlog s 0 ∧
    qMirror s 0 + 64 ≤ qCbase s 0 + 16 * (qCseq s 0 % 2 ^ qClog s 0) ∧
    (∀ x < 64, hiveMay s.dev (qAddr s 0 + x) true = true ∧ hiveMay s.dev (qAddr s 0 + x) false = true ∧
      hiveMay s.dev (qMirror s 0 + x) true = true ∧ hiveMay s.dev (qMirror s 0 + x) false = true) ∧
    (∀ x < 16, hiveMay s.dev (qCbase s 0 + 16 * (qCseq s 0 % 2 ^ qClog s 0) + x) true = true ∧
      hiveMay s.dev (qCbase s 0 + 16 * (qCseq s 0 % 2 ^ qClog s 0) + x) false = true) ∧
    (seedsOf (sQu [] q0 (List.replicate 16 1)) 1).length = 16 ∧ (seedsOf (sQu [] q0 [1]) 1).getLast? = some 1 ∧ seedsOf s 1 = [] ∧
    (workQueues s).length ≤ 64 := by decide
def opened (p : PkState) (more : List OpenPk) : QState := { open_ := { seq := 5, cmp := true, st := p } :: more, locked := true }
theorem wit_QueuesAndPackets_open :
    openOf (sQu [] (opened (.tlwait 0x1_0000 7) []) []) pk = some (.tlwait (0x1_0000 : Word).toNat 7) ∧
    (∀ ps ∈ [[], [pieceAt 0 0 64], [{ pieceAt 0 0 64 with buf := List.replicate 64 1 }]], ∀ dir ∈ [0, 2],
      openOf (sQu [] (opened (.copy 1 0x1000 0x2000 64 dir ps) []) []) pk = some (.copy 1 0x1000 0x2000 64 dir ps)) ∧ openOf (sQu [] q0 []) pk ≠ some .fence ∧
    (let s := sQu [] (opened .fence []) []; openOf s pk = some .fence ∧ (qState s pk.q).open_.length ≤ 1) ∧
    (let s := sQu [] (opened .fence [⟨6, true, .launch⟩]) []; openOf s pk = some .fence ∧ 1 < (qState s pk.q).open_.length) := by decide
/-- The timeline word of a TLWAIT, the word of a TLSIGNAL and a sector of a COPY, under a translation of their page. -/
theorem wit_QueuesAndPackets_memory :
    let s := { sQu [] q0 [] with blocks := [(homeOf (sQu [] q0 []) 1 0x1_0000, { Block.reset with tcache := [tEnt true] })] }
    (readTimelineWord s 1 0x1_0000 (.step (.tlwaitSatisfied pk 0x1_0000 7))).2 = .got 0 ∧ (0 : Word).toNat < (7 : Word).toNat ∧ (0 : Word).toNat ≤ (0 : Word).toNat ∧
    (match (homeDo s hiveAgent false { packetReq 1 with w := true, who := some (.step (.tlsignal pk 0x1_0000 7)) } 0x1_0000 (.write (leBytes 8 7)) 8).2 with | .bytes _ => true | _ => false) = true ∧
    (match copyRead s pk 1 0x1_0000 (unitRun 0x1_0000 64) with | (r, .bytes _) => decide (r.dev = s.dev) | _ => false) = true ∧
    (match engineWriteFor s hiveAgent false { packetReq 1 with who := some (.pkt 0) } (some (.pkt 0)) 0x1_0000 (List.replicate 4 1) with
      | (r, .bytes _) => decide (r.dev = s.dev) | _ => false) = true := by decide

/-- A launch of the octet, armed at tick 0, whose record is copied; and one whose L1 size is reserved. -/
def lrec (w5 : Word) : LrState := { st := 1, done := 0, copy := [octet0, 0x100, 0, 0, 0, w5, 0, 0] }
def wait0 : Waiting := { asid := 1, index := 0, armed := 0, order := 0, q := none, resv := none, starved := false }
def sPl (w5 : Word) (ws : List Waiting) : State :=
  let s := cCtx (fun c => { c with tab := tabW, records := [(0, lrec w5)] }) (fun k => k)
  { s with dev := { s.dev with waiting := ws } }
theorem wit_LaunchPlacement_place :
    let s := sPl 0x8000_0000_0000_0020 [wait0]
    nextLaunch s = some wait0 ∧ placeAct s wait0 = .place octet0 [] ∧ planSeqs s [] [] = some [] ∧ waitingOf s 1 0 = some wait0 ∧ wait0.resv = none ∧ (1, 0) ∈ nextReservers s ∧ s.dev.lrWrites = [] ∧
    wait0.starved = false ∧ (0 : Nat) < 4096 := by decide
theorem wit_LaunchPlacement_others :
    (let s := sPl 0x8000_0000_0000_0038 [wait0]; nextLaunch s = some wait0 ∧ placeAct s wait0 = .refuse 6) ∧
    (let s := sPl 0 []; nextLaunch s = none ∧ (allWalks s).find? (fun w => walkReady s w.2.2) = none) ∧
    waitingOf (sPl 0 [{ wait0 with starved := true }]) 1 0 = some { wait0 with starved := true } ∧
    (let w := { walk0 with attach := some (task0 1) }
     let s := { cCtx (fun c => { c with walks := [(2, w)] }) (fun k => { k with taskRec := none }) with cores := [] }
     nextLaunch s = none ∧ (allWalks s).find? (fun w => walkReady s w.2.2) = some (1, 2, w) ∧ w.attach = some (task0 1) ∧ (ctxOf s 1).isSome = true) ∧
    fewestBusy (sPl 0 []) [octet0] = some octet0 := by decide
theorem wit_LaunchPlacement_end :
    let s (p : Placed) : State := { cCtx (fun c => c) (fun k => k) with dev := { sC.dev with placed := [p] } }
    let all := { placed0 with rect := 0, ended := [0], ldom := none }
    (s placed0).dev.placed.find? (fun p => p.serial == 1) = some placed0 ∧ launchOver (s placed0) placed0 = false ∧ launchOver (s all) all = true ∧
    placed0.index = some 3 ∧ launchOver (s { all with index := none }) { all with index := none } = true ∧
    (let w := { all with serial := 2, parent := some 1 }; w ∈ (s w).dev.placed ∧ w.parent = some all.serial) := by decide

/-- A core of a context whose grant is the octet, asked to stop, its rectangle already listed. -/
def rect0 (cs : List Saved) : SavedRect := { rect := octet0, cores := cs, seqs := [], armed := 0, order := 0, resv := none, starved := false }
def tabS : CtxTab := { tab1 with grants := [octet0], save := 0x10_0000, eng := 0x40_0000 }
def sSt (rs : List SavedRect) (g : Core → Core) : State := cCtx (fun c => { c with tab := tabS, saved := rs }) (fun k => g { k with launchRect := octet0 })
theorem wit_StopAndRestore_stop :
    (let s := sSt [rect0 []] (fun k => { k with stopReq := true, ct := { k.ct with entry := .word } })
     (coreOf s 0).stopReq = true ∧ canStop s 0 = true ∧ (enterFirst s 0).isNone = true ∧ (coreOf s 0).ctx = some 1 ∧
       (ctxOf s 1).any (fun c => c.saved.any (fun r => coreIn 0 r.rect)) = true ∧ (coreOf s 0).walkAtt = none ∧ (coreOf s 0).cnt = []) ∧
    (let s := sSt [rect0 []] (fun k => { k with stopReq := true, ct := { k.ct with entry := .header } })
     (coreOf s 0).stopReq = true ∧ canStop s 0 = true ∧ (enterFirst s 0).isSome = true) ∧
    (let s := sSt [rect0 []] (fun k => k)
     (coreOf s 0).stopReq = false ∧ memWf s.mem = true ∧ (0x10_0000 : Nat) + 131072 ≤ 2 ^ 60 ∧ (coreOf s 0).inbox.length ≤ 2) := by decide
/-- A saved core, its rectangle free. -/
def sav0 : Saved := { pos := 2 ^ 20, slot := 0x10_0000, core := { Core.reset with ctx := some 1, launchRect := octet0 } }
def sRe : State :=
  let s := sSt [rect0 [sav0]] (fun k => k)
  { s with core := vacated { Core.reset with ctx := some 1 }, dev := { s.dev with hiveUp := true } }
theorem wit_StopAndRestore_found :
    (allSaved sRe).find? (fun x => x.1 == 1 && x.2.2.rect == octet0 && (restoreSpot sRe x.1 x.2.1 x.2.2).isSome) = some (1, 4096, rect0 [sav0]) := rfl
theorem wit_StopAndRestore_spot : restoreSpot sRe 1 4096 (rect0 [sav0]) = some octet0 := by decide
theorem wit_StopAndRestore_restore :
    gatedIn sRe octet0 = [] ∧ sav0.pos % 2 ^ 20 = 0 ∧ 2 ^ 20 ≤ sav0.pos ∧ coreIn 0 octet0 = true ∧
    sav0.core.ct.wait = .none ∧ barOf (readW sRe.mem (sav0.slot + 0x1_EE10)) = none ∧ memWf sRe.mem = true ∧ sav0.slot + 131072 ≤ 2 ^ 60 ∧ mapSorted sRe.cores = true ∧ sRe.net = [] ∧
    (∀ b ∈ sRe.blocks, b.2.results = []) ∧ (ctxOf sRe 1).any (fun c => c.walks.isEmpty) = true := by decide

/-- A context table at 0x100 that meets every rule, and the context resident or not. -/
def tabBytes : List Byte :=
  let ws : List Word := [0x8000_0000_0000_0001, 0, 0, 0, 0, 0, 0, 0x40_0000, 0x10_0000, 0x1_0040, 0, 0, 0, octet0] ++
    List.replicate 7 0xFFFF_FFFF_FFFF_FFFF ++ List.replicate 4 0xFFFF ++ [0x4_0000_0000_0000, 0, 0, 0, 0, 0, 0]
  (ws.map (fun w => leBytes 8 w.toNat)).flatten
def sTab (f : Context → Context) : State := { cCtx f (fun k => k) with mem := writeBytes [] 0x100 tabBytes }
def sTab1 : State := sTab (fun c => { c with tab := { tabS with pa := 0x100 } })
theorem wit_SupervisorCommands_load :
    (0x100 : Nat) % 256 = 0 ∧ tabReservedOk sTab1 0x100 = true ∧ tabFieldsOk (readTab sTab1 0x100) (readTab sTab1 0x100).shres = true ∧
    partitionApart sTab1 (readTab sTab1 0x100) = true ∧ grantsOk sTab1 (readTab sTab1 0x100).asid (readTab sTab1 0x100).grants = true ∧
    poolChanged sTab1 (readTab sTab1 0x100) = false ∧ (readTab sTab1 0x100).asid = 1 ∧ (ctxOf sTab1 1).any (·.resident) = true ∧
    (0x101 : Nat) % 256 ≠ 0 := by decide
theorem wit_SupervisorCommands_partition : partitionOk sTab1 (readTab sTab1 0x100) = true := by decide
theorem wit_SupervisorCommands_free :
    (let s := { sTab1 with ctxs := [] }
     (ctxOf s 1).any (·.resident) = false ∧ freeSlot s = some 0 ∧ grantsGated s (readTab s 0x100).grants = [] ∧ residentCtx s 1 = none ∧
       ctxOf s 1 = none ∧ tabReservedOk s 0x100 = true) := by decide
theorem wit_SupervisorCommands_resident :
    (residentCtx sTab1 1).isSome = true ∧ (readTab sTab1 0x100).shlim = 0 ∧
    (ctxOf sTab1 1).any (fun c => decide (c.shUsed ≤ (readTab sTab1 c.tab.pa).shlim) && decide ((readTab sTab1 c.tab.pa).shlim ≤ c.tab.shres) &&
      decide (c.tab.pa = 0x100)) = true ∧
    (ctxOf (sTab (fun c => { c with tab := { tabS with pa := 0x100 }, shUsed := 1 })) 1).any (fun c => decide (0 < c.shUsed)) = true ∧
    (coreOf sTab1 0).stopped = false ∧ octet0 ∈ grantRects tabS.grants ∧ (malformedRect octet0 = false ∧ octetAligned (rectOf octet0) = true) ∧
    malformedRect 0xFFFF_0000_0000_0000 = true := by decide
theorem wit_SupervisorCommands_granted :
    rectGranted (sTab (fun c => { c with tab := { tabS with grants := [octet0] } })) 1 octet0 = true ∧
    rectGranted sTab1 1 (rectWord ⟨0, 4, 1, 7⟩) = false := by decide
theorem wit_SupervisorCommands_store :
    (∃ c ∈ (sTab (fun c => { c with tab := { tabS with bsbase := 64, bssize := 1 } })).ctxs, c.2.resident = true ∧
      64 * (1 : Word).toNat < c.2.tab.bsbase + c.2.tab.bssize) ∧
    (∀ c ∈ sTab1.ctxs, c.2.resident = true → c.2.tab.bsbase + c.2.tab.bssize ≤ 64 * (1 : Word).toNat) ∧ (blockAt sTab1 0).gated = false ∧
    sTab1.dev.runH.length = 48 ∧ hiveMay sTab1.dev 0x1000 true = true ∧ hiveMay sTab1.dev 0x1000 false = true ∧
    sealedSeeds sTab1 0x1000 48 = false ∧ (0x1000 : Nat) + 255 < 2 ^ 41 ∧ 2 ^ 41 ≤ 2 ^ 41 + 255 := by decide
/-- A sequencer of a placed launch, idle or at work; and the versions of the image and of the device. -/
def sSq (st : SeqState) : State :=
  let s := sTab1
  { s with dev := { s.dev with placed := [{ placed0 with seqs := [(0, 0, 0)] }], svn := 2, imageSvn := 5 }
           blocks := [(0, { Block.reset with seqs := [(0, seqWith st [])] })] }
theorem wit_SupervisorCommands_sequencer :
    seqOwner (sSq .run) 0 0 = some { placed0 with seqs := [(0, 0, 0)] } ∧ (ctxOf (sSq .run) placed0.asid).any (·.resident) = true ∧
    (seqAt (sSq .run) 0 0).st ≠ .idle ∧ (seqAt (sSq .idle) 0 0).st = .idle ∧ (3 : Word).toNat < (seqAt (sSq .run) 0 0).pcnt ∧
    (seqAt (sSq .run) 0 0).pcnt ≤ 65536 ∧ seqOwner sTab1 0 0 = none ∧ (sSq .run).dev.imageSvn < 6 ∧ 1 < (sSq .run).dev.svn ∧
    (3 ≤ (sSq .run).dev.imageSvn ∧ (sSq .run).dev.svn ≤ 3) := by decide
theorem wit_SupervisorCommands_contain :
    (withDev (fun d => { d with contained := [octet0] })).dev.contained.any (fun c => rectsMeet (rectOf c) (rectOf octet0)) = true ∧
    sC.dev.contained.any (fun c => rectsMeet (rectOf c) (rectOf octet0)) = false ∧ octet0 ∉ sC.dev.contained ∧
    octet0 ∈ (withDev (fun d => { d with contained := [octet0] })).dev.contained := by decide

/-- A shoot-down of context 1 in progress; and a request that waits for its fill under the translation named. -/
def sSd (net : List Access) : State :=
  let s := cCtx (fun c => c) (fun k => k)
  let blk := homeOf s 1 0x1_0000
  { s with dev := { s.dev with sdBusy := true, sdReq := (0x1_0000, 0, 0x1_0001) }, net := net
           blocks := [(blk, { Block.reset with tcache := [tEnt true] })] }
theorem wit_Shootdowns :
    sC.dev.sdBusy = false ∧ (sSd []).dev.sdBusy = true ∧ serves (sSd []) (homeOf (sSd []) 1 0x1_0000) = true ∧
    sdWaits (sSd []) (homeOf (sSd []) 1 0x1_0000) = false ∧ 0 < (tEnt true).size := by decide
theorem wit_Shootdowns_waits :
    let a : Access := acc0 .load 0x1_0000 8 [] (.filling (homeOf sC 1 0x1_0000) (lineBase 0x20_0000))
    let go : Word := 0x8_0001
    let s := { sSd [a] with dev := { (sSd [a]).dev with sdReq := (0, 0, go) } }
    s.dev.sdBusy = true ∧ (sdNames go 1 = true → sdWaits s (homeOf s 1 0x1_0000) = true) ∧ sdNames go 1 = true := by decide

/-- A running core, a halted one, one at a breakpoint, and one that waits. -/
theorem wit_DebugAndTrace_halts :
    (let k := sC.core; k.dbg.halted = false ∧ k.dbg.pendHalt = none ∧ k.contained = false ∧ k.stopped = false ∧ gangOf sC 0 = [0] ∧ k.cnt = []) ∧
    canStop (askGang sC 0 1) 0 = true ∧
    (let s := withThr (fun t => { t with entry := .word }) sC; canStop (askGang s 0 1) 0 = true ∧ (enterFirst (askGang s 0 1) 0).isNone = true) ∧
    (let s := { sC with net := [acc0 .load 0x1_0000 8 [] .queued] }; canStop (askGang s 0 1) 0 = false) ∧
    (let s := withCore (fun k => { k with powered := true, ct := { k.ct with entry := .word }, dbg := { k.dbg with ctl := 0x4_0000_0000, bp := Vector.replicate 4 (0x8000_0000_0000_0000 + sC.core.ct.pc) } })
     atBreakpoint s.core (threadOf s 0 false) = true ∧ s.core.powered = true) ∧ atBreakpoint sC.core (threadOf sC 0 false) = false := by decide
theorem wit_DebugAndTrace_resumes :
    let s := withCore (fun k => { k with dbg := { k.dbg with halted := true, save := 0x20_0000 } })
    s.core.dbg.halted = true ∧ s.core.stopped = false ∧ s.core.ct.looped = false ∧ s.core.mt.looped = false ∧ s.core.ct.wait = .none ∧
    barOf (readW s.mem (s.core.dbg.save.toNat + 0x1_EE10)) = none ∧ (blockAt s 0).held = [] ∧ memWf s.mem = true ∧
    s.core.dbg.save.toNat + 131072 ≤ 2 ^ 60 ∧ s.core.contained = false ∧ heldAccepts (blockAt s 0) 0 (.store 0 [1]) = true := by decide
theorem wit_DebugAndTrace_full :
    heldAccepts { Block.reset with held := List.replicate 1024 ⟨0, .store 0 (List.replicate 64 0), false⟩ } 0 (.store 0 [1]) = false := by decide
def traced (recs : List TraceRec) (twr trd : Nat) : State :=
  { sC with blocks := [(0, { Block.reset with trace := recs, rbase := 0x0004_0000_0010_0000, twr := twr, trd := trd, traceCtl := 0x8001 })] }
theorem wit_DebugAndTrace_trace :
    (blockAt (traced [⟨1, 2⟩, ⟨3, 4⟩] 0 0) 0).trace = [⟨1, 2⟩, ⟨3, 4⟩] ∧ ringFull (blockAt (traced [] 0 0) 0) = false ∧
    ringFull (blockAt (traced [] 16 0) 0) = true ∧ traceEnabled (blockAt sC 0) (0x80 + (5 : BitVec 7).toNat) = false ∧
    traceEnabled (blockAt (traced [] 0 0) 0) (0x80 + (5 : BitVec 7).toNat) = true ∧ (blockAt (traced [] 0 0) 0).tlost = 0 := by decide
theorem wit_DebugAndTrace_lost :
    let b : Block := { Block.reset with
      trace := ⟨1, 2⟩ :: ⟨3, 4⟩ :: List.replicate 4094 ⟨0, 0⟩, rbase := 0x0004_0000_0010_0000, twr := 0, trd := 0, tlost := 5 }
    b.tlost ≠ 0 ∧ b.trace.length = 4096 ∧ ringFull b = false ∧
    ringFull { b with trace := List.replicate 4094 ⟨0, 0⟩, twr := 1 } = false := by
  refine ⟨by decide, ?_, by decide, by decide⟩
  simp only [List.length_cons, List.length_replicate]
theorem wit_DebugAndTrace_waits :
    (let s := { waiting (.fuse 3) with dev := { sC.dev with waitcfg := 5 } }
     longWaits { s with core := { s.core with powered := true } } 0 false = true) ∧ longWaits sC 0 false = false := by decide

/-- Registers of the host, and a bound peer. -/
def sHo : State := cCtx (fun c => { c with tab := { c.tab with peers := [(9, 1)] } }) (fun k => k)
theorem wit_HostAndPeers_registers :
    regValue sC 0x10 = none ∧ (regValue sC 0x2000).isSome = true ∧ 0x2000 % 8 = 0 ∧ granted sC.dev (regTarget 0x2000) 1 true = true ∧
    granted sC.dev (regTarget 0x2000) 1 false = true ∧
    portUp sC 0 = true ∧ portUp (withDev (fun d => { d with ports := [(0, ⟨true, 0⟩)] })) 0 = false := by decide
theorem wit_HostAndPeers_memory :
    granted sC.dev (256 + 0x1000 / 2 ^ 36) 1 true = true ∧ granted sC.dev (256 + 0x1000 / 2 ^ 36) 1 false = true ∧
    (0x1000 + 8 ≤ 2 ^ 41) ∧ sealedSeeds sC 0x1000 8 = false ∧
    sealedSeeds (cCtx (fun c => { c with resident := false, tab := tabS }) (fun k => k)) (0x40_0000 + 0x1_4840) 8 = true ∧ poisonedIn sC 0x1000 8 = false ∧ 2 ^ 41 < 2 ^ 41 + 8 := by decide
theorem wit_HostAndPeers_peers :
    bound sHo 1 9 1 = true ∧ bound sHo 1 8 1 = false ∧ portMay sHo 1 9 0x1_0000 8 = true ∧ portMay sHo 1 9 0x00F0_0000_0000_0000 8 = true ∧
    isAperture 0x1_0000 = false ∧ isAperture 0x00F0_0000_0000_0000 = true ∧ 0x1_0000 + 8 ≤ 15 * 2 ^ 52 ∧ sessOf sHo 1 16 = sessOf sHo 1 0 := by decide
theorem wit_HostAndPeers_write :
    let s := { sHo with blocks := [(homeOf sHo 1 0x1_0000, { Block.reset with tcache := [tEnt true] })] }
    let again (k : Nat) : Ev := .peerOperationReceive 9 1 1 (0x1_0000 + BitVec.ofNat 64 k) none ((leBytes 8 7).drop k)
    let answer (u : State) : HomeAns := (peerParts u 1 9 again (leBytes 8 7) (splitLines 0x1_0000 8) u).2.1
    answer s = .bytes [] ∧ (match homeDo s hiveAgent false (peerReq s 1 9 (again 0)) 0x1_0000 (.write (leBytes 8 7)) 8 with
      | (_, .bytes _) => true | _ => false) = true ∧
    answer { s with blocks := [(homeOf sHo 1 0x1_0000, { Block.reset with tcache := [tEnt false] })] } = .fault causePermission ∧
    causePermission ≠ causeShadow ∧
    answer { s with blocks := [(homeOf sHo 1 0x1_0000, { Block.reset with
      tcache := [tEnt true], snapViews := [{ asid := 1, applied := 1, levels := [{ og := 1, ranges := [(0x1_0000, 0x1_0000)] }] }] })] } =
        .fault causeShadow := by decide

/-- A device with a cap, above and below it; an idle block of a device that gates, and a gated one. -/
theorem wit_PowerAndGating_governor :
    (let d := { sC.dev with pwrcfg := 3, copp := 2, streak := 15 }
     d.pwrcfg.getLsbD 16 = false ∧ d.pend = false ∧ capWatts d < (400 : BitVec 32).toNat ∧ d.copp ≠ 0 ∧ 10 * (200 : BitVec 32).toNat < 9 * capWatts d ∧
       15 ≤ d.streak ∧ d.copp ≠ 3) ∧ sC.dev.streak < 15 ∧ sC.dev.pend = false ∧
    (let d := (withDev (fun d => { d with pend := true, freq := 2, copp := 2, nopp := 0 })).dev
     d.pend = true ∧ d.freq ≠ d.nopp ∧ d.nopp.toNat < d.copp.toNat) ∧
    (let d := (withDev (fun d => { d with pend := true, freq := 1, copp := 1, nopp := 2 })).dev
     d.pend = true ∧ d.freq ≠ d.nopp ∧ d.copp.toNat ≤ d.nopp.toNat) ∧
    (let d := (withDev (fun d => { d with pend := true, freq := 0, copp := 2, nopp := 0 })).dev; d.pend = true ∧ d.freq = d.nopp) := by decide
def sGa (b : Block) : State := { State.reset with dev := { State.reset.dev with hiveUp := true, pwrcfg := 0x5_0000_0000 }, blocks := [(1, b)] }
theorem wit_PowerAndGating_gate :
    gateable State.reset 1 = false ∧ (gateable (sGa Block.reset) 1 = true ∧ (blockAt (sGa Block.reset) 1).idleSince = none) ∧
    (let b := { Block.reset with idleSince := some 3 }; gateable (sGa b) 1 = true ∧ (blockAt (sGa b) 1).trace = []) ∧
    (let b := { Block.reset with idleSince := some 3, trace := [⟨1, 2⟩, ⟨3, 4⟩] }
     gateable (sGa b) 1 = true ∧ (blockAt (sGa b) 1).trace ≠ [] ∧ (blockAt (sGa b) 1).drainTo = none) ∧
    (let b := { Block.reset with drainTo := some 9, trace := [⟨1, 2⟩, ⟨3, 4⟩] }; (blockAt (sGa b) 1).drainTo = some 9 ∧ (blockAt (sGa b) 1).trace ≠ []) ∧
    (let b := { Block.reset with gated := true }; (blockAt (sGa b) 1).gated = true ∧ (blockAt (sGa b) 1).latched = [] ∧
      (blockAt (sGa b) 1).waking = false ∧ ∀ c ∈ (sGa b).ctxs, ∀ w ∈ c.2.walks, w.2.traceHeld = []) := by decide

/-- Columns and blocks under repair. -/
def sRp (r : List (Nat × Option Nat × List (Nat × Word))) (b : Block) : State :=
  { withDev (fun d => { d with retiring := r }) with blocks := [(0, b)] }
theorem wit_ReliabilityAndBoot :
    (sRp [] { Block.reset with wdn := true }).dev.retiring.find? (fun r => r.1 == blockOf 0) = none ∧
    (blockAt (sRp [] { Block.reset with wdn := true }) 0).wdn = true ∧
    ((blockAt (sRp [] { Block.reset with ret := [3, 9] }) 0).wdn = false ∧ 2 ≤ (blockAt (sRp [] { Block.reset with ret := [3, 9] }) 0).ret.length) ∧
    (sRp [(0, some 0, [])] Block.reset).dev.retiring.find? (fun r => r.1 == blockOf 0) = some (blockOf 0, some 0, []) ∧
    (sRp [(0, none, [])] Block.reset).dev.retiring.find? (fun r => r.1 == 0) = some (0, none, []) ∧
    2 ≤ (portOf (withDev (fun d => { d with ports := [(3, ⟨false, 4⟩)] })) 3).lanes ∧ (5 : XReg) ≠ 0 ∧ 0x100 < localBytes (coreOf sC 0) ∧ (3 : Nat) % 2 = 1 ∧ 3 / 2 < 12 := by decide

theorem wit_StepsKeepMemoryForm : memWf State.reset.mem = true ∧ (match step State.reset with | .next _ => true | _ => false) = true :=
  ⟨by decide, rfl⟩

end Sys2Proof.Tests
end

section
/-!
PROOF. Positions of cores (R5 to R8, R12): the numbers of cores, blocks, members of rectangles and octets, and how each is read back.
-/

namespace Sys2Proof.Machine

/-! ### Rows, columns and blocks -/

theorem rowOf_lt (c : Nat) : rowOf c < 1024 := Nat.mod_lt _ (by decide)
theorem colOf_lt (c : Nat) : colOf c < 1024 := Nat.mod_lt _ (by decide)

theorem rowOf_coreAt {row col : Nat} (hr : row < 1024) (hc : col < 1024) : rowOf (coreAt row col) = row := by
  unfold rowOf coreAt; omega

theorem colOf_coreAt {row col : Nat} (hc : col < 1024) : colOf (coreAt row col) = col := by
  unfold colOf coreAt; omega

theorem coreAt_lt {row col : Nat} (hr : row < 1024) (hc : col < 1024) : coreAt row col < 2 ^ 20 := by
  unfold coreAt; omega

/-- The number of a core is that of its row and column (R5). -/
theorem coreAt_rowOf_colOf {c : Nat} (hc : c < 2 ^ 20) : coreAt (rowOf c) (colOf c) = c := by
  unfold coreAt rowOf colOf; omega

theorem blockOf_lt (c : Nat) : blockOf c < 256 := by
  have := rowOf_lt c
  have := colOf_lt c
  unfold blockOf; omega

theorem blockOf_coreAt {row col : Nat} (hr : row < 1024) (hc : col < 1024) :
    blockOf (coreAt row col) = row / 64 * 16 + col / 64 := by
  rw [blockOf, rowOf_coreAt hr hc, colOf_coreAt hc]

/-! ### Members of a rectangle -/

/-- The four parts of 16 bits of a word that is put together from them. -/
theorem extractLsb'_append_four (a b c d : BitVec 16) :
    (a ++ b ++ c ++ d).extractLsb' 0 16 = d ∧ (a ++ b ++ c ++ d).extractLsb' 16 16 = c ∧
    (a ++ b ++ c ++ d).extractLsb' 32 16 = b ∧ (a ++ b ++ c ++ d).extractLsb' 48 16 = a := by
  refine ⟨BitVec.extractLsb'_append_eq_right, ?_, ?_, ?_⟩
  · rw [BitVec.extractLsb'_append_eq_of_le (by decide)]
    exact BitVec.extractLsb'_append_eq_right
  · rw [BitVec.extractLsb'_append_eq_of_le (by decide), BitVec.extractLsb'_append_eq_of_le (by decide)]
    exact BitVec.extractLsb'_append_eq_right
  · rw [BitVec.extractLsb'_append_eq_of_le (by decide), BitVec.extractLsb'_append_eq_of_le (by decide)]
    exact BitVec.extractLsb'_append_eq_left

/-- The fields of the operand of a rectangle are the rectangle's, each a number of 16 bits (R6). -/
theorem rectOf_rectWord {r : RectF} (h1 : r.row0 < 2 ^ 16) (h2 : r.col0 < 2 ^ 16) (h3 : r.row1 < 2 ^ 16) (h4 : r.col1 < 2 ^ 16) :
    rectOf (rectWord r) = r := by
  obtain ⟨e0, e1, e2, e3⟩ := extractLsb'_append_four (BitVec.ofNat 16 r.col1) (BitVec.ofNat 16 r.row1) (BitVec.ofNat 16 r.col0) (BitVec.ofNat 16 r.row0)
  rw [rectOf, rectWord, e0, e1, e2, e3]
  simp only [BitVec.toNat_ofNat, Nat.mod_eq_of_lt, h1, h2, h3, h4]

section
variable {r : RectF} {row col : Nat} (hr : r.row0 ≤ row ∧ row ≤ r.row1 ∧ row < 1024) (hc : r.col0 ≤ col ∧ col ≤ r.col1 ∧ col < 1024)
include hr hc

/-- Members are numbered in row-major order (R8). -/
theorem memberIdx_coreAt : memberIdx (coreAt row col) r = (row - r.row0) * rectCols r + (col - r.col0) := by
  rw [memberIdx, rowOf_coreAt hr.2.2 hc.2.2, colOf_coreAt hc.2.2]

theorem memberIdx_coreAt_lt : memberIdx (coreAt row col) r < rectCount r := by
  have hrow : row - r.row0 + 1 ≤ rectRows r := by unfold rectRows; omega
  have hcol : col - r.col0 < rectCols r := by unfold rectCols; omega
  calc memberIdx (coreAt row col) r
      = (row - r.row0) * rectCols r + (col - r.col0) := memberIdx_coreAt hr hc
    _ < (row - r.row0 + 1) * rectCols r := by rw [Nat.succ_mul]; omega
    _ ≤ rectRows r * rectCols r := Nat.mul_le_mul_right _ hrow

/-- The core with a member's index is that member: quotient and remainder by the rectangle's width are its row and column. -/
theorem memberCore_memberIdx : memberCore (memberIdx (coreAt row col) r) r = coreAt row col := by
  have hcol : col - r.col0 < rectCols r := by unfold rectCols; omega
  have hdiv : ((row - r.row0) * rectCols r + (col - r.col0)) / rectCols r = row - r.row0 := by
    rw [Nat.mul_comm, Nat.mul_add_div (by omega), Nat.div_eq_of_lt hcol, Nat.add_zero]
  have hmod : ((row - r.row0) * rectCols r + (col - r.col0)) % rectCols r = col - r.col0 := by
    rw [Nat.mul_comm, Nat.mul_add_mod, Nat.mod_eq_of_lt hcol]
  rw [memberIdx_coreAt hr hc, memberCore, hdiv, hmod, Nat.add_sub_cancel' hr.1, Nat.add_sub_cancel' hc.1]

end

/-! ### Octets -/

theorem octetOf_lt (c : Nat) : octetOf c < 512 := by unfold octetOf; omega
theorem omiOf_lt (c : Nat) : omiOf c < 8 := by unfold omiOf; omega

/-- The row of an octet's member. -/
theorem rowOf_octetCore (c : Nat) {m : Nat} (hm : m < 8) : rowOf (octetCore c m) = rowOf c / 2 * 2 + m / 4 := by
  have := rowOf_lt c
  have := colOf_lt c
  exact rowOf_coreAt (by omega) (by omega)

/-- The column of an octet's member. -/
theorem colOf_octetCore (c m : Nat) : colOf (octetCore c m) = colOf c / 4 * 4 + m % 4 := by
  have := colOf_lt c
  exact colOf_coreAt (by omega)

/-- A core is the member of its octet with its index (R12). -/
theorem octetCore_omiOf {c : Nat} (hc : c < 2 ^ 20) : octetCore c (omiOf c) = c := by
  have hrow : rowOf c / 2 * 2 + omiOf c / 4 = rowOf c := by unfold omiOf; omega
  have hcol : colOf c / 4 * 4 + omiOf c % 4 = colOf c := by unfold omiOf; omega
  rw [octetCore, hrow, hcol, coreAt_rowOf_colOf hc]

/-- A block is 32 octets high and 16 wide, so none crosses its boundary (R12). -/
theorem blockOf_octetCore (c : Nat) {m : Nat} (hm : m < 8) : blockOf (octetCore c m) = blockOf c := by
  rw [blockOf, rowOf_octetCore c hm, colOf_octetCore, blockOf]; omega

theorem octetOf_octetCore (c : Nat) {m : Nat} (hm : m < 8) : octetOf (octetCore c m) = octetOf c := by
  rw [octetOf, rowOf_octetCore c hm, colOf_octetCore, octetOf]; omega

theorem omiOf_octetCore (c : Nat) {m : Nat} (hm : m < 8) : omiOf (octetCore c m) = m := by
  rw [omiOf, rowOf_octetCore c hm, colOf_octetCore]; omega

/-- The index of an octet's member is its index in the octet's rectangle of two rows and four columns (R8, R12). -/
theorem omiOf_eq_memberIdx (c : Nat) :
    omiOf c = memberIdx c ⟨rowOf c / 2 * 2, colOf c / 4 * 4, rowOf c / 2 * 2 + 1, colOf c / 4 * 4 + 3⟩ := by
  have hcols : colOf c / 4 * 4 + 3 + 1 - colOf c / 4 * 4 = 4 := by omega
  simp only [memberIdx, rectCols, hcols, omiOf]; omega

/-- The number of a block and of an octet within it name the octet's rows and columns. -/
theorem octet_rows_cols_eq {q c : Nat} (h : blockOf q * 512 + octetOf q = blockOf c * 512 + octetOf c) :
    rowOf q / 2 = rowOf c / 2 ∧ colOf q / 4 = colOf c / 4 := by
  have := octetOf_lt q
  have := octetOf_lt c
  have hblock : blockOf q = blockOf c := by omega
  have hoctet : octetOf q = octetOf c := by omega
  have := colOf_lt q
  have := colOf_lt c
  unfold blockOf at hblock
  unfold octetOf at hoctet
  omega

/-- Cores of one octet are among its eight members. -/
theorem exists_octetCore_of_same_octet {q c : Nat} (hq : q < 2 ^ 20)
    (h : blockOf q * 512 + octetOf q = blockOf c * 512 + octetOf c) : ∃ m < 8, q = octetCore c m := by
  obtain ⟨hrow, hcol⟩ := octet_rows_cols_eq h
  refine ⟨omiOf q, omiOf_lt q, ?_⟩
  rw [octetCore, ← hrow, ← hcol]
  exact (octetCore_omiOf hq).symm

end Sys2Proof.Machine
end

section
namespace Sys2Proof.Proofs

open Sys2Proof.Machine

/-- Settles O34: positions are read back by quotients and remainders, and a block is a whole number of octets high and wide. -/
theorem coreAndOctetNumbers : Obligations.CoreAndOctetNumbers := by
  unfold Obligations.CoreAndOctetNumbers
  refine ⟨?_, ?_, ?_⟩
  · intro row col hr hc
    exact ⟨rfl, rowOf_coreAt hr hc, colOf_coreAt hc, blockOf_coreAt hr hc, blockOf_lt _, coreAt_lt hr hc⟩
  · intro row0 col0 row1 col1 row col hr0 hr1 hc0 hc1 hrow1 hcol1 r
    have hr : r.row0 ≤ row ∧ row ≤ r.row1 ∧ row < 1024 := ⟨hr0, hr1, by omega⟩
    have hc : r.col0 ≤ col ∧ col ≤ r.col1 ∧ col < 1024 := ⟨hc0, hc1, by omega⟩
    have hcols : rectCols r = col1 - col0 + 1 := by simp only [rectCols, r]; omega
    refine ⟨?_, memberIdx_coreAt_lt hr hc, memberCore_memberIdx hr hc, ?_⟩
    · rw [memberIdx_coreAt hr hc, hcols]
    · apply rectOf_rectWord <;> simp only [r] <;> omega
  · intro row col hr hc c
    have hrow : rowOf c = row := rowOf_coreAt hr hc
    have hcol : colOf c = col := colOf_coreAt hc
    have hblock := blockOf_lt c
    have hoctet := octetOf_lt c
    refine ⟨?_, hoctet, ?_, ?_, octetCore_omiOf (coreAt_lt hr hc), ?_, by omega, ?_⟩
    · rw [octetOf, hrow, hcol]
    · rw [omiOf, hrow, hcol]
    · rw [omiOf_eq_memberIdx, hrow, hcol]
    · exact fun m hm => ⟨blockOf_octetCore c hm, octetOf_octetCore c hm, omiOf_octetCore c hm⟩
    · exact fun q hq h => exists_octetCore_of_same_octet hq h

end Sys2Proof.Proofs
end

section
/-!
PROOF. Registers of rim space, accesses of the host and operations of peers (R3, R28, R368, R398, R405, R409, R410).
-/

namespace Sys2Proof.Machine

/-! ### Maps and cores -/

/-- A key that was set has the value that was set. -/
@[simp] theorem mapGet_mapSet_same {α : Type} (m : Map α) (a : Nat) (x : α) : mapGet (mapSet m a x) a = some x := by
  induction m with
  | nil => simp [mapSet, mapGet]
  | cons p m ih =>
    obtain ⟨k, v⟩ := p
    unfold mapSet
    split
    · simp [mapGet]
    · split
      · simp [mapGet]
      · simp [mapGet, *]

/-- Any core that was set is the core that is found. -/
@[simp] theorem coreOf_setCore (s : State) (c : Nat) (k : Core) : coreOf (setCore s c k) c = k := by
  by_cases h : c = s.me
  · subst h
    exact coreOf_setCore_same s k
  · simp [coreOf, setCore, h]

/-! ### Rim islands (R28) -/

/-- The islands without power that are left when some are woken. -/
theorem wakeRim_eq (s : State) (ns : List Nat) :
    wakeRim s ns = setDev s { s.dev with islands := s.dev.islands.filter (fun i => !ns.contains i) } := by
  unfold wakeRim
  split
  · rfl
  · rename_i h
    have hall : s.dev.islands.filter (fun i => !ns.contains i) = s.dev.islands :=
      List.filter_eq_self.mpr fun i hi => by
        simp only [List.any_eq_true, not_exists, not_and] at h
        simpa using h i hi
    rw [hall]
    rfl

@[simp] theorem wakeRim_mem (s : State) (ns : List Nat) : (wakeRim s ns).mem = s.mem := by rw [wakeRim_eq, setDev_mem]
@[simp] theorem wakeRim_poisoned (s : State) (ns : List Nat) : (wakeRim s ns).poisoned = s.poisoned := by
  rw [wakeRim_eq, setDev_poisoned]
@[simp] theorem wakeRim_blocks (s : State) (ns : List Nat) : (wakeRim s ns).blocks = s.blocks := by rw [wakeRim_eq, setDev_blocks]
@[simp] theorem wakeRim_out (s : State) (ns : List Nat) : (wakeRim s ns).out = s.out := by rw [wakeRim_eq, setDev_out]

theorem mem_islands_wakeRim (s : State) (ns : List Nat) (i : Nat) :
    i ∈ (wakeRim s ns).dev.islands ↔ i ∈ s.dev.islands ∧ i ∉ ns := by
  rw [wakeRim_eq, setDev_dev, List.mem_filter]
  simp

/-- Waking islands changes nothing but which of them lack power. -/
theorem wakeRim_frame (s : State) (ns : List Nat) :
    wakeRim s ns = { s with dev := { s.dev with islands := (wakeRim s ns).dev.islands } } := by
  rw [wakeRim_eq]
  rfl

/-! ### Registers (R3) -/

theorem exec_registerWrite (addr : Nat) (v : Word) (s : State) :
    exec (.registerWrite addr v) s = .next (regStore s (addr % 2 ^ 32 / 8 * 8) v) := rfl

/-- A write at offset 8 of a core's debug registers stores the field of its save area (Table 21.1). -/
theorem regStore_debugSave (s : State) {off : Nat} (v : Word) (hspace : 0x400_0000 ≤ off ∧ off < 0xC00_0000) (ho : off % 0x80 = 8) :
    regStore s off v =
      (let c := (off - 0x400_0000) / 0x80
       setCore s c { coreOf s c with dbg := { (coreOf s c).dbg with save := v &&& 0x0000_FFFF_FFFE_0000 } }) := by
  unfold regStore
  dsimp only
  iterate 13 rw [if_neg (by omega)]
  rw [if_pos hspace, if_neg (by omega), if_pos ho]

/-- A write of a core's save-area register reaches that core alone: its field, and nothing of its thread or of memory. -/
theorem exec_registerWrite_debugSave (s : State) (v : Word) {core : Nat} (hc : core < 2 ^ 20) :
    exec (.registerWrite (0x400_0008 + 0x80 * core) v) s =
      .next (setCore s core { coreOf s core with dbg := { (coreOf s core).dbg with save := v &&& 0x0000_FFFF_FFFE_0000 } }) := by
  have halign : (0x400_0008 + 0x80 * core) % 2 ^ 32 / 8 * 8 = 0x400_0008 + 0x80 * core := by omega
  have hcore : (0x400_0008 + 0x80 * core - 0x400_0000) / 0x80 = core := by omega
  rw [exec_registerWrite, halign, regStore_debugSave s v (by omega) (by omega), hcore]

@[simp] theorem length_leBytes (n v : Nat) : (leBytes n v).length = n := by
  induction n generalizing v with
  | zero => rfl
  | succ n ih => simp [leBytes, ih]

/-- What a read of a register can change: read-clear bits of the device or of a core, or a sequencer's latched image. -/
theorem regReadEffect_cases (s : State) (off : Nat) :
    (∃ d, regReadEffect s off = setDev s d) ∨ (∃ blk q, regReadEffect s off = latchSeq s blk q) ∨
    (∃ c k, regReadEffect s off = setCore s c k) ∨ regReadEffect s off = s := by
  unfold regReadEffect
  dsimp only
  split
  · exact .inl ⟨_, rfl⟩
  split
  · exact .inl ⟨_, rfl⟩
  split
  · exact .inr (.inl ⟨_, _, rfl⟩)
  split
  · exact .inr (.inr (.inl ⟨_, _, rfl⟩))
  · exact .inr (.inr (.inr rfl))

/-- A read of a register changes no memory and sends nothing. -/
theorem regReadEffect_frame (s : State) (off : Nat) :
    (regReadEffect s off).mem = s.mem ∧ (regReadEffect s off).out = s.out := by
  obtain ⟨d, h⟩ | ⟨blk, q, h⟩ | ⟨c, k, h⟩ | h := regReadEffect_cases s off <;> rw [h]
  · exact ⟨setDev_mem s d, setDev_out s d⟩
  · exact ⟨setBlock_mem s blk _, setBlock_out s blk _⟩
  · exact ⟨setCore_mem s c k, setCore_out s c k⟩
  · exact ⟨rfl, rfl⟩

/-- A read of one register gives its eight bytes and has that register's effect alone. -/
theorem regRead_register {s : State} {off : Nat} {w : Word} (halign : off % 8 = 0) (hw : regValue s off = some w) :
    regRead s off 8 = (leBytes 8 w.toNat, regReadEffect s off) := by
  have hbase : off / 8 * 8 = off := by omega
  have hone : (off + 8 + 7) / 8 - off / 8 = 1 := by omega
  have hall : (leBytes 8 w.toNat).take 8 = leBytes 8 w.toNat := List.take_of_length_le (Nat.le_of_eq (length_leBytes 8 _))
  simp only [regRead, hbase, Nat.sub_self, hone, List.range_one, List.map_cons, Nat.mul_zero, Nat.add_zero, List.map_nil, hw,
    Option.getD_some, List.flatten_cons, List.flatten_nil, List.append_nil, List.drop_zero, hall, List.all_cons, Option.isSome_some,
    List.all_nil, Bool.and_self, if_true, List.foldl_cons, List.foldl_nil]

/-! ### Accesses of the host (R398, R405, R409) -/

/-- Does a Blugrador port that is in service have the grant of a target for an access? -/
def HostMay (s : State) (port : BitVec 1) (target : Nat) (write : Bool) : Prop :=
  portUp s port.toNat = true ∧ granted s.dev target (1 + port.toNat) write = true

/-- The answer of an access of the host that is not performed: a write's error, a read's error with n bytes of ones. -/
def hostRefusal (port : BitVec 1) (write : Bool) (n : Nat) : OutMsg :=
  if write then .hostError port else .hostRead port false (List.replicate n 0xFF)

/-- An access of the host to a register that does not exist, or without the grant, is refused. -/
theorem exec_hostRegAccess_refused {port : BitVec 1} {write : Bool} {off : Nat} {v : Word} {s u : State}
    (hu : u = wakeRim s [phyIsland port.toNat]) (h : regValue u off = none ∨ ¬ HostMay u port (regTarget off) write) :
    exec (.hostRegAccess port write off v) s = .next (send u (hostRefusal port write 8)) := by
  have hok : (portUp u port.toNat && (regValue u off).isSome && granted u.dev (regTarget off) (1 + port.toNat) write) = false := by
    refine Bool.eq_false_iff.mpr fun hok => ?_
    simp only [Bool.and_eq_true] at hok
    obtain ⟨⟨hup, hreg⟩, hgrant⟩ := hok
    rcases h with h | h
    · simp [h] at hreg
    · exact h ⟨hup, hgrant⟩
  change execHostRegAccess port write off v s = _
  unfold execHostRegAccess
  simp only [← hu, hok]
  cases write <;> rfl

/-- An access of the host to a register that is granted is performed. -/
theorem exec_hostRegAccess_performed {port : BitVec 1} {write : Bool} {off : Nat} {v w : Word} {s u : State}
    (hu : u = wakeRim s [phyIsland port.toNat]) (hw : regValue u off = some w) (h : HostMay u port (regTarget off) write) :
    exec (.hostRegAccess port write off v) s =
      .next (if write then regWrite u off 0 false (leBytes 8 v.toNat)
        else send (regRead u off 8).2 (.hostRead port true (regRead u off 8).1)) := by
  obtain ⟨hup, hgrant⟩ := h
  change execHostRegAccess port write off v s = _
  unfold execHostRegAccess
  simp [← hu, hup, hgrant, hw]

section
variable {port : BitVec 1} {write : Bool} {off : Nat} {bytes : List Byte} {s u : State}
  (hu : u = wakeRim s (phyIsland port.toNat :: stackIslands off))
include hu

/-- An access of the host to HBM through a port out of service, past its end or to a saved seed stack is refused. -/
theorem exec_hostMemAccess_refused
    (h : portUp u port.toNat = false ∨ 2 ^ 41 < off + bytes.length ∨ sealedSeeds u off bytes.length = true) :
    exec (.hostMemAccess port write off bytes) s = .next (send u (hostRefusal port write bytes.length)) := by
  have hok : (portUp u port.toNat && decide (off + bytes.length ≤ 2 ^ 41) &&
      granted u.dev (256 + off / 2 ^ 36) (1 + port.toNat) write &&
      granted u.dev (256 + (off + bytes.length - 1) / 2 ^ 36) (1 + port.toNat) write && !sealedSeeds u off bytes.length) = false := by
    rcases h with h | h | h
    · simp [h]
    · simp only [decide_eq_false (Nat.not_le.mpr h), Bool.and_false, Bool.false_and]
    · simp [h]
  change execHostMemAccess port write off bytes s = _
  unfold execHostMemAccess
  simp only [← hu, hok]
  cases write <;> rfl

/-- An access of the host to HBM that is granted at both its ends is performed; what is read of poison is free. -/
theorem exec_hostMemAccess_performed (hend : off + bytes.length ≤ 2 ^ 41) (hseed : sealedSeeds u off bytes.length = false)
    (hfirst : HostMay u port (256 + off / 2 ^ 36) write) (hlast : HostMay u port (256 + (off + bytes.length - 1) / 2 ^ 36) write) :
    exec (.hostMemAccess port write off bytes) s =
      .next (if write then storeMem u off bytes
        else if poisonedIn u off bytes.length then
          send (hostBytes u bytes.length).2 (.hostRead port true (hostBytes u bytes.length).1)
        else send u (.hostRead port true (readBytes u.mem off bytes.length))) := by
  obtain ⟨hup, hgrant0⟩ := hfirst
  obtain ⟨-, hgrant1⟩ := hlast
  change execHostMemAccess port write off bytes s = _
  unfold execHostMemAccess
  simp only [← hu, hup, hgrant0, hgrant1, hseed, decide_eq_true hend, Bool.and_self, Bool.not_false, Bool.not_true, Bool.false_eq_true,
    if_false]

end

@[simp] theorem unpoison_mem (s : State) (a n : Nat) : (unpoison s a n).mem = s.mem := by unfold unpoison; split <;> rfl
@[simp] theorem unpoison_blocks (s : State) (a n : Nat) : (unpoison s a n).blocks = s.blocks := by unfold unpoison; split <;> rfl
@[simp] theorem unpoison_out (s : State) (a n : Nat) : (unpoison s a n).out = s.out := by unfold unpoison; split <;> rfl
@[simp] theorem storeMem_mem (s : State) (a : Nat) (bs : List Byte) : (storeMem s a bs).mem = writeBytes s.mem a bs :=
  unpoison_mem _ _ _
@[simp] theorem storeMem_blocks (s : State) (a : Nat) (bs : List Byte) : (storeMem s a bs).blocks = s.blocks := unpoison_blocks _ _ _
@[simp] theorem storeMem_out (s : State) (a : Nat) (bs : List Byte) : (storeMem s a bs).out = s.out := unpoison_out _ _ _

/-! ### Operations of peers (R368, R369, R410) -/

/-- A part of a peer's write that its home performs is followed by the next part. -/
theorem peerParts_cons {s r t : State} {pasid dev : Nat} {again : Nat → Ev} {bytes bs : List Byte} {p : Nat × Nat × Nat}
    {ps : List (Nat × Nat × Nat)}
    (h : homeDo t hiveAgent false (peerReq s pasid dev (again p.2.2)) p.1 (.write ((bytes.drop p.2.2).take p.2.1)) p.2.1 =
      (r, .bytes bs)) :
    peerParts s pasid dev again bytes (p :: ps) t = peerParts s pasid dev again bytes ps r := by
  rw [peerParts, h]

section
variable {dev pasid asid : Nat} {v : Word} {red : Option (BitVec 4 × Ty)} {bytes : List Byte} {s u : State}
  (hu : u = wakeRim s [phyIsland (2 + peerPort s dev)])
include hu

/-- An operation that no binding names is refused. -/
theorem exec_peerOperationReceive_unbound (h : bound u pasid dev asid = false) :
    exec (.peerOperationReceive dev pasid asid v red bytes) s = .next (send u (.peerAnswer dev false 0)) := by
  change execPeerOperationReceive dev pasid asid v red bytes s = _
  unfold execPeerOperationReceive
  simp [← hu, h]

variable (hb : bound u pasid dev asid = true) (hm : portMay u pasid dev v.toNat bytes.length = true)
include hb hm

/-- An operation on an aperture address ends with its fault. -/
theorem exec_peerOperationReceive_aperture (h : isAperture v.toNat = true) :
    exec (.peerOperationReceive dev pasid asid v red bytes) s = .next (send u (.peerAnswer dev false 1)) := by
  change execPeerOperationReceive dev pasid asid v red bytes s = _
  unfold execPeerOperationReceive
  simp [← hu, hb, hm, h]

variable (ha : isAperture v.toNat = false) (hend : v.toNat + bytes.length ≤ 15 * 2 ^ 52)
include ha hend

/-- A contribution to a session that the context does not have is refused. -/
theorem exec_peerOperationReceive_noSession {sid : BitVec 4} {ty : Ty} (h : sessOf u pasid sid = none) :
    exec (.peerOperationReceive dev pasid asid v (some (sid, ty)) bytes) s = .next (send u (.peerAnswer dev false 2)) := by
  change execPeerOperationReceive dev pasid asid v (some (sid, ty)) bytes s = _
  unfold execPeerOperationReceive
  simp only [← hu, hb, hm, ha, decide_eq_false (Nat.not_lt.mpr hend), h, Bool.not_true, Bool.or_self, Bool.false_eq_true, if_false]

/-- A write is performed part by part at its homes, and its peer is told what became of it. -/
theorem exec_peerOperationReceive_write {again : Nat → Ev} {r : State} {a : HomeAns} {m : Nat}
    (hagain : again = fun k => .peerOperationReceive dev pasid asid (v + BitVec.ofNat 64 k) none (bytes.drop k))
    (h : peerParts u pasid dev again bytes (splitLines v.toNat bytes.length) u = (r, a, m)) :
    exec (.peerOperationReceive dev pasid asid v none bytes) s = .next (peerTold dev (again m) (r, a)) := by
  subst hagain
  change execPeerOperationReceive dev pasid asid v none bytes s = _
  unfold execPeerOperationReceive
  simp only [← hu, hb, hm, ha, decide_eq_false (Nat.not_lt.mpr hend), h, Bool.not_true, Bool.or_self, Bool.false_eq_true, if_false]

end

theorem peerTold_bytes (dev : Nat) (again : Ev) (t : State) (bs : List Byte) :
    peerTold dev again (t, .bytes bs) = send t (.peerAnswer dev true 0) := rfl
theorem peerTold_shadow (dev : Nat) (again : Ev) (t : State) :
    peerTold dev again (t, .fault causeShadow) = setDev t { t.dev with peerWaits := t.dev.peerWaits ++ [again] } := rfl
theorem peerTold_fault {c : BitVec 16} (dev : Nat) (again : Ev) (t : State) (h : c ≠ causeShadow) :
    peerTold dev again (t, .fault c) = send t (.peerAnswer dev false 1) := if_neg h

end Sys2Proof.Machine
end

section
namespace Sys2Proof.Proofs

open Sys2Proof.Machine

/-- Settles O57: an operation of the host or of a peer first wakes the islands that it passes; then each way in which it can end is one
lemma above. -/
theorem hostAndPeers : Obligations.HostAndPeers := by
  unfold Obligations.HostAndPeers
  intro port off v bytes s gives n
  have gives_send {u : State} {i : Instr} {m : OutMsg} (h : exec i s = .next (send u m)) : gives u i m := ⟨_, h, rfl⟩
  refine ⟨?islands, ⟨_, exec_registerWrite _ _ _, rfl⟩, ⟨_, exec_registerWrite _ _ _, rfl⟩, ?debug, ?registers, ?memory, ?peers⟩
  case islands => exact fun ns => ⟨mem_islands_wakeRim s ns, wakeRim_frame s ns⟩
  case debug =>
    intro core hc
    refine ⟨_, exec_registerWrite_debugSave s v hc, ?_, ?_, ?_⟩ <;> simp
  case registers =>
    intro u hu may
    refine ⟨fun h => gives_send (exec_hostRegAccess_refused hu h), fun h => gives_send (exec_hostRegAccess_refused hu h), ?_⟩
    intro w halign hw
    refine ⟨fun h => ?_, fun h => exec_hostRegAccess_performed hu hw h⟩
    obtain ⟨hmem, hout⟩ := regReadEffect_frame u off
    have hu_mem : u.mem = s.mem := by rw [hu, wakeRim_mem]
    have hu_out : u.out = s.out := by rw [hu, wakeRim_out]
    refine ⟨_, exec_hostRegAccess_performed hu hw h, ?_⟩
    simp only [Bool.false_eq_true, if_false, regRead_register halign hw, send, hmem, hout, hu_mem, hu_out, and_self]
  case memory =>
    intro u hu may
    refine ⟨fun h => ⟨gives_send (exec_hostMemAccess_refused hu h), gives_send (exec_hostMemAccess_refused hu h)⟩, ?_⟩
    intro hend hseed
    constructor
    · intro h0 h1
      refine ⟨_, exec_hostMemAccess_performed hu hend hseed h0 h1, ?_⟩
      simp [hu]
    · intro h0 h1 hclean
      have hclean' : poisonedIn u off n = false := by rw [← hclean, hu, poisonedIn, wakeRim_poisoned, poisonedIn]
      have hmem : u.mem = s.mem := by rw [hu, wakeRim_mem]
      refine gives_send ?_
      rw [exec_hostMemAccess_performed hu hend hseed h0 h1, hclean', hmem]
      rfl
  case peers =>
    intro dev pasid asid u hu op again parts
    refine ⟨fun p ps w r bs h => peerParts_cons h, fun red h => gives_send (exec_peerOperationReceive_unbound hu h), ?_⟩
    intro hb hm
    refine ⟨fun red h => gives_send (exec_peerOperationReceive_aperture hu hb hm h), ?_⟩
    intro ha hend
    have write {r : State} {a : HomeAns} {m : Nat} (h : parts (splitLines v.toNat n) u = (r, a, m)) :
        exec (op none) s = .next (peerTold dev (again m) (r, a)) :=
      exec_peerOperationReceive_write hu hb hm ha hend rfl h
    refine ⟨?_, ?_, fun sid ty h => gives_send (exec_peerOperationReceive_noSession hu hb hm ha hend h)⟩
    · intro r bs m h
      exact gives_send (by rw [write h, peerTold_bytes])
    · intro r c m h
      refine ⟨fun hc => ?_, fun hc => ?_⟩
      · exact gives_send (by rw [write h, peerTold_fault _ _ _ hc])
      · subst hc
        rw [write h, peerTold_shadow]
        rfl

end Sys2Proof.Proofs
end

section
/-!
PROOF. Shoot-downs (R105 to R108): what one names, its broadcast, and what a slice drops before it acknowledges.
-/

namespace Sys2Proof.Machine

/-! ### Blocks read after a block is set -/

/-- Setting a key leaves the value at every other key. -/
theorem mapGet_mapSet_ne {α : Type} (m : Map α) {a b : Nat} (x : α) (h : b ≠ a) : mapGet (mapSet m a x) b = mapGet m b := by
  induction m with
  | nil => simp [mapSet, mapGet, h]
  | cons p m ih =>
    obtain ⟨k, v⟩ := p
    unfold mapSet
    split
    case isTrue hk => subst hk; simp [mapGet, h]
    case isFalse hk =>
      split
      case isTrue hlt =>
        rw [mapGet, if_neg h]
        split
        case isTrue hb => rw [mapGet, if_neg (by omega), if_pos (by omega)]
        case isFalse => rfl
      case isFalse => rw [mapGet, mapGet, ih]

@[simp] theorem blockAt_setBlock_same (s : State) (b : Nat) (k : Block) : blockAt (setBlock s b k) b = k := by
  simp [blockAt]

theorem blockAt_setBlock_ne (s : State) {b n : Nat} (k : Block) (h : n ≠ b) : blockAt (setBlock s b k) n = blockAt s n := by
  rw [blockAt, setBlock_blocks, mapGet_mapSet_ne _ _ h, blockAt]

/-! ### What a shoot-down names (Table 5.6) -/

/-- A field of a word is a number of its bits. -/
theorem field_eq_extractLsb' (w : Word) (hi lo : Nat) : field w hi lo = (w.extractLsb' lo (hi + 1 - lo)).toNat := by
  rw [field, BitVec.extractLsb'_toNat, Nat.shiftRight_eq_div_pow]

theorem sdNames_iff (go : Word) (asid : Nat) :
    sdNames go asid = true ↔ go.getLsbD 20 = true ∨ (go.extractLsb' 0 16).toNat = asid := by
  rw [sdNames, field_eq_extractLsb', Bool.or_eq_true, beq_iff_eq]

/-- The page sizes by the number of the size field. -/
theorem sdSize_eq (go : Word) :
    sdSize go = match (go.extractLsb' 16 2).toNat with
      | 0 => 65536
      | 1 => 2 ^ 21
      | 2 => 2 ^ 26
      | _ => 2 ^ 32 := by
  have hlt : (go.extractLsb' 16 2).toNat < 4 := (go.extractLsb' 16 2).isLt
  rw [sdSize, field_eq_extractLsb']
  change List.getD _ (go.extractLsb' 16 2).toNat _ = _
  generalize (go.extractLsb' 16 2).toNat = k at hlt ⊢
  match k, hlt with
  | 0, _ | 1, _ | 2, _ | 3, _ => rfl

theorem sdSize_pos (go : Word) : 0 < sdSize go := by
  rw [sdSize_eq]
  split <;> decide

/-- An address of the aligned unit of n bytes at v lies in a page exactly where the two ranges overlap. -/
theorem exists_same_unit_iff {n size : Nat} (v page : Nat) (hn : 0 < n) (hsize : 0 < size) :
    (∃ x, v / n = x / n ∧ page ≤ x ∧ x < page + size) ↔ page < v / n * n + n ∧ v / n * n < page + size := by
  have unit (x : Nat) : v / n = x / n ↔ v / n * n ≤ x ∧ x < v / n * n + n := by
    rw [eq_comm, Nat.div_eq_iff hn]
    omega
  constructor
  · rintro ⟨x, hx, hlo, hhi⟩
    obtain ⟨hx1, hx2⟩ := (unit x).mp hx
    omega
  · rintro ⟨hlo, hhi⟩
    exact ⟨max (v / n * n) page, (unit _).mpr (by omega), by omega, by omega⟩

theorem sdMatches_iff (va go : Word) {e : TEntry} (hsize : 0 < e.size) :
    sdMatches va go e = true ↔ sdNames go e.asid = true ∧
      (go.getLsbD 19 = true ∨ ∃ x, va.toNat / sdSize go = x / sdSize go ∧ e.vpage ≤ x ∧ x < e.vpage + e.size) := by
  rw [exists_same_unit_iff _ _ (sdSize_pos go) hsize]
  simp [sdMatches]

/-! ### The broadcast of the go write -/

/-- Steps that are posted one after another join the pending ones in their order. -/
theorem foldl_post_map {α : Type} (f : α → Ev) (l : List α) (s : State) :
    l.foldl (fun st a => post st (f a)) s = { s with pending := s.pending ++ l.map f } := by
  induction l generalizing s with
  | nil => rw [List.foldl_nil, List.map_nil, List.append_nil]
  | cons a l ih =>
    rw [List.foldl_cons, ih, post_pending, List.append_assoc]
    rfl

theorem broadcast_busy {s : State} (h : s.dev.sdBusy = true) :
    broadcast s = { s with pending := s.pending ++ (List.range 256).map Ev.shootdownSliceAck } := by
  rw [broadcast, if_pos h, foldl_post_map]

theorem broadcast_idle {s : State} (h : s.dev.sdBusy = false) : broadcast s = s := by
  rw [broadcast, h, if_neg Bool.false_ne_true]

/-! ### Lines that leave a slice -/

/-- u differs from s at most in memory with its poison and in the cache lines of one block's slice. -/
structure SameButLines (blk : Nat) (s u : State) : Prop where
  frame : u = { s with mem := u.mem, poisoned := u.poisoned, blocks := u.blocks }
  others : ∀ n, n ≠ blk → blockAt u n = blockAt s n
  own : blockAt u blk = { blockAt s blk with lines := (blockAt u blk).lines }

theorem SameButLines.refl (blk : Nat) (s : State) : SameButLines blk s s := ⟨rfl, fun _ _ => rfl, rfl⟩

theorem SameButLines.trans {blk : Nat} {s u v : State} (hu : SameButLines blk s u) (hv : SameButLines blk u v) :
    SameButLines blk s v where
  frame := hv.frame.trans (by rw [hu.frame])
  others n hn := (hv.others n hn).trans (hu.others n hn)
  own := hv.own.trans (by rw [hu.own])

theorem sameButLines_memory (blk : Nat) (s : State) (m : List Host.Cell) (p : List Nat) :
    SameButLines blk s { s with mem := m, poisoned := p } := ⟨rfl, fun _ _ => rfl, rfl⟩

theorem setBlock_sameButLines (s : State) (blk : Nat) (lines : Map SliceLine) :
    SameButLines blk s (setBlock s blk { blockAt s blk with lines := lines }) :=
  ⟨rfl, fun _ hn => blockAt_setBlock_ne s _ hn, by rw [blockAt_setBlock_same]⟩

theorem addPoison_sameButLines (blk : Nat) (s : State) (a : Nat) : SameButLines blk s (addPoison s a) := by
  unfold addPoison
  split
  · exact .refl blk s
  · exact sameButLines_memory blk s s.mem _

theorem writeBack_sameButLines (blk : Nat) (s : State) (pa : Nat) (ln : SliceLine) : SameButLines blk s (writeBack s pa ln) := by
  refine List.foldlRecOn (motive := SameButLines blk s) _ _ (.refl blk s) fun st hst k _ => hst.trans ?_
  dsimp only
  split
  · split
    · exact (sameButLines_memory blk st _ _).trans (addPoison_sameButLines blk _ _)
    · exact sameButLines_memory blk st _ _
  · exact .refl blk st

theorem dropLine_sameButLines (s : State) (blk pa : Nat) : SameButLines blk s (dropLine s blk pa) := by
  have erased := setBlock_sameButLines s blk (mapErase (blockAt s blk).lines pa)
  unfold dropLine
  dsimp only
  split
  · exact .refl blk s
  · split
    · exact erased
    · exact erased.trans (writeBack_sameButLines blk _ pa _)

/-! ### A slice's steps (R107) -/

/-- A slice without the translations and the table entries that the shoot-down names. -/
def slicePurge (s : State) (blk : Nat) : State :=
  setBlock s blk { blockAt s blk with
    tcache := (blockAt s blk).tcache.filter (fun e => !sdMatches s.dev.sdReq.1 s.dev.sdReq.2.2 e)
    wcache := (blockAt s blk).wcache.filter (fun t => !sdNames s.dev.sdReq.2.2 t.1) }

theorem sdSlice_noFlush {s : State} (blk : Nat) (h : s.dev.sdReq.2.2.getLsbD 21 = false) : sdSlice s blk = slicePurge s blk := by
  unfold sdSlice
  dsimp only
  rw [h, if_neg Bool.false_ne_true]
  rfl

/-- After the purge a flush can only make lines leave. -/
theorem sdSlice_sameButLines (s : State) (blk : Nat) : SameButLines blk (slicePurge s blk) (sdSlice s blk) := by
  unfold sdSlice
  dsimp only
  split
  · exact List.foldlRecOn (motive := SameButLines blk (slicePurge s blk)) _ _ (.refl _ _)
      fun st hst l _ => hst.trans (dropLine_sameButLines st blk l.1)
  · exact .refl _ _

theorem sdSlice_tcache (s : State) (blk : Nat) :
    (blockAt (sdSlice s blk) blk).tcache = (blockAt s blk).tcache.filter (fun e => !sdMatches s.dev.sdReq.1 s.dev.sdReq.2.2 e) := by
  rw [(sdSlice_sameButLines s blk).own, slicePurge, blockAt_setBlock_same]

theorem sdSlice_wcache (s : State) (blk : Nat) :
    (blockAt (sdSlice s blk) blk).wcache = (blockAt s blk).wcache.filter (fun t => !sdNames s.dev.sdReq.2.2 t.1) := by
  rw [(sdSlice_sameButLines s blk).own, slicePurge, blockAt_setBlock_same]

theorem sdSlice_frame (s : State) (blk : Nat) :
    sdSlice s blk = { s with
      mem := (sdSlice s blk).mem, poisoned := (sdSlice s blk).poisoned, blocks := (sdSlice s blk).blocks } :=
  (sdSlice_sameButLines s blk).frame

theorem blockAt_sdSlice_ne (s : State) {blk n : Nat} (h : n ≠ blk) : blockAt (sdSlice s blk) n = blockAt s n :=
  ((sdSlice_sameButLines s blk).others n h).trans (blockAt_setBlock_ne s _ h)

/-! ### The acknowledgement of a slice -/

/-- The state with one more acknowledgement of the shoot-down. -/
def countAck (s : State) : State := setDev s { s.dev with sdAcks := s.dev.sdAcks + 1 }

theorem blockAt_countAck (s : State) (n : Nat) : blockAt (countAck s) n = blockAt s n := rfl

/-- What a slice leaves that acknowledges: one in service has taken its steps, any other holds nothing to drop. -/
def sliceAcked (s : State) (blk : Nat) : State := countAck (if serves s blk then sdSlice s blk else s)

theorem sliceAcked_serves {s : State} {blk : Nat} (h : serves s blk = true) : sliceAcked s blk = countAck (sdSlice s blk) := by
  rw [sliceAcked, if_pos h]

theorem sliceAcked_notServes {s : State} {blk : Nat} (h : serves s blk = false) : sliceAcked s blk = countAck s := by
  rw [sliceAcked, h, if_neg Bool.false_ne_true]

/-- A slice that acknowledges adds one and leaves the other blocks, the cores and the contexts. -/
theorem sliceAcked_frame (s : State) (blk : Nat) :
    (sliceAcked s blk).dev.sdAcks = s.dev.sdAcks + 1 ∧ (∀ n, n ≠ blk → blockAt (sliceAcked s blk) n = blockAt s n) ∧
    (sliceAcked s blk).core = s.core ∧ (sliceAcked s blk).cores = s.cores ∧ (sliceAcked s blk).ctxs = s.ctxs := by
  cases h : serves s blk with
  | true =>
    rw [sliceAcked_serves h]
    refine ⟨?_, fun n hn => (blockAt_countAck _ n).trans (blockAt_sdSlice_ne s hn), ?_⟩ <;> rw [sdSlice_frame]
    · rfl
    · exact ⟨rfl, rfl, rfl⟩
  | false =>
    rw [sliceAcked_notServes h]
    exact ⟨rfl, fun n _ => blockAt_countAck s n, rfl, rfl, rfl⟩

/-- The steps of SHOOTDOWN and SHOOTDOWN_FLUSH are the broadcast; a slice drops its lines only as it acknowledges. -/
theorem exec_shootdown (go : Word) (s : State) :
    exec (.shootdown go) s = .next (broadcast s) ∧ exec (.shootdownFlush go) s = .next (broadcast s) := ⟨rfl, rfl⟩

theorem exec_shootdownSliceAck_idle {s : State} (blk : Nat) (h : s.dev.sdBusy = false) :
    exec (.shootdownSliceAck blk) s = .next s := by
  change execShootdownSliceAck blk s = _
  simp [execShootdownSliceAck, h]

section
variable {s : State} {blk : Nat} (hbusy : s.dev.sdBusy = true)
include hbusy

theorem exec_shootdownSliceAck_waits (hs : serves s blk = true) (hw : sdWaits s blk = true) :
    exec (.shootdownSliceAck blk) s = .next (post s (.shootdownSliceAck blk)) := by
  change execShootdownSliceAck blk s = _
  simp [execShootdownSliceAck, hbusy, hs, hw]

/-- A slice that need not wait acknowledges, and the 256th acknowledgement ends the shoot-down. -/
theorem exec_shootdownSliceAck_acks (h : serves s blk = false ∨ sdWaits s blk = false) :
    exec (.shootdownSliceAck blk) s =
      .next (if 255 ≤ s.dev.sdAcks then sdFinish (sliceAcked s blk) else sliceAcked s blk) := by
  have hgo : (serves s blk && sdWaits s blk) = false := by
    rcases h with h | h <;> simp [h]
  obtain ⟨hacks, -⟩ := sliceAcked_frame s blk
  have hlast : 256 ≤ (sliceAcked s blk).dev.sdAcks ↔ 255 ≤ s.dev.sdAcks := by omega
  change execShootdownSliceAck blk s = _
  unfold execShootdownSliceAck
  simp only [hbusy, hgo, Bool.not_true, Bool.false_eq_true, if_false, ← hlast]
  rfl

end

end Sys2Proof.Machine
end

section
namespace Sys2Proof.Proofs

open Sys2Proof.Machine

/-- Settles O55: what is named is an overlap of two ranges; a slice's purge filters its two caches, and the lines that a flush makes
leave touch neither these caches nor another block. -/
theorem shootdowns : Obligations.Shootdowns := by
  unfold Obligations.Shootdowns
  intro go blk s acks
  obtain ⟨hexec, hexecFlush⟩ := exec_shootdown go s
  refine ⟨sdNames_iff go, ?names, ?broadcast, ?idle, exec_shootdownSliceAck_waits, ?acks, ?status⟩
  case names =>
    intro va e n hn hsize
    obtain rfl : n = sdSize go := hn.trans (sdSize_eq go).symm
    exact sdMatches_iff va go hsize
  case broadcast =>
    intro h
    rw [hexec, hexecFlush, broadcast_busy h]
    exact ⟨rfl, rfl⟩
  case idle =>
    intro h
    rw [hexec, broadcast_idle h]
    exact ⟨rfl, exec_shootdownSliceAck_idle blk h⟩
  case acks =>
    intro hbusy h
    obtain ⟨hacks, hothers, hcore, hcores, hctxs⟩ := sliceAcked_frame s blk
    refine ⟨sliceAcked s blk, exec_shootdownSliceAck_acks hbusy h, hacks, hothers, hcore, hcores, hctxs, fun hs => ?_⟩
    rw [sliceAcked_serves hs, blockAt_countAck, sdSlice_tcache, sdSlice_wcache]
    refine ⟨fun e he => ?_, fun e he hkept => ?_, fun e he => ?_, fun hflush => ?_⟩
    · simpa using (List.mem_filter.mp he).2
    · exact List.mem_filter.mpr ⟨he, by rw [hkept]; rfl⟩
    · simpa using (List.mem_filter.mp he).2
    · rw [sdSlice_noFlush blk hflush, slicePurge, blockAt_setBlock_same]
      exact ⟨rfl, rfl⟩
  case status => exact ⟨_, rfl, rfl, rfl, rfl, rfl⟩

end Sys2Proof.Proofs
end

section
/-!
PROOF. Timelines (R127 to R129, R344 to R346): what an operation that joins leaves, how V follows completion, and the timeline
instructions.
-/

namespace Sys2Proof.Machine

/-! ### Cores and threads -/

theorem coreOf_setCore_ne (s : State) {c n : Nat} (k : Core) (h : n ≠ c) : coreOf (setCore s c k) n = coreOf s n := by
  unfold coreOf setCore
  by_cases hc : c = s.me
  · simp [hc, hc ▸ h]
  · simp [hc, mapGet_mapSet_ne _ _ h]

@[simp] theorem setThr_core_ops (s : State) (t : Thread) : (setThr s t).core.ops = s.core.ops := by unfold setThr; split <;> rfl
@[simp] theorem setThr_core_tls (s : State) (t : Thread) : (setThr s t).core.tls = s.core.tls := by unfold setThr; split <;> rfl
@[simp] theorem setThr_core_l1 (s : State) (t : Thread) : (setThr s t).core.l1 = s.core.l1 := by unfold setThr; split <;> rfl
@[simp] theorem xset_core_ops (s : State) (r : XReg) (w : Word) : (xset s r w).core.ops = s.core.ops := setThr_core_ops s _
@[simp] theorem xset_core_tls (s : State) (r : XReg) (w : Word) : (xset s r w).core.tls = s.core.tls := setThr_core_tls s _

/-! ### Checks before an effect -/

@[simp] theorem checked_none (r : Res) : checked none r = r := rfl
@[simp] theorem checked_some (f : BitVec 16 × Word) (r : Res) : checked (some f) r = .trap f.1 f.2 := rfl

theorem checkScope_wellFormed {x : Word} (h : malformedScope x = false) : checkScope x = none := by
  rw [checkScope, h, if_neg Bool.false_ne_true]

/-! ### The set of a core's timelines -/

theorem tlsNow_eq {k : Core} {set : TlSet} (h : k.tls = some set) : tlsNow k = set := by
  rw [tlsNow, h, Option.getD_some]

theorem tlGet_tlSet_same (t : TlSet) (n : BitVec 3) (x : Timeline) : tlGet (tlSet t n x) n = x :=
  Vector.getElem_set_self n.isLt

theorem tlGet_tlSet_ne (t : TlSet) {n j : BitVec 3} (x : Timeline) (h : j ≠ n) : tlGet (tlSet t n x) j = tlGet t j :=
  Vector.getElem_set_ne n.isLt j.isLt fun e => h (BitVec.eq_of_toNat_eq e.symm)

/-- A core that holds something stands before any that was saved from its position. -/
theorem holder_running {s : State} {core : Nat} {p : Core → Bool} (h : p (coreOf s core) = true) :
    holder s core p = some (coreOf s core) := if_pos h

theorem setHolder_running {s : State} {core : Nat} {p : Core → Bool} (f : Core → Core) (h : p (coreOf s core) = true) :
    setHolder s core p f = setCore s core (f (coreOf s core)) := if_pos h

/-- The timelines of the launch that the issuing core runs are those it holds. -/
theorem tlOf_me {s : State} {set : TlSet} (h : s.core.tls = some set) (n : BitVec 3) :
    tlOf s s.me (tlsNow s.core).serial n = tlGet set n := by
  have hme : coreOf s s.me = s.core := if_pos rfl
  unfold tlOf
  dsimp only
  rw [holder_running (by simp [hme, h, tlsNow_eq h]), hme]
  simp [tlsOf, h, tlsNow_eq h, TlSet.isOf, Option.filter]

/-! ### An operation joins (R127, R358) -/

/-- The state in which an operation has joined its timeline and its number stands in d. -/
def opJoined (s : State) (tl ch : BitVec 3) (d : XReg) (op : EOp) (tag : Option (Nat × Nat × Nat)) : State :=
  xset (issueOp s tl ch op tag) d (BitVec.ofNat 64 (tlNext s.core tl))

section
variable (s : State) (tl ch : BitVec 3) (d : XReg) (op : EOp) (tag : Option (Nat × Nat × Nat))

@[simp] theorem opJoined_mem : (opJoined s tl ch d op tag).mem = s.mem := xset_mem _ _ _
@[simp] theorem opJoined_net : (opJoined s tl ch d op tag).net = s.net := xset_net _ _ _
@[simp] theorem opJoined_blocks : (opJoined s tl ch d op tag).blocks = s.blocks := xset_blocks _ _ _
@[simp] theorem opJoined_ctxs : (opJoined s tl ch d op tag).ctxs = s.ctxs := xset_ctxs _ _ _
@[simp] theorem opJoined_cores : (opJoined s tl ch d op tag).cores = s.cores := xset_cores _ _ _

@[simp] theorem opJoined_ops : (opJoined s tl ch d op tag).core.ops = s.core.ops ++ [newOp s tl ch op tag] := xset_core_ops _ _ _

/-- The thread is that of the state before, with the number in d. -/
theorem thr_opJoined : thr (opJoined s tl ch d op tag) = (thr s).xset d (BitVec.ofNat 64 (tlNext s.core tl)) := thr_xset _ _ _

@[simp] theorem opJoined_pc : (thr (opJoined s tl ch d op tag)).pc = (thr s).pc := by rw [thr_opJoined, Thread.xset_pc]

variable {s tl ch d op tag}

theorem xget_opJoined_same (hd : d ≠ 0) : xget (opJoined s tl ch d op tag) d = BitVec.ofNat 64 (tlNext s.core tl) := by
  rw [xget, thr_opJoined, Thread.xget_xset_same _ _ _ hd]

theorem xget_opJoined_ne {q : XReg} (hq : q ≠ d) : xget (opJoined s tl ch d op tag) q = xget s q := by
  rw [xget, thr_opJoined, Thread.xget_xset_ne _ _ _ _ hq, xget]

/-- I of the timeline is the operation's number. -/
theorem opJoined_issued : (tlGet (tlsNow (opJoined s tl ch d op tag).core) tl).i = tlNext s.core tl := by
  have htls : (opJoined s tl ch d op tag).core.tls = (tlIssue s.core tl).tls := xset_core_tls _ _ _
  rw [tlsNow_eq (htls.trans rfl), tlGet_tlSet_same, tlNext]

end

/-! ### V follows completion (R127) -/

/-- Timeline u has I of t; its V is the last number below which all have ended, and the numbers above V that have ended are listed. -/
structure VFollows (ended : Nat → Prop) (t u : Timeline) : Prop where
  issued : u.i = t.i
  below : ∀ x, x ≤ u.v → ended x
  next : ¬ ended (u.v + 1)
  above : ∀ x, x ∈ u.doneAbove ↔ ended x ∧ u.v < x

/-- A timeline whose next number has not ended stands still. -/
theorem vFollows_still {v : Nat} {done : List Nat} (t : Timeline) (habove : ∀ x ∈ done, v < x) (hnext : v + 1 ∉ done) :
    VFollows (fun x => x ≤ v ∨ x ∈ done) t { t with v := v, doneAbove := done } where
  issued := rfl
  below _ hx := .inl hx
  next := by
    rintro (h | h)
    · exact absurd h (Nat.not_succ_le_self v)
    · exact hnext h
  above x := by
    refine ⟨fun hx => ⟨.inr hx, habove x hx⟩, ?_⟩
    rintro ⟨h | h, hv⟩
    · exact absurd hv (Nat.not_lt.mpr h)
    · exact h

/-- A number that has ended may be counted below V or listed above it. -/
theorem ended_next {v : Nat} {done : List Nat} (h : v + 1 ∈ done) :
    (fun x => x ≤ v + 1 ∨ x ∈ done.filter (· != v + 1)) = fun x => x ≤ v ∨ x ∈ done := by
  funext x
  by_cases hx : x = v + 1
  · simp [hx, h]
  · have : x ≤ v + 1 ↔ x ≤ v := by omega
    simp [hx, this]

/-- The run is followed to its end where its bound is no less than the numbers listed: each step takes one of them off the list. -/
theorem tlAdvance_follows {v f : Nat} {done : List Nat} (t : Timeline) (hlen : done.length ≤ f) (habove : ∀ x ∈ done, v < x) :
    VFollows (fun x => x ≤ v ∨ x ∈ done) t (tlAdvance v done f t) := by
  induction f generalizing v done with
  | zero =>
    obtain rfl : done = [] := List.eq_nil_of_length_eq_zero (Nat.le_zero.mp hlen)
    exact vFollows_still t habove (List.not_mem_nil)
  | succ f ih =>
    unfold tlAdvance
    split
    case isTrue h =>
      have hmem : v + 1 ∈ done := List.contains_iff_mem.mp h
      have hshorter : (done.filter (· != v + 1)).length < done.length :=
        List.length_filter_lt_length_iff_exists.mpr ⟨v + 1, hmem, by simp⟩
      rw [← ended_next hmem]
      refine ih (by omega) fun x hx => ?_
      obtain ⟨hx, hne⟩ := List.mem_filter.mp hx
      have := habove x hx
      have : x ≠ v + 1 := by simpa using hne
      omega
    case isFalse h =>
      exact vFollows_still t habove fun hmem => h (List.contains_iff_mem.mpr hmem)

/-- The completion of a number moves V over the unbroken run. -/
theorem complete_follows {t : Timeline} (m : Nat) (habove : ∀ x ∈ t.doneAbove, t.v + 1 < x) :
    VFollows (fun x => x ≤ t.v ∨ x ∈ t.doneAbove ∨ x = m) t (t.complete m) := by
  have hlt : ∀ x ∈ t.doneAbove, t.v < x := fun x hx => Nat.lt_of_succ_lt (habove x hx)
  unfold Timeline.complete
  split
  case isTrue h =>
    have hended : (fun x => x ≤ t.v ∨ x ∈ t.doneAbove ∨ x = m) = fun x => x ≤ t.v ∨ x ∈ t.doneAbove := by
      rw [List.contains_iff_mem] at h
      funext x
      by_cases hx : x = m
      · subst hx; simp [h]
      · simp [hx]
    rw [hended]
    exact vFollows_still t hlt fun hmem => Nat.lt_irrefl _ (habove _ hmem)
  case isFalse h =>
    have hended : (fun x => x ≤ t.v ∨ x ∈ t.doneAbove ∨ x = m) = fun x => x ≤ t.v ∨ x ∈ t.doneAbove ++ [m] := by
      funext x
      simp
    rw [hended]
    refine tlAdvance_follows t (by simp) fun x hx => ?_
    rcases List.mem_append.mp hx with hx | hx
    · exact hlt x hx
    · obtain rfl := List.mem_singleton.mp hx
      omega

/-! ### TIMELINE_COMPLETE -/

/-- A change of a core that leaves its timelines leaves those of every core. -/
theorem setHolder_tls (s : State) (core n : Nat) (p : Core → Bool) {f : Core → Core} (hf : ∀ k, (f k).tls = k.tls) :
    (coreOf (setHolder s core p f) n).tls = (coreOf s n).tls := by
  unfold setHolder
  split
  · by_cases hn : n = core
    · rw [hn, coreOf_setCore, hf]
    · rw [coreOf_setCore_ne _ _ hn]
  · rfl

theorem workDone_tls (s : State) (core n : Nat) (p : EngOp → Bool) :
    (coreOf (workDone s core p) n).tls = (coreOf s n).tls := by
  unfold workDone
  dsimp only
  split
  · rfl
  · exact setHolder_tls s core n _ fun _ => rfl

theorem releaseWalk_tls (s : State) (asid wid : Nat) (cores : List Nat) (n : Nat) :
    (coreOf (releaseWalk s asid wid cores) n).tls = (coreOf s n).tls := by
  unfold releaseWalk
  split
  · rfl
  · exact List.foldlRecOn (motive := fun u => (coreOf u n).tls = (coreOf s n).tls) _ _ rfl
      fun u hu core _ => (workDone_tls u core n _).trans hu

/-- What the completion of an operation brings about elsewhere moves no timeline. -/
theorem afterOp_tls (s : State) (o : EngOp) (n : Nat) : (coreOf (afterOp s o) n).tls = (coreOf s n).tls := by
  unfold afterOp
  split
  case h_1 =>
    unfold openEnded
    split
    · rfl
    · split
      · rfl
      · split
        · rfl
        · exact releaseWalk_tls _ _ _ _ n
  case h_2 => rfl

theorem tlComplete_tls {k : Core} {set : TlSet} (n : BitVec 3) (m : Nat) (h : k.tls = some set) :
    (tlComplete k set.serial n m).tls = some (tlSet set n ((tlGet set n).complete m)) := by
  simp [tlComplete, h]

/-- The operation of a core that runs ends on that core. -/
theorem exec_timelineComplete {s : State} {core tl m : Nat} {o : EngOp}
    (h : (coreOf s core).ops.find? (completes s core tl m) = some o) :
    exec (.timelineComplete core tl m) s = .next (afterOp (setCore s core
      (tlComplete { coreOf s core with ops := (coreOf s core).ops.filter (fun x => x.id != o.id) } o.serial (BitVec.ofNat 3 tl) m)) o) := by
  have hholds : holdsOp (completes s core tl m) (coreOf s core) = true :=
    List.any_eq_true.mpr ⟨o, List.mem_of_find?_eq_some h, List.find?_some h⟩
  change execTimelineComplete core tl m s = _
  rw [execTimelineComplete, holder_running hholds, Option.bind_some, h]
  dsimp only
  rw [setHolder_running _ hholds]

/-! ### TLW_SATISFIED -/

theorem exec_tlwSatisfied {s : State} {core on tl : Nat} {m scope : Word} (hw : (coreOf s core).ct.wait = .tlw on tl m scope)
    (h : tlwReady s core = true) : exec (.tlwSatisfied core) s = .next (finishWait (acquireAt s core scope) core false) := by
  change execTlwSatisfied core s = _
  simp [execTlwSatisfied, hw, h]

/-- A core that ends its wait has stepped past its instruction. -/
theorem coreOf_finishWait_compute (s : State) (core : Nat) :
    coreOf (finishWait s core false) core =
      { coreOf s core with ct := (coreOf s core).ct.step 1 (coreOf s core).ct.parkEnds } := by
  unfold finishWait setThread
  rw [coreOf_setCore]
  rfl

theorem finishWait_mem (s : State) (core : Nat) (mt : Bool) : (finishWait s core mt).mem = s.mem := setCore_mem _ _ _

theorem coreOf_acquireAt (s : State) (core : Nat) (scope : Word) :
    coreOf (acquireAt s core scope) core = (coreOf s core).l1Acquire s scope := coreOf_setCore _ _ _

theorem acquireAt_mem (s : State) (core : Nat) (scope : Word) : (acquireAt s core scope).mem = s.mem := setCore_mem _ _ _

/-! ### TLR, TLW and TLS -/

theorem tlr_completes {h : Hdr} {n : BitVec 3} (issued : Bool) {d : XReg} {s : State} {set : TlSet} (hset : s.core.tls = some set)
    (hr : Ready infoC h { xw := [d] } s) :
    Completes 1 (.tlr h n issued d none) s
      (xset s d (BitVec.ofNat 64 (if issued then (tlGet set n).i else (tlGet set n).v))) := by
  refine completes_of_done _ rfl hr ?_ (by simp)
  simp [checkMember, tlCore, tlOf_me hset, writeX]

section
variable {h : Hdr} {n : BitVec 3} {a b : XReg} {s : State} {set : TlSet} (hset : s.core.tls = some set)
  (hscope : malformedScope (xget s b) = false) (hloads : loadsBound s s.me false = true)
include hset hloads

/-- With its loads bound a TLW may end exactly where its value is reached. -/
theorem tlwMet_me (v : Word) : tlwMet s s.me s.me n.toNat v = decide (v.toNat ≤ (tlGet set n).v) := by
  have hme : coreOf s s.me = s.core := if_pos rfl
  rw [tlwMet, hme, BitVec.ofNat_toNat, BitVec.setWidth_eq, tlOf_me hset, hloads, Bool.and_true]

include hscope

theorem tlwRes_eq :
    tlwRes n a b none s = if (xget s a).toNat ≤ (tlGet set n).v then .done (acquire s (xget s b))
      else .park (setThr s ((thr s).beginWait (.tlw s.me n.toNat (xget s a) (xget s b)) s.dev.time)) := by
  simp [tlwRes, checkScope_wellFormed hscope, orElse, checkMember, tlCore, tlwMet_me hset hloads]

end

/-- A release that the thread does not wait for can only start a pass of replay (R450). -/
theorem releasePass_cases (s : State) (scope : Word) :
    releasePass s scope = post s (.replayPass s.me s.onMt) ∨ releasePass s scope = s := by
  unfold releasePass startPass
  split
  · split
    · exact .inl rfl
    · exact .inr rfl
  · exact .inr rfl

section
variable (s : State) (scope : Word)

@[simp] theorem releasePass_core : (releasePass s scope).core = s.core := by
  obtain h | h := releasePass_cases s scope <;> rw [h]; rfl
@[simp] theorem releasePass_mem : (releasePass s scope).mem = s.mem := by
  obtain h | h := releasePass_cases s scope <;> rw [h]; rfl
@[simp] theorem releasePass_net : (releasePass s scope).net = s.net := by
  obtain h | h := releasePass_cases s scope <;> rw [h]; rfl
@[simp] theorem thr_releasePass : thr (releasePass s scope) = thr s := by
  obtain h | h := releasePass_cases s scope <;> rw [h]; rfl

end

/-- TLS joins tl7 as a release of what its thread has done so far. -/
theorem tlsRes_eq {d a : XReg} {s : State} (h : malformedScope (xget s a) = false) :
    tlsRes d a s = .done (opJoined (releasePass s (xget s a)) 7 0 d (.release (xget s a) (thr s).seq) none) := by
  simp [tlsRes, checkScope_wellFormed h, opJoined]

end Sys2Proof.Machine
end

section
namespace Sys2Proof.Proofs

open Sys2Proof.Machine

/-- Settles O40: the timelines of the issuing core are those it holds, and V follows the unbroken run by induction on its bound. -/
theorem timelineInstructions : Obligations.TimelineInstructions := by
  unfold Obligations.TimelineInstructions
  intro h n d a b s gone
  refine ⟨?own, ?tls, ?satisfied, ?complete⟩
  case own =>
    intro set hset tl
    refine ⟨fun hr => ⟨tlr_completes false hset hr, tlr_completes true hset hr⟩, fun hr hscope hloads => ?_⟩
    have hres := tlwRes_eq (n := n) (a := a) hset hscope hloads
    constructor
    · intro hle
      exact completes_of_done (tlwRes n a b none) rfl hr (hres.trans (if_pos hle)) rfl
    · intro hlt
      refine ⟨_, parks_of_park (tlwRes n a b none) rfl hr (hres.trans (if_neg (Nat.not_le.mpr hlt))) ?_ rfl, ?_⟩
      · rw [thr_setThr]; rfl
      · simp only [thr_setThr, setThr_core_l1, setThr_mem, xget]
        exact ⟨rfl, trivial, trivial, fun _ => rfl⟩
  case tls =>
    intro hr hscope
    have hnum : tlNext (releasePass s (xget s a)).core 7 = tlNext s.core 7 := by rw [releasePass_core]
    refine ⟨_, _, completes_of_done (tlsRes d a) rfl hr (tlsRes_eq hscope) (by simp), fun hd => ?_, fun x hx => ?_, ?_,
      by rw [opJoined_ops, releasePass_core], rfl, rfl, hnum, by simp, by simp⟩
    · rw [xget_opJoined_same hd, hnum, BitVec.toNat_ofNat]
    · rw [xget_opJoined_ne hx, xget, thr_releasePass, xget]
    · rw [opJoined_issued, hnum]
  case satisfied =>
    intro c on tl m scope hw hready
    refine ⟨_, exec_tlwSatisfied hw hready, ?_⟩
    rw [coreOf_finishWait_compute, coreOf_acquireAt, finishWait_mem, acquireAt_mem]
    exact ⟨rfl, rfl, rfl, rfl⟩
  case complete =>
    intro c m o set hfind hset hserial _ old habove
    have hfollows := complete_follows m habove
    rw [← tlGet_tlSet_same set n (old.complete m)] at hfollows
    obtain ⟨hissued, hbelow, hnext, hdone⟩ := hfollows
    refine ⟨_, tlSet set n (old.complete m), exec_timelineComplete hfind, ?_, ?_⟩
    · rw [afterOp_tls, coreOf_setCore, ← hserial, BitVec.ofNat_toNat, BitVec.setWidth_eq]
      exact tlComplete_tls n m hset
    · exact ⟨hissued, hbelow, hnext, hdone, fun j hj => tlGet_tlSet_ne set _ hj⟩

end Sys2Proof.Proofs
end

section
/-!
PROOF. Copies, peer operations and cache commands at their issue (R124, R358, R360, R363 to R373): the checks in their order, and an
operation that joins its timeline.
-/

namespace Sys2Proof.Machine

/-! ### Checks in their order -/

@[simp] theorem firstOf_nil : firstOf [] = none := rfl
@[simp] theorem firstOf_none (l : List (Option (BitVec 16 × Word))) : firstOf (none :: l) = firstOf l := rfl
@[simp] theorem firstOf_some (f : BitVec 16 × Word) (l : List (Option (BitVec 16 × Word))) : firstOf (some f :: l) = some f := rfl

@[simp] theorem memOperand_false (x : Word) : memOperand false x = none := rfl
@[simp] theorem memOperand_true (x : Word) : memOperand true x = some (causeMemOperand, x) := rfl

theorem memOperand_within {n bound : Nat} (h : n < bound) (x : Word) : memOperand (decide (bound ≤ n)) x = none := by
  rw [decide_eq_false (Nat.not_le.mpr h), memOperand_false]

theorem memOperand_beyond {n bound : Nat} (h : bound ≤ n) (x : Word) :
    memOperand (decide (bound ≤ n)) x = some (causeMemOperand, x) := by
  rw [decide_eq_true h, memOperand_true]

theorem memOperand_aligned {n unit : Nat} (h : n % unit = 0) (x : Word) : memOperand (n % unit != 0) x = none := by
  rw [h, bne_self_eq_false, memOperand_false]

theorem memOperand_misaligned {n unit : Nat} (h : n % unit ≠ 0) (x : Word) :
    memOperand (n % unit != 0) x = some (causeMemOperand, x) := by
  rw [bne_iff_ne.mpr h, memOperand_true]

/-- A condition that must hold, and does. -/
theorem memOperand_holds {p : Bool} (h : p = true) (x : Word) : memOperand (!p) x = none := by
  rw [h, Bool.not_true, memOperand_false]

/-! ### Fields of the operand of a peer operation -/

theorem field_low16 (w : Word) : field w 15 0 = w.toNat % 2 ^ 16 := by simp [field]

theorem field_low16_eq {w : Word} (h : w.toNat < 2 ^ 16) : field w 15 0 = w.toNat := by
  rw [field_low16, Nat.mod_eq_of_lt h]

theorem field_redNumber {w : Word} (h : w.toNat < 2 ^ 20) : field w 19 16 = w.toNat / 2 ^ 16 := by
  rw [field, Nat.mod_eq_of_lt (by omega)]

/-! ### An operation joins at its issue -/

/-- The compute thread's earlier stores are performed: the first access of a routine waits for nothing (R124). -/
theorem routineGate_open {s : State} (hclear : ∀ x ∈ accsOf s s.me false, x.op.writes = true → x.performed = true) (r : Res) :
    routineGate s r = r := by
  have hnone : ((accsOf s s.me false).any fun x => x.op.writes && decide (x.seq < (thr s).stallUntil) && !x.performed) = false := by
    refine Bool.eq_false_iff.mpr fun h => ?_
    obtain ⟨x, hx, h⟩ := List.any_eq_true.mp h
    simp only [Bool.and_eq_true] at h
    obtain ⟨⟨hwrites, -⟩, hopen⟩ := h
    simp [hclear x hx hwrites] at hopen
  rw [routineGate, hnone, Bool.and_false, if_neg Bool.false_ne_true]

section
variable {s : State} {tl ch : BitVec 3} {d : XReg} {op : EOp}
  (hclear : ∀ x ∈ accsOf s s.me false, x.op.writes = true → x.performed = true) (hroom : opsOn s.core tl < 8)
include hroom

theorem joinTl_room (tag : Option (Nat × Nat × Nat)) : joinTl tl ch d op tag s = .done (opJoined s tl ch d op tag) :=
  if_neg (Nat.not_le.mpr hroom)

include hclear

theorem joinGated_room (tag : Option (Nat × Nat × Nat)) : joinGated tl ch d op tag s = .done (opJoined s tl ch d op tag) := by
  rw [joinGated, routineGate_open hclear, joinTl_room hroom]

theorem joinStatus_room (at_ : Option Nat) : joinStatus tl ch d op at_ s = .done (opJoined s tl ch d op none) := by
  rw [joinStatus, joinGated_room hclear hroom, joinTl_room hroom, ite_self]

end

/-- An instruction whose effect is that its operation joins completes with the operation at the end of its core's list, its number in d
and in I, and everything else as it was. -/
theorem joins_of_body {h : Hdr} {u : Uses} {i : Instr} {s : State} {tl : BitVec 3} {d : XReg} {op : EOp}
    {tag : Option (Nat × Nat × Nat)} (body : State → Res) (hx : exec i s = issue infoM h u body s) (hr : Ready infoM h u s)
    (hb : body s = .done (opJoined s tl h.ch d op tag)) :
    ∃ r o, Completes 1 i s r ∧ r.core.ops = s.core.ops ++ [o] ∧ o.op = op ∧ o.tl = tl.toNat ∧ o.num = tlNext s.core tl ∧ o.tag = tag ∧
      o.cursor = 0 ∧ o.phase = 0 ∧ o.ch = h.ch ∧ o.asid = myAsid s ∧ o.priv = (thr s).priv ∧
      (tlGet (tlsNow r.core) tl).i = o.num ∧ (d ≠ 0 → xget r d = BitVec.ofNat 64 o.num) ∧ (∀ q, q ≠ d → xget r q = xget s q) ∧
      r.mem = s.mem ∧ r.net = s.net ∧ r.blocks = s.blocks ∧ r.ctxs = s.ctxs ∧ r.cores = s.cores := by
  refine ⟨_, newOp s tl h.ch op tag, completes_of_done body hx hr hb (by simp), by simp, ?_⟩
  exact ⟨rfl, rfl, rfl, rfl, rfl, rfl, rfl, rfl, rfl, opJoined_issued, xget_opJoined_same, fun q hq => xget_opJoined_ne hq,
    by simp, by simp, by simp, by simp, by simp⟩

/-- The record of a gather that has come is read no more. -/
theorem readRecord_got {s : State} (h : (thr s).got ≠ []) (ch : BitVec 3) (va : Word) (n : Nat) (f : List Byte → Res) :
    readRecord ch va n s f = f (thr s).got := by
  simp [readRecord, readHeldFor, h]

/-- The bytes that a gather's record names, of a tensor's elements (R366). -/
def gatherBytes (bs : List Byte) (t : DescVal) : Nat :=
  (genSteps bs (field (recWord bs 0) 11 8)).foldl (fun acc x => acc * x.1) (field (recWord bs 0) 31 16 * ((dType t).width / 8))

/-- A gather's record is well formed, and the tensor that it names is loaded and has its dimensions and elements of whole bytes. -/
structure GatherFits (s : State) (bs : List Byte) (t : DescVal) : Prop where
  fields : genFieldsOk bs = true
  loaded : ldtGet s ((recWord bs 0).setWidth 8) = some t
  dims : ∀ q ∈ genSteps bs (field (recWord bs 0) 11 8), q.2.1 < dRank t
  notI4 : dType t ≠ .i4
  notGq4 : dType t ≠ .gq4

theorem cpygWith_fits {s1 : Bool} {ch : BitVec 3} {d a c : XReg} {e : Option XReg} {s : State} {bs : List Byte} {t : DescVal}
    (hfits : GatherFits s bs t) (hbytes : gatherBytes bs t < 2 ^ 32) (hrange : checkRange s (xget s a) (gatherBytes bs t) = none)
    (htag : checkTag s e = none) :
    cpygWith s1 ch d a c e s bs =
      joinGated (streamTl s1) ch d
        (.gather (xget s a).toNat (gatherBytes bs t) t (genSteps bs (field (recWord bs 0) 11 8)) (field (recWord bs 0) 31 16)
          ((List.range 4).map (fun m => int16 (coordOf (xget s c) m)))) (tagOf s e) s := by
  obtain ⟨hfields, hloaded, hdims, hi4, hgq4⟩ := hfits
  have hdims' : (genSteps bs (field (recWord bs 0) 11 8)).any (fun x => decide (dRank t ≤ x.2.1)) = false := by
    simpa using hdims
  have htype : (dType t == .i4 || dType t == .gq4) = false := by
    simp [hi4, hgq4]
  rw [gatherBytes] at hbytes hrange ⊢
  simp only [cpygWith, hfields, Bool.not_true, Bool.false_eq_true, if_false, hloaded, hdims', htype, memOperand_false,
    memOperand_within hbytes, hrange, htag, firstOf_none, firstOf_nil, checked_none]

end Sys2Proof.Machine
end

section
namespace Sys2Proof.Proofs

open Sys2Proof.Machine

/-- Settles O47: each instruction's checks are decided in their order, and past them its effect is that its operation joins. -/
theorem movementCommands : Obligations.MovementCommands := by
  unfold Obligations.MovementCommands
  intro h s1 d a b c p e st ty cls id op s
  dsimp only
  refine ⟨?copies, ?peers, ?fill, ?pins, ?window⟩
  case copies =>
    intro hr
    refine ⟨?copy, ?count, ?source, ?dest, ?gather, ?record, ?tile, ?descriptor⟩
    case copy =>
      intro hn hx hy htag hclear hroom
      refine joins_of_body _ rfl hr ?_
      simp only [memOperand_within hn, hx, hy, htag, firstOf_none, firstOf_nil, checked_none]
      exact joinGated_room hclear hroom _
    case count =>
      intro hn
      exact traps_of_trap _ rfl hr (by simp only [memOperand_beyond hn, firstOf_some, checked_some])
    case source =>
      intro f hn hx
      exact traps_of_trap _ rfl hr (by simp only [memOperand_within hn, hx, firstOf_none, firstOf_some, checked_some])
    case dest =>
      intro f hn hx hy
      exact traps_of_trap _ rfl hr (by simp only [memOperand_within hn, hx, hy, firstOf_none, firstOf_some, checked_some])
    case gather =>
      intro t halign hrange hgot hfields hloaded hdims hi4 hgq4 hbytes hdest htag hclear hroom
      refine joins_of_body _ rfl hr ?_
      simp only [memOperand_aligned halign, hrange, firstOf_none, firstOf_nil, checked_none, readRecord_got hgot,
        routineGate_open hclear]
      rw [cpygWith_fits ⟨hfields, hloaded, hdims, hi4, hgq4⟩ hbytes hdest htag]
      exact joinGated_room hclear hroom _
    case record =>
      intro halign
      exact traps_of_trap _ rfl hr (by simp only [memOperand_misaligned halign, firstOf_some, checked_some])
    case tile =>
      intro u v hids hu hv hok htag hclear hroom
      refine joins_of_body _ rfl hr ?_
      simp only [if_neg (Nat.not_le.mpr hids), hu, hv, memOperand_holds hok, htag, firstOf_none, firstOf_nil, checked_none]
      exact joinGated_room hclear hroom _
    case descriptor =>
      intro hids hu
      exact traps_of_trap _ rfl hr (by simp only [if_neg (Nat.not_le.mpr hids), hu])
  case peers =>
    intro hr
    refine ⟨?copy, ?collective, ?count⟩
    case copy =>
      intro hn hy hdev hpeer hclear hroom
      refine joins_of_body _ rfl hr ?_
      simp only [memOperand_within hn, memOperand_within hdev, field_low16_eq hdev, memOperand_holds hpeer, hy,
        firstOf_none, firstOf_nil, checked_none]
      exact joinGated_room hclear hroom _
    case collective =>
      intro hlo hhi halign hy hdev hpeer hclear hroom
      refine joins_of_body _ rfl hr ?_
      simp only [field_low16, field_redNumber hdev, decide_eq_false (Nat.not_lt.mpr hhi), decide_eq_false (Nat.ne_of_gt hlo), Bool.or_self,
        memOperand_false, memOperand_aligned halign, hy, memOperand_within hdev, memOperand_holds hpeer, firstOf_none, firstOf_nil,
        checked_none]
      exact joinGated_room hclear hroom _
    case count =>
      intro hn
      exact traps_of_trap _ rfl hr (by simp only [← Bool.decide_or, decide_eq_true hn, memOperand_true, firstOf_some, checked_some])
  case fill =>
    intro hr
    refine ⟨fun t hdesc hstatus hclear hroom => joins_of_body _ rfl hr ?_, fun hdesc => traps_of_trap _ rfl hr (by simp only [hdesc])⟩
    simp only [hdesc, hstatus, checked_none]
    exact joinGated_room hclear hroom _
  case pins =>
    intro hr
    constructor
    · intro hbase hstatus
      constructor <;>
      · intro hclear hroom
        refine joins_of_body _ rfl hr ?_
        simp only [badBase, memOperand_aligned hbase, hstatus, firstOf_none, firstOf_nil, checked_none]
        exact joinStatus_room hclear hroom _
    · intro hbase
      constructor <;>
        exact traps_of_trap _ rfl hr (by simp only [badBase, memOperand_misaligned hbase, firstOf_some, checked_some])
  case window =>
    intro hr hcheck hclear hroom
    refine joins_of_body _ rfl hr ?_
    simp only [hcheck, checked_none]
    exact joinStatus_room hclear hroom _

end Sys2Proof.Proofs
end

section
/-!
PROOF. Snapshots (R132 to R134, R138, R139, R142, R377 to R379): what an operation leaves at its issue, the record that SNQRY stores,
and what an operation does to the lines of its context at an agent.
-/

namespace Sys2Proof.Machine

/-! ### The issuing core's context -/

@[simp] theorem setThr_core_ctx (s : State) (t : Thread) : (setThr s t).core.ctx = s.core.ctx := by unfold setThr; split <;> rfl

@[simp] theorem opJoined_core_ctx (s : State) (tl ch : BitVec 3) (d : XReg) (op : EOp) (tag : Option (Nat × Nat × Nat)) :
    (opJoined s tl ch d op tag).core.ctx = s.core.ctx := setThr_core_ctx _ _

theorem core_ctx_of_myCtx {s : State} {c : Context} (h : myCtx s = some c) : s.core.ctx = some (myAsid s) := by
  unfold myCtx at h
  split at h
  case h_1 a ha => rw [myAsid, ha, Option.getD_some]
  case h_2 => cases h

theorem ctxOf_setCtx_same (s : State) (asid : Nat) (c : Context) : ctxOf (setCtx s asid c) asid = some c := mapGet_mapSet_same _ _ _

theorem myCtx_setCtx_same {s : State} {asid : Nat} (h : s.core.ctx = some asid) (c : Context) : myCtx (setCtx s asid c) = some c := by
  simp only [myCtx, setCtx_core, h, ctxOf_setCtx_same]

/-! ### A snapshot operation at its issue (R132, R134) -/

/-- A context whose next operation of a kind has taken the next G and leaves a stack. -/
def Context.snapIssued (c : Context) (kind core : Nat) (levels : List Level) : Context :=
  { c with
    snapG := c.snapG + 1, levels := levels, snapOps := c.snapOps ++ [(c.snapG + 1, kind, 0, core)]
    snapLevels := mapSet c.snapLevels (c.snapG + 1) levels }

/-- The state in which a snapshot operation has joined tl4 and its context has taken it. -/
def snapJoined (s : State) (c : Context) (kind : Nat) (levels : List Level) (d : XReg) (ch : BitVec 3) : State :=
  setCtx (opJoined s 4 ch d (.snap (c.snapG + 1)) none) (myAsid s) (c.snapIssued kind s.me levels)

section
variable {s : State} {c : Context} (hc : myCtx s = some c)
include hc

theorem issueSnap_room (hroom : opsOn s.core 4 < 8) (kind : Nat) (levels : List Level) (d : XReg) (ch : BitVec 3) :
    issueSnap kind levels d ch s = .done (snapJoined s c kind levels d ch) := by
  simp only [issueSnap, hc, joinTl_room hroom]
  rfl

theorem endLevel_open (hl : c.levels ≠ []) (kind : Nat) (d : XReg) : endLevel kind d s = issueSnap kind c.levels.dropLast d 0 s := by
  simp [endLevel, hc, hl]

theorem endLevel_none (hl : c.levels = []) (kind : Nat) (d : XReg) : endLevel kind d s = .trap causeSnapshot 0 := by
  simp [endLevel, hc, hl]

theorem snopenWith_ok {d b : XReg} {bs : List Byte} (h : snopenOk s (rangesOf bs (xget s b).toNat) = true) (ch : BitVec 3) :
    snopenWith d b ch s bs =
      issueSnap 0 (c.levels ++ [{ og := c.snapG + 1, ranges := rangesOf bs (xget s b).toNat }]) d ch s := by
  simp [snopenWith, hc, h]

/-- An instruction whose effect is to issue a snapshot operation completes with the operation on tl4, its number in d, and the next G
and the new stack in its context. -/
theorem snapshot_joins {h : Hdr} {u : Uses} {i : Instr} {kind : Nat} {levels : List Level} {d : XReg} {ch : BitVec 3}
    (hroom : opsOn s.core 4 < 8) (body : State → Res) (hx : exec i s = issue infoM h u body s) (hr : Ready infoM h u s)
    (hb : body s = issueSnap kind levels d ch s) :
    ∃ r o c', Completes 1 i s r ∧ r.core.ops = s.core.ops ++ [o] ∧ o.op = .snap (c.snapG + 1) ∧ o.tl = 4 ∧ o.num = tlNext s.core 4 ∧
      (d ≠ 0 → xget r d = BitVec.ofNat 64 o.num) ∧ (∀ q, q ≠ d → xget r q = xget s q) ∧ r.mem = s.mem ∧ myCtx r = some c' ∧
      c'.snapG = c.snapG + 1 ∧ c'.levels = levels ∧ c'.shUsed = c.shUsed ∧ c'.ldt = c.ldt := by
  have hctx : (opJoined s 4 ch d (.snap (c.snapG + 1)) none).core.ctx = some (myAsid s) := by
    rw [opJoined_core_ctx, core_ctx_of_myCtx hc]
  refine ⟨snapJoined s c kind levels d ch, newOp s 4 ch (.snap (c.snapG + 1)) none, c.snapIssued kind s.me levels,
    completes_of_done body hx hr (hb.trans (issueSnap_room hc hroom kind levels d ch)) (opJoined_pc s _ _ _ _ _), ?_⟩
  exact ⟨opJoined_ops s _ _ _ _ _, rfl, rfl, rfl, xget_opJoined_same, fun q hq => xget_opJoined_ne hq, opJoined_mem s _ _ _ _ _,
    myCtx_setCtx_same hctx _, rfl, rfl, rfl, rfl⟩

end

/-! ### The record of SNQRY (R379) -/

/-- The effect goes on when the instruction executes again: what it has begun is all that changes. -/
theorem exec_of_again {inf : Info} {h : Hdr} {u : Uses} {i : Instr} {s s1 : State} (body : State → Res)
    (hx : exec i s = issue inf h u body s) (r : Ready inf h u s) (hb : body s = .again s1) : exec i s = .next s1 := by
  rw [hx, issue, issueS_ready body r (by simp [hb]), hb]; rfl

/-- The bytes that have come for a waiting instruction are hidden by `bare`. -/
theorem bare_got (s : State) (bs : List Byte) : bare (setThr s { thr s with got := bs }) = bare s := by
  obtain ⟨me, onMt, core, cores, ctxs, blocks, mem, poisoned, dev, net, netId, pending, out, free⟩ := s
  cases onMt <;> rfl

@[simp] theorem storeMem_core (s : State) (a : Nat) (bs : List Byte) : (storeMem s a bs).core = s.core := by
  unfold storeMem unpoison; split <;> rfl
@[simp] theorem storeMem_onMt (s : State) (a : Nat) (bs : List Byte) : (storeMem s a bs).onMt = s.onMt := by
  unfold storeMem unpoison; split <;> rfl
@[simp] theorem storeMem_ctxs (s : State) (a : Nat) (bs : List Byte) : (storeMem s a bs).ctxs = s.ctxs := by
  unfold storeMem unpoison; split <;> rfl

theorem l1Touch_threads (k : Core) (asid va : Nat) : (k.l1Touch asid va).ct = k.ct ∧ (k.l1Touch asid va).mt = k.mt := by
  unfold Core.l1Touch
  split <;> exact ⟨rfl, rfl⟩

theorem thr_l1Store (s : State) (asid va : Nat) (bytes : List Byte) :
    thr { s with core := s.core.l1Store asid va bytes } = thr s := by
  obtain ⟨hct, hmt⟩ := l1Touch_threads s.core asid va
  simp [thr, Core.l1Store, hct, hmt]

/-- A part of a store changes no thread: it is performed at once, or enters the queue and updates L1. -/
theorem thr_storePart (ch : BitVec 3) (va : Nat) (bytes : List Byte) (rel : Option Word) (s : State) (p : Nat × Nat × Nat × Nat) :
    thr (storePart ch va bytes rel s p) = thr s := by
  unfold storePart
  dsimp only
  split
  · simp [thr]
  · split
    · rfl
    · exact thr_l1Store (enqueue s _) _ _ _

/-- A watchpoint touches the debug module only. -/
theorem thr_watch (s : State) (core va n : Nat) (rd wr : Bool) : thr (watch s core va n rd wr) = thr s := by
  unfold watch
  dsimp only
  split
  case isTrue =>
    unfold setCore
    split
    case isTrue h => simp [thr, coreOf, h]
    case isFalse => rfl
  case isFalse => rfl

theorem storeRange_pc (s : State) (ch : BitVec 3) (va : Nat) (bytes : List Byte) (rel : Option Word) :
    (thr (storeRange s ch va bytes rel)).pc = (thr s).pc := by
  unfold storeRange
  split
  case h_1 => rfl
  case h_2 ps _ =>
    have hparts : thr (ps.foldl (storePart ch va bytes rel) s) = thr s :=
      List.foldlRecOn (motive := fun u => thr u = thr s) ps _ rfl fun u hu p _ => (thr_storePart ch va bytes rel u p).trans hu
    rw [thr_watch, nextSeq, thr_setThr, hparts]

section
variable {a b : XReg} {s : State} (hn : (xget s b).toNat ≤ 8) (halign : (xget s a).toNat % 64 = 0)
  (hrange : checkRange s (xget s a) 128 = none)
include hn halign hrange

theorem snqry_checks_pass :
    firstOf [memOperand (decide (8 < (xget s b).toNat)) 0, memOperand ((xget s a).toNat % 64 != 0) (xget s a),
      checkRange s (xget s a) 128] = none := by
  rw [decide_eq_false (Nat.not_lt.mpr hn), memOperand_false, memOperand_aligned halign, hrange]
  rfl

variable (hclear : ∀ x ∈ accsOf s s.me false, x.op.writes = true → x.performed = true)
include hclear

/-- SNQRY that has stored its record completes once its thread's stores are performed. -/
theorem snqryRes_performed (hgot : (thr s).got ≠ [])
    (hdone : ∀ x ∈ accsOf s s.me s.onMt, x.op.writes = true → x.performed = true) (ch : BitVec 3) : snqryRes a b ch s = .done s := by
  have hnone : ((accsOf s s.me s.onMt).any fun x => x.op.writes && decide ((thr s).seq ≤ x.seq + 1) && !x.performed) = false := by
    refine List.any_eq_false.mpr fun x hx => ?_
    by_cases hw : x.op.writes = true
    · simp [hdone x hx hw]
    · simp [hw]
  simp only [snqryRes, snqry_checks_pass hn halign hrange, checked_none, routineGate_open hclear]
  simp [hgot, hnone]

/-- SNQRY stores its record at first, and marks that it has. -/
theorem snqryRes_stores (hgot : (thr s).got = []) (hroom : queuedWrites s s.me s.onMt < 16) {c : Context} (hc : myCtx s = some c)
    (ch : BitVec 3) :
    let s1 := storeRange s ch (xget s a).toNat (snqryBytes s (myAsid s) c (xget s b).toNat) none
    snqryRes a b ch s = .again (setThr s1 { thr s1 with got := [1] }) := by
  simp only [snqryRes, snqry_checks_pass hn halign hrange, checked_none, routineGate_open hclear]
  simp [hgot, storeRoom, hroom, hc]

end

/-! ### The view of an agent (R134) -/

theorem viewOf_asid (b : Block) (asid : Nat) : (viewOf b asid).asid = asid := by
  unfold viewOf
  cases hf : b.snapViews.find? (fun v => v.asid == asid) with
  | none => rfl
  | some v => simpa using List.find?_some hf

theorem viewOf_putView (b : Block) (v : SnapView) : viewOf (b.putView v) v.asid = v := by
  have hnone : (b.snapViews.filter fun x => x.asid != v.asid).find? (fun x => x.asid == v.asid) = none := by
    simp
  rw [viewOf, Block.putView, List.find?_append, hnone, Option.none_or, List.find?_singleton]
  simp

/-! ### Restores that are due (R144) -/

@[simp] theorem putBytes_ctxs (s : State) (blk pa : Nat) (bytes : List Byte) : (putBytes s blk pa bytes).ctxs = s.ctxs := by
  unfold putBytes
  dsimp only
  split
  · exact storeMem_ctxs s pa bytes
  · rfl

theorem restoreOne_ctxs (blk : Nat) (s : State) (x : ShadowLine) : (restoreOne blk s x).ctxs = s.ctxs := by
  unfold restoreOne
  split
  · rfl
  · exact putBytes_ctxs _ _ _ _

theorem restoreDue_ctxs (s : State) (blk pa : Nat) : (restoreDue s blk pa).ctxs = s.ctxs :=
  List.foldlRecOn (motive := fun u => u.ctxs = s.ctxs) _ _ rfl fun u hu x _ => (restoreOne_ctxs blk u x).trans hu

theorem settleRestores_ctxs (s : State) (blk asid : Nat) : (settleRestores s blk asid).ctxs = s.ctxs :=
  List.foldlRecOn (motive := fun u => u.ctxs = s.ctxs) _ _ rfl fun u hu x _ => (restoreDue_ctxs u blk x.pa).trans hu

section
variable {s : State} {blk : Nat} (hnone : ∀ x ∈ (blockAt s blk).shadow, x.restore = none)
include hnone

theorem restoreDue_none (pa : Nat) : restoreDue s blk pa = s := by
  have hdue : (blockAt s blk).shadow.filter (fun x => x.pa == pa && x.restore.isSome) = [] :=
    List.filter_eq_nil_iff.mpr fun x hx => by simp [hnone x hx]
  rw [restoreDue, hdue, List.foldl_nil]

theorem settleRestores_none (asid : Nat) : settleRestores s blk asid = s :=
  List.foldlRecOn (motive := fun u => u = s) _ _ rfl fun u hu x _ => by rw [hu, restoreDue_none hnone]

end

/-! ### The lines of a context (R138, R139) -/

/-- Every line of the context is changed, and no other. -/
theorem overLines_shadow (b : Block) (asid : Nat) (f : ShadowLine → ShadowLine × Nat) :
    (overLines b asid f).1.shadow = b.shadow.map fun x => if x.asid = asid then (f x).1 else x := by
  simp only [overLines, List.map_map]
  refine List.map_congr_left fun x _ => ?_
  by_cases h : x.asid = asid <;> simp [h]

theorem overLines_mine (b : Block) (asid : Nat) {f : ShadowLine → ShadowLine × Nat} (hf : ∀ x, (f x).1.asid = x.asid) :
    (overLines b asid f).1.shadow.filter (fun x => x.asid == asid) =
      (b.shadow.filter fun x => x.asid == asid).map fun x => (f x).1 := by
  rw [overLines_shadow]
  induction b.shadow with
  | nil => rfl
  | cons x xs ih => by_cases h : x.asid = asid <;> simp [h, hf, ih]

theorem mem_overLines {b : Block} {asid : Nat} {x : ShadowLine} (f : ShadowLine → ShadowLine × Nat)
    (hx : x ∈ b.shadow.filter fun x => x.asid == asid) : (f x).1 ∈ (overLines b asid f).1.shadow := by
  obtain ⟨hmem, hmine⟩ := List.mem_filter.mp hx
  rw [overLines_shadow]
  exact List.mem_map.mpr ⟨x, hmem, if_pos (beq_iff_eq.mp hmine)⟩

theorem rejectLine_unwritten {lv : Level} {x : ShadowLine} (d : Nat) (h : x.writtenIn lv = false) :
    rejectLine d lv x = acceptLine d x := by
  simp [rejectLine, h]

theorem rejectLine_written {lv : Level} {x : ShadowLine} (d : Nat) {e : ShadowEnt} {es : List ShadowEnt} (he : x.e = e :: es)
    (h : x.writtenIn lv = true) :
    (rejectLine d lv x).1 =
      { x with restore := some e.data, lw := e.lwb, e := x.e.filter (fun e => e.lvl != d), vas := x.vas.map (fun p => (p.1, min p.2 e.lwb)) } := by
  simp [rejectLine, h, acceptLine, ShadowLine.goBack, he]

/-! ### An operation at an agent (R142) -/

/-- What an operation of a kind makes of a block's lines, with the entries it discards. -/
def snapLines (b : Block) (asid kind : Nat) : Block × Nat :=
  if kind = 1 then overLines b asid (acceptLine (viewOf b asid).levels.length)
  else if kind = 2 then
    match (viewOf b asid).levels.getLast? with
    | some lv => overLines b asid (rejectLine (viewOf b asid).levels.length lv)
    | none => (b, 0)
  else (b, 0)

theorem snapLines_open (b : Block) (asid : Nat) : snapLines b asid 0 = (b, 0) := rfl

theorem snapLines_accept (b : Block) (asid : Nat) : snapLines b asid 1 = overLines b asid (acceptLine (viewOf b asid).levels.length) :=
  rfl

theorem snapLines_reject {b : Block} {asid : Nat} {lv : Level} (h : (viewOf b asid).levels.getLast? = some lv) :
    snapLines b asid 2 = overLines b asid (rejectLine (viewOf b asid).levels.length lv) := by
  simp [snapLines, h]

/-- The state at which an operation of a kind is applied: an accept and a reject find no restore due (R144). -/
def snapSettled (s : State) (blk asid kind : Nat) : State := if kind = 0 then s else settleRestores s blk asid

theorem snapSettled_ctxOf (s : State) (blk asid kind : Nat) : ctxOf (snapSettled s blk asid kind) asid = ctxOf s asid := by
  unfold snapSettled ctxOf
  split
  · rfl
  · rw [settleRestores_ctxs]

theorem snapSettled_none {s : State} {blk : Nat} (hnone : ∀ x ∈ (blockAt s blk).shadow, x.restore = none) (asid kind : Nat) :
    snapSettled s blk asid kind = s := by
  rw [snapSettled, settleRestores_none hnone, ite_self]

/-- An operation applied: the lines, the view and the context's record of the operation change. -/
theorem applySnap_eq {s : State} {asid : Nat} {c : Context} (hc : ctxOf s asid = some c) (blk g kind : Nat) :
    let u := snapSettled s blk asid kind
    let r := snapLines (blockAt u blk) asid kind
    applySnap s blk asid g kind =
      setCtx (setBlock u blk (r.1.putView { asid := asid, applied := g, levels := (mapGet c.snapLevels g).getD [] })) asid
        (ackSnap c g r.2) := by
  have hu : ctxOf (if kind = 0 then s else settleRestores s blk asid) asid = some c := (snapSettled_ctxOf s blk asid kind).trans hc
  have hset (k : Block) : ctxOf (setBlock (if kind = 0 then s else settleRestores s blk asid) blk k) asid = some c := hu
  simp only [applySnap, hu, hset, Option.bind_some, viewOf_asid]
  rfl

/-- A record of a context's operations with one more acknowledgement of operation g. -/
def acked (g : Nat) (o : Nat × Nat × Nat × Nat) : Nat × Nat × Nat × Nat :=
  if o.1 = g then (o.1, o.2.1, o.2.2.1 + 1, o.2.2.2) else o

theorem acked_fst (g : Nat) (o : Nat × Nat × Nat × Nat) : (acked g o).1 = o.1 := by
  unfold acked
  split <;> rfl

/-- The last acknowledgement only refunds the entries beside (R137). -/
theorem ackSnap_snapOps (c : Context) (g n : Nat) : (ackSnap c g n).snapOps = c.snapOps.map (acked g) := by
  unfold ackSnap
  dsimp only
  split <;> rfl

/-- The context counts one more acknowledgement of the operation. -/
theorem snapOp_ackSnap {c : Context} {g kind acks core : Nat} (h : snapOp c g = some (kind, acks, core)) (n : Nat) :
    snapOp (ackSnap c g n) g = some (kind, acks + 1, core) := by
  obtain ⟨o, hfind, ho⟩ := Option.map_eq_some_iff.mp h
  have hg : o.1 = g := by simpa using List.find?_some hfind
  have hsame : (fun o => o.1 == g) ∘ acked g = fun o => o.1 == g := funext fun o => by rw [Function.comp, acked_fst]
  rw [snapOp, ackSnap_snapOps, List.find?_map, hsame, hfind, Option.map_some, Option.map_some, acked, if_pos hg, ho]

section
variable {s : State} {asid : Nat} {c : Context} (hc : ctxOf s asid = some c) (blk g : Nat)
include hc

theorem ctxOf_applySnap (kind : Nat) : ∃ n, ctxOf (applySnap s blk asid g kind) asid = some (ackSnap c g n) :=
  ⟨_, by rw [applySnap_eq hc, ctxOf_setCtx_same]⟩

theorem blockAt_applySnap (kind : Nat) :
    blockAt (applySnap s blk asid g kind) blk = (snapLines (blockAt (snapSettled s blk asid kind) blk) asid kind).1.putView
      { asid := asid, applied := g, levels := (mapGet c.snapLevels g).getD [] } := by
  rw [applySnap_eq hc]
  exact blockAt_setBlock_same _ _ _

theorem viewOf_applySnap (kind : Nat) :
    viewOf (blockAt (applySnap s blk asid g kind) blk) asid =
      { asid := asid, applied := g, levels := (mapGet c.snapLevels g).getD [] } := by
  rw [blockAt_applySnap hc]
  exact viewOf_putView _ _

theorem shadow_applySnap_open : (blockAt (applySnap s blk asid g 0) blk).shadow = (blockAt s blk).shadow := by
  rw [blockAt_applySnap hc]
  rfl

theorem shadow_applySnap (hnone : ∀ x ∈ (blockAt s blk).shadow, x.restore = none) (kind : Nat) :
    (blockAt (applySnap s blk asid g kind) blk).shadow = (snapLines (blockAt s blk) asid kind).1.shadow := by
  rw [blockAt_applySnap hc, snapSettled_none hnone]
  rfl

end

/-- An operation that other agents have still to acknowledge goes on. -/
theorem endSnap_open {s : State} {asid g kind acks core : Nat} {c : Context} (hc : ctxOf s asid = some c)
    (hop : snapOp c g = some (kind, acks, core)) (h : acks ≠ 256) : endSnap s asid g = s := by
  unfold endSnap
  rw [hc, Option.bind_some, hop]
  split
  case h_1 heq => exact absurd (congrArg (fun o => o.2.1) (Option.some.inj heq)) h
  case h_2 => rfl

theorem exec_snapshotOpApply {s : State} {blk asid g kind acks core : Nat} {c : Context} (hready : snapReady s blk asid g = true)
    (hc : ctxOf s asid = some c) (hop : snapOp c g = some (kind, acks, core)) (hacks : acks < 255) :
    exec (.snapshotOpApply blk asid g) s = .next (applySnap s blk asid g kind) := by
  obtain ⟨n, hafter⟩ := ctxOf_applySnap hc blk g kind
  change execSnapshotOpApply blk asid g s = _
  simp only [execSnapshotOpApply, hready, hc, hop, Option.bind_some, Bool.not_true, Bool.false_eq_true, if_false]
  rw [endSnap_open hafter (snapOp_ackSnap hop _) (by omega)]

end Sys2Proof.Machine
end

section
namespace Sys2Proof.Proofs

open Sys2Proof.Machine

/-- Settles O45: an instruction's operation joins tl4 as its context takes the next G, and an application at an agent changes each line of
the context on its own. -/
theorem snapshots : Obligations.Snapshots := by
  unfold Obligations.Snapshots
  intro h d a b s
  dsimp only
  refine ⟨?issue, ?query, ?agent⟩
  case issue =>
    intro c hclear hc hroom
    refine ⟨?snopen, ?ends, ?none⟩
    case snopen =>
      intro hr hlo hhi halign hrange hgot hok
      refine snapshot_joins (kind := 0) (ch := 0) hc hroom _ rfl hr ?_
      have hcount : (decide ((xget s b).toNat = 0) || decide (4 < (xget s b).toNat)) = false := by
        simp only [Bool.or_eq_false_iff, decide_eq_false_iff_not]; omega
      simp only [hcount, memOperand_false, memOperand_aligned halign, hrange, firstOf_none, firstOf_nil, checked_none,
        readRecord_got hgot, routineGate_open hclear]
      exact snopenWith_ok hc hok 0
    case ends =>
      intro hr hl
      exact ⟨snapshot_joins hc hroom _ rfl hr (endLevel_open hc hl 1 d), snapshot_joins hc hroom _ rfl hr (endLevel_open hc hl 2 d)⟩
    case none =>
      intro hr hl
      exact ⟨traps_of_trap _ rfl hr (endLevel_none hc hl 1 d), traps_of_trap _ rfl hr (endLevel_none hc hl 2 d)⟩
  case query =>
    intro hr hn halign hrange hclear
    constructor
    · intro hgot hdone
      exact completes_of_done _ rfl hr (snqryRes_performed hn halign hrange hclear hgot hdone 0) rfl
    · intro hgot hroom c hc
      refine ⟨_, exec_of_again _ rfl hr (snqryRes_stores hn halign hrange hclear hgot hroom hc 0), ?_, ?_, bare_got _ _⟩
      · rw [thr_setThr]
      · rw [thr_setThr, ← storeRange_pc s 0]
  case agent =>
    intro blk id g kind acks core c hready hc hop hacks
    obtain ⟨n, hc'⟩ := ctxOf_applySnap hc blk g kind
    refine ⟨_, _, exec_snapshotOpApply hready hc hop hacks, viewOf_applySnap hc blk g kind, hc', snapOp_ackSnap hop n, ?opens,
      fun hnone => ⟨?accepts, ?rejects⟩⟩
    case opens =>
      rintro rfl
      exact shadow_applySnap_open hc blk g
    case accepts =>
      rintro rfl
      rw [shadow_applySnap hc blk g hnone, snapLines_accept]
      exact overLines_mine _ id fun _ => rfl
    case rejects =>
      rintro lv rfl hlv x hx
      rw [shadow_applySnap hc blk g hnone, snapLines_reject hlv]
      have hmem := mem_overLines (rejectLine (viewOf (blockAt s blk) id).levels.length lv) hx
      constructor
      · intro hw
        rwa [rejectLine_unwritten _ hw] at hmem
      · intro e es he hw
        rwa [rejectLine_written _ he hw] at hmem

end Sys2Proof.Proofs
end
